-- ==== Sys2Proof/Word.lean ====
section
/-! DEFINITION. The words of the ZD-3251 and the plainest arithmetic on them (spec/00_scope.md R4 to R8). -/
namespace Sys2Proof

/-- One byte (R8). -/
abbrev Byte := BitVec 8
/-- One 32-bit packet, step or register word. -/
abbrev W32 := BitVec 32
/-- One 64-bit register or timebase count (R5). -/
abbrev W64 := BitVec 64

end Sys2Proof
end

