-- ==== Sys2Proof/Syntax.lean ====
section
/-! DEFINITION. The commands of the ZD-3251: one constructor of Instr for every row of spec/opcode_table.json, with
the row's operands. A packet row carries the packet (spec/04_host_interface_commands.md Table 4.16); a row that
reports a happening carries what the happening brings with it (a measured value, the data of a transfer). -/
namespace Sys2Proof

/-- A command packet as fetched: the function and ring that carried it, the header of Tables 4.16 and 4.17 and the
payload words w4 onwards. The opcode is the row's constructor. -/
structure Pkt where
  fn : Fin 64 := 0
  ring : Fin 16 := 0
  /-- CONTEXT, word 0 [25:16]. -/
  ctx : Fin 1024 := 0
  tag : BitVec 16 := 0
  /-- LENGTH in 32-bit words, word 1 [31:16]. -/
  length : BitVec 16 := 4
  late : BitVec 2 := 0
  fence : Bool := false
  noCpl : Bool := false
  force : Bool := false
  /-- The reserved bits of word 0: [31:26] above [15:13]. -/
  resv : BitVec 9 := 0
  /-- The activation count ACT_HI:ACT_LO; 0 is immediate. -/
  act : W64 := 0
  payload : List W32 := []
deriving DecidableEq, Repr, Inhabited

/-- What the configuration space of a function shows (Table 4.1, R91, R95, R121), by name: where the PCI Express Base Specification puts
each item is not in the spec. -/
inductive CfgItem where
  | vendorId | deviceId | classCode
  /-- The largest payload and read request in bytes; the largest link speed (Link Speed code) and width. -/
  | maxPayload | maxReadRequest | maxSpeed | maxWidth
  | noSoftReset | flr | ari | aer | ecrc | tenBitTags
  | totalVfs | numVfs | vfEnable
  | msixVectors | msixEnable | functionMask
  /-- The completion-timeout ranges A to D supported, as bits 0 to 3, and the value programmed. -/
  | timeoutRanges | timeoutValue
  /-- An option that is not supported: INTx, MSI, ASPM, ATS, PRI, PASID, TPH, Resizable BAR, or any not listed. -/
  | unsupported
deriving DecidableEq, Repr

/-- A configuration request (R90, R91): a read, a write of the SR-IOV control fields of function PF0, of a function's MSI-X control bits,
or of the completion-timeout value of Device Control 2 of function PF0. -/
inductive CfgReq where
  | read (item : CfgItem)
  | writeSriov (vfEnable : Bool) (numVfs : BitVec 16) (ari : Bool)
  | writeMsix (enable functionMask : Bool)
  | writeTimeout (value : BitVec 4)
  /-- The boot ROM has loaded the configuration space. -/
  | spaceLoaded
deriving DecidableEq, Repr

/-- A request of the squirrel or of a write queue (R294): a read by its tag, a write by its pseudo-channel and unit. -/
inductive ReqRef where
  | read (tag : BitVec 16)
  | write (pc : Fin 64) (unit : BitVec 21)
deriving DecidableEq, Repr

/-- The three link events of R99. -/
inductive LinkEvent where
  | perst | hotReset | linkDown
deriving DecidableEq, Repr

/-- The supply faults of Table 2.9. -/
inductive SupplyCause where
  | p12vUnder | p12vOver | p3v3Under | p3v3Over
deriving DecidableEq, Repr

/-- What a failed host-memory read was reading (R121). -/
inductive ReadTarget where
  | ring (fn : Fin 64) (ring : Fin 16)
  /-- The data buffer of the packet `tag` of this ring; `data` is what was read before the failure. -/
  | data (fn : Fin 64) (ring : Fin 16) (tag : BitVec 16) (data : List Byte)
deriving DecidableEq, Repr

/-- A slot set of the MRAM, as the boot tries it (R449). -/
inductive FwSet where
  | a | b | safe | recovery
deriving DecidableEq, Repr

/-- What the boot found of one image: its processor reported running, or the check that failed (Table 17.3). -/
structure ImgCheck where
  /-- 0 passed, else the code of Table 17.3. -/
  code : BitVec 8 := 0
deriving DecidableEq, Repr, Inhabited

/-- The outcome of reading a word of DRAM through both ECCs (R321 to R323). -/
inductive EccResult where
  | clean
  | onDie
  | corrected
  | uncorrectable (word : Fin 8) (syndrome : W32) (severity : BitVec 2) (check : W32)
deriving DecidableEq, Repr

/-- What an SMBus transfer does after its command code: it reads, or it writes bytes, the packet error checking byte among them. -/
inductive SmbXfer where
  | read
  | write (data : List Byte)
deriving DecidableEq, Repr

/-- Which of the three causes stops a voice's data (R208, R209, R349). -/
inductive FillCause where
  | data | bankNotOn | poison
deriving DecidableEq, Repr

/-- An output stage (R243, R273). -/
inductive OutStage where
  | fast (c : Fin 32)
  | prec (n : Fin 16)
deriving DecidableEq, Repr

/-- The end of a calibration batch's checks (R411): the first that failed, as code, instance and range, or none with the values
found, keyed by CAL_ offset; and what the tests of a SELF failed: output stages, elements, engines (R145, R242, R243, R273). -/
structure BatchEnd where
  failure : Option (BitVec 8 × BitVec 8 × BitVec 8) := none
  vals : List (Nat × W32) := []
  fast : List (Fin 32) := []
  prec : List (Fin 16) := []
  elements : List (Fin 32 × Fin 54) := []
  engines : List (Fin 256) := []
  /-- Spare rows that failed the power-up memory test: pseudo-channel, DRAM bank, spare (R335). -/
  spares : List (Fin 64 × Fin 32 × Fin 48) := []
deriving DecidableEq, Repr, Inhabited

/-- One precision channel's readings in a monitor frame (R395). -/
structure PchReading where
  force : BitVec 24 := 0
  sense : BitVec 24 := 0
  amps : BitVec 24 := 0
  /-- The change of the sense voltage that the injections of R272 have caused, in 2 µV. -/
  moved : BitVec 24 := 0
  /-- The output is at its current limit or its compliance. -/
  atLimit : Bool := false
deriving DecidableEq, Repr, Inhabited

/-- The SMBus readings of Table 2.11, LINEAR11. -/
structure SmbReadings where
  vin : BitVec 16 := 0
  iin : BitVec 16 := 0
  pin : BitVec 16 := 0
  temp1 : BitVec 16 := 0
  temp2 : BitVec 16 := 0
  temp3 : BitVec 16 := 0
deriving DecidableEq, Repr, Inhabited

/-- Space returned by zeroing (R139, R344). -/
inductive ZeroDone where
  | extents (first n : Nat)
  | bankSpace (b : Fin 128) (off len : Nat)
  | bank (b : Fin 128)
deriving DecidableEq, Repr

/-- The commands, in the order of spec/opcode_table.json. -/
inductive Instr where
  -- command packets
  | nop (p : Pkt) | ping (p : Pkt) | getInfo (p : Pkt) | timeSet (p : Pkt) | schedCancel (p : Pkt)
  | ctxOpen (p : Pkt) | ctxClose (p : Pkt) | ctxReset (p : Pkt) | ctxBind (p : Pkt) | ctxClaim (p : Pkt)
  | ctxRelease (p : Pkt) | ctxStatus (p : Pkt)
  | segAlloc (p : Pkt) | segWrite (p : Pkt) | segFree (p : Pkt) | segPin (p : Pkt) | segRead (p : Pkt) | segMirror (p : Pkt)
  | prgLoad (p : Pkt) | prgCheck (p : Pkt) | prgArm (p : Pkt) | prgStart (p : Pkt) | prgStop (p : Pkt)
  | jmpArm (p : Pkt) | ctrSet (p : Pkt)
  | scnDefine (p : Pkt) | scnStartAt (p : Pkt) | scnAbort (p : Pkt) | scnDelete (p : Pkt)
  | fchConfig (p : Pkt) | fchMode (p : Pkt) | pchConfig (p : Pkt) | pchLoad (p : Pkt) | pchStrobe (p : Pkt)
  | pchQueue (p : Pkt) | vocConfig (p : Pkt)
  | clkConfig (p : Pkt) | clkStep (p : Pkt) | clkSync (p : Pkt)
  | tmuConfig (p : Pkt) | tmuRun (p : Pkt) | tmuRead (p : Pkt)
  | calRun (p : Pkt) | calSave (p : Pkt) | calRestore (p : Pkt) | aocCtrl (p : Pkt)
  | evtRoute (p : Pkt) | evtLut (p : Pkt) | evtFire (p : Pkt)
  | bnkPower (p : Pkt) | bnkHandover (p : Pkt)
  | fwStage (p : Pkt) | fwSchedule (p : Pkt) | fwStatus (p : Pkt) | fwCancel (p : Pkt)
  | logRead (p : Pkt) | faultAck (p : Pkt) | memDiag (p : Pkt)
  -- scheduler, rings and notices
  | timedActionActivation
  | packetFetch (fn : Fin 64) (ring : Fin 16) (length : BitVec 16)
  | completionWrite (fn : Fin 64) (cq : Fin 16)
  | faultNotice (fn : Fin 64)
  | msixVectorSend (fn : Fin 64) (vec : Fin 32)
  -- register writes and reads with a row of their own
  | sysCrCtrlWrite (fn : Fin 64) (ring : Fin 16) (v : W32)
  | sysCrTailDoorbell (fn : Fin 64) (ring : Fin 16) (v : W32)
  | sysCqCtrlWrite (fn : Fin 64) (cq : Fin 16) (v : W32)
  | sysCqHeadDoorbell (fn : Fin 64) (cq : Fin 16) (v : W32)
  | sysFnFire (fn : Fin 64) (v : W32)
  | sysFnStrobe (fn : Fin 64) (v : W32)
  | sysCommitIrq (v : W32)
  /-- `win = none` reads CLK_TB_LO; `some f` reads SYS_FN_TB_LO in the window of function f. -/
  | clkTbLoRead (win : Option (Fin 64))
  | ctxLeadRead | sqlLeadRead | sqlUrgMaxRead
  | sqlPortLatRead (p : Fin 7)
  | memMaintRequest (v : W32)
  | bnkOwnerNextWrite (b : Fin 128) (v : W32)
  | fwRcvCmdWrite (v : W32) (buf : List Byte)
  | fwRcvCmdReboot (v : W32)
  /-- A write of 4 (`wide = false`) or 8 bytes at a byte offset of the function's BAR0, or of BAR2, which holds its MSI-X table. -/
  | registerWrite (fn : Fin 64) (bar2 : Bool) (addr : BitVec 22) (wide : Bool) (v : W64)
  | configurationRequest (fn : Fin 64) (r : CfgReq)
  -- service UART
  | uartPing (echo : W32)
  | uartWrite (image : BitVec 8) (final : BitVec 8) (off : W32) (data : List Byte)
  | uartStatus | uartReboot
  | uartLog (first count : BitVec 16)
  | uartFrameDiscard
  -- SMBus
  /-- With its packet error checking byte right, or without one; with a wrong one the transfer is `smbOtherCommand`'s. -/
  | clearFaults
  | capability | statusByte | statusWord | statusInput | statusTemperature | statusCml
  | readVin | readIin | readPin | readTemperature1 | readTemperature2 | readTemperature3
  | pmbusRevision | mfrId | mfrModel | mfrRevision | mfrSerial
  | smbReadingRefresh (r : SmbReadings)
  -- power, link and resets
  | powerUp
  /-- `hot`: a sensor of R444 reads 112 °C or above at its first reading. -/
  | pwrgdRise (hot : Bool)
  | pwrgdHeldLow
  | supplyFault (cause : SupplyCause)
  | outputSwitchOpen
  /-- PERSTn is deasserted and PWRGD high; `width` lanes at `speed` (Table 19.5) are negotiated. -/
  | linkTraining (width : BitVec 4) (speed : BitVec 3)
  | linkEvent (e : LinkEvent)
  | flrVf (fn : Fin 64)
  | d3hotToD0 (fn : Fin 64)
  | flrPf0
  | hostReadFailure (t : ReadTarget)
  -- boot
  | rcvrnSample (low : Bool)
  | bootMgmtStart (set : FwSet) (mgmt : ImgCheck)
  /-- The checks of types 1 to 7 of the set tried, in type order, and the first pair of R453 that fails, if any. -/
  | bootImagesLoaded (checks : List ImgCheck) (untested : Option (Fin 8 × Fin 8)) (digestFail : Bool)
  | imageStartTimeout (type : Fin 8)
  -- clock
  | adpllLock (band : BitVec 8) (tune : BitVec 16)
  | requalify (ok : Bool)
  | lossOfLock | lossOfReference | refReturned
  /-- `gapPs`: the gap of Table 3.5 in picoseconds; `changePpb`: the change of reference frequency in 10^-9. -/
  | returnEnd (gapPs changePpb : Nat)
  | clkStepRampEnd | phaseSlewEnd
  | syncMark (marginPs : BitVec 16) (frac : BitVec 16)
  | syncLoad | clkSyncWaitExpiry
  | timerTick (k : Fin 41)
  -- steps: the engine issues the next step of the context's thread, whose opcode is the row's
  | play (c : Fin 1024) | hop (c : Fin 1024) | mark (c : Fin 1024) | wait (c : Fin 1024) | waitEvt (c : Fin 1024)
  | trig (c : Fin 1024) | branch (c : Fin 1024) | branchEvt (c : Fin 1024) | loop (c : Fin 1024) | ctr (c : Fin 1024)
  | call (c : Fin 1024) | ret (c : Fin 1024) | jmpen (c : Fin 1024) | endStep (c : Fin 1024)
  | endReached (c : Fin 1024)
  | eventStepTimeout (c : Fin 1024)
  /-- The oldest registered event of the channel is delivered. -/
  | eventDelivery (ch : Fin 256)
  /-- The edge of `frac` (2^-16 LC before lane boundary b) reaches slot `slot` of context `c`. -/
  | foxJump (c : Fin 1024) (slot : Fin 4) (frac : Nat)
  | stepStall (c : Fin 1024) | stepSpin (c : Fin 1024)
  | engineSelfCheckError (e : Fin 256)
  | migrationComplete (e : Fin 256)
  | preRunStart (c : Fin 1024) | startInstant (c : Fin 1024)
  /-- The lane cycles by which the action misses its deadline. -/
  | actionLate (v : Fin 256) (lateLc : Nat)
  | voiceActionEnd (v : Fin 256)
  /-- `overload`: a bank over its limit did not serve `count` samples in time, `first` the first of them within the action (R354); else
  the voice finds for itself what has not landed, came poisoned, or lies in a bank not ON. -/
  | voiceUnderrun (v : Fin 256) (overload : Bool) (first count : Nat)
  | voiceRampEnd (v : Fin 256)
  | stopDrainEnd (c : Fin 1024) | resetComplete (c : Fin 1024) | closeDrainEnd (c : Fin 1024) | orphansReclaimed (c : Fin 1024)
  | zeroingComplete (z : ZeroDone)
  | followUpdate (slot : Fin 16)
  | startBoundary (c : Fin 32) | stopRampEnd (c : Fin 32)
  | clrnFall | clrnRise
  | sampleLinkLoss (die : Fin 4)
  /-- `ratio`: G with 4,096 = 1.0; `content`: qualifying content for a verdict; `train`: content of R400 present; `sat`: output saturation. -/
  | monitorWindowEnd (c : Fin 32) (ratio : BitVec 16) (content train sat : Bool)
  | driverCurrentLimit (c : Fin 32)
  | elementSwap (c : Fin 32) (spare out : Fin 54)
  /-- `trim`: the trim found; `plausible`: R418; `trimmable`: R242. -/
  | elementMeasurementEnd (c : Fin 32) (trim : BitVec 16) (plausible trimmable : Bool)
  | outputStageFault (o : OutStage)
  | queueTick (n : Fin 16)
  | ldstbRise (g : Fin 4)
  | strobeTransfer (g : Fin 4)
  | disableRampEnd (n : Fin 16)
  | settleHoldTake (n : Fin 16) | settleHoldRelease (n : Fin 16) | holdForced (n : Fin 16)
  | pchSwitchHold (n : Fin 16) | pchSwitchRelease (n : Fin 16) | pchSwitchEnd (n : Fin 16)
  | clearHoldRefresh
  | complianceTrip (n : Fin 16)
  | monitorFrame (pch : List PchReading) (items : List (BitVec 24))
  | precLinkLoss | precLinkReturn
  -- fetch and memory controllers
  | streamFetchIssue | urgentFetchIssue
  | fetchLanded (tag : BitVec 16) (seq : BitVec 4) (r : EccResult)
  | fetchTimeout (tag : BitVec 16)
  | requestPromotion (r : ReqRef)
  | writeEnqueue (pc : Fin 64) (unit : BitVec 21) (port : Fin 7)
  | perBankRefresh (pc : Fin 64) (b : Fin 32)
  | allBankRefresh (pc : Fin 64)
  | rowIdleClose (pc : Fin 64) (b : Fin 32)
  | stackTempRead (t0 t1 : BitVec 8)
  | rowCounterWindow (pc : Fin 64) (b : Fin 32)
  | neighbourRefresh (pc : Fin 64) (b : Fin 32) (row : BitVec 14)
  | scrubRead (r : EccResult)
  /-- The bad copy's word at this device address is rewritten from its partner. -/
  | mirrorRepair (dpa : BitVec 35)
  | readDelayTrack (pc : Fin 64) (lane : Fin 5) (up : Bool) (margin : BitVec 8)
  | writeDelayCheck (pc : Fin 64) (lane : Fin 5) (delay : BitVec 8) (margin : BitVec 8)
  | maintWindowClose
  | freezeTimeout (pc : Fin 64)
  | rowRetireCopyEnd (pc : Fin 64)
  | phySelfCheckFail (pc : Fin 64)
  /-- The recovery step that ended: 1 or 2 of R336, and whether its pattern passed. -/
  | pcRecoveryEnd (pc : Fin 64) (step2 ok : Bool)
  | pinCopyEnd (slot : BitVec 16) | mirrorCopyEnd (slot : BitVec 16)
  | jmpArmCopyEnd (c : Fin 1024) (slot : Fin 4)
  | bankTransitionEnd (b : Fin 128) | handoverTake (b : Fin 128) | handoverTimeout (b : Fin 128)
  -- event inputs and TMU
  /-- An edge crosses at e; b - (e + 2.225 ns) is `frac` units of 2^-16 LC, so the stamp is b - 3.56 LC - frac. -/
  | inputEdge (i : Fin 16) (rising : Bool) (frac : BitVec 16)
  | holdOffEnd (i : Fin 16) (level : Bool)
  | tmuSettled (i : Fin 16)
  | tdcCalibration (i : Fin 16)
  | tmuResult (k : Fin 16) | tmuBlockTimeout (k : Fin 16)
  | eoPulseStart (n : Fin 16) | eoPulseEnd (n : Fin 16)
  | lutCellFire (l : Fin 32)
  -- output correction and calibration
  /-- `small`: the change is below -80 dBFS; `grown`: the residual is larger than at the update before. -/
  | adaptationUpdate (c : Fin 32) (small grown : Bool) (residual change : BitVec 16)
  | autoCommit (c : Fin 32)
  | calBatchEnd (e : BatchEnd)
  | calCommit
  -- watchdogs, temperature, warm restart
  | mgmtWatchdog
  | procHeartbeatLoss (memPhy : Bool)
  /-- 0 to 3: converter controller n; 4: the precision controller. -/
  | ctrlWatchdog (n : Fin 5)
  | processorRestartEnd (p : Fin 8)
  /-- A sensor's reading completes a run of 20 ms (R442): the sensor, its reading in 1/256 °C and its new level. -/
  | tempLevelChange (sensor : Fin 9) (reading : BitVec 16) (level : Fin 4)
  | tempTrip (sensor : Fin 9)
  | coldplateHigh (reading : BitVec 16) (high : Bool)
  | fwQuietCheck | warmRestart
  | warmRestartEnd (durationUs : Nat)
  | commandTimeout (fn : Fin 64) (ring : Fin 16) (tag : BitVec 16) (done : List Byte)
  | hostTransferEnd (fn : Fin 64) (ring : Fin 16) (tag : BitVec 16) (data : List Byte)
  | sampleLinkReturn (die : Fin 4)
  | pcRetrainEnd (pc : Fin 64) (ok : Bool)
  | markerTransition (m : Fin 64)
  | voiceActionStart (v : Fin 256)
  | unknownOpcode (op : BitVec 8) (p : Pkt)
  | uartBadFrame (badCrc : Bool) (type : BitVec 8)
  | smbOtherCommand (xfer : SmbXfer) (code : BitVec 8)
  /-- The reference deviation over 10 µs, in units of 2^-40. -/
  | refDeviationMeasure (dev : BitVec 32)
deriving DecidableEq, Repr

end Sys2Proof
end

