-- ==== Sys2Proof/Decode.lean ====
section
/-! DEFINITION. The commands a word spells by the table's bits. No row of spec/opcode_table.json gives bits, so no word
spells one. -/
namespace Sys2Proof

/-- The command of a word: none, since no row of the table carries bits. -/
def decodeTableWord (_nbits _w : Nat) : Option Instr := none

end Sys2Proof
end

