-- ==== Sys2Proof/Config.lean ====
section
/-! DEFINITION. What one module fixes at its making, and the free values: constants with no body, of which nothing can be
proved, where the spec gives an effect but not the value. -/
namespace Sys2Proof.Config

/-- Abapany's PCI vendor ID (Table 19.11): the spec names it and does not state it. -/
opaque vendorId : BitVec 16
/-- The hardware revision of the eFuse bank (Table 19.10). -/
opaque hwRev : BitVec 8
/-- The module serial number (Table 19.12). -/
opaque serial : W64
/-- The serial number as the characters MFR_SERIAL returns (Table 2.11). -/
opaque serialText : List Byte
/-- The hardware revision as the characters MFR_REVISION returns. -/
opaque revText : List Byte
/-- VERSION of the safe set's image of each type (Table 17.20). -/
opaque safeVer : Nat → W32
/-- The factory trim at each CAL_ offset (Tables 15.23 to 15.25). -/
opaque factoryTrim : Nat → W32
/-- Coefficient i of the factory-neutral correction tables of a mode (R399); the spec gives no numbers. -/
opaque neutral : Nat → Nat → W32
/-- Word k of the header of the image that slot i of the MRAM held before this power-up (Table 17.2). -/
opaque mramWord : Nat → Nat → W32
/-- Whether a linear ramp that stands at d / n codes, between two codes, takes the upper one (R253). -/
opaque rampUp : Int → Nat → Bool
/-- Tap j of phase p of the vernier's filter (R198). -/
opaque vernTap : Nat → Nat → Rat
/-- What the vernier's filter takes for a sample that is not its action's or cannot be had: voice and sample index. -/
opaque beyond : Nat → Int → Rat × Rat
/-- The cosine and the sine of n / d turns as the NCO and the channel carrier form them; 1 and 0 at n = 0 (R195, R202, R214). -/
opaque cosTurn : Nat → Nat → Rat
opaque sinTurn : Nat → Nat → Rat
/-- Whether a sum half-way between two values of the summer's format takes the upper one (R212). -/
opaque sumTie : Int → Bool
/-- Tap j of phase p of the interpolation filter of a mode (R213). -/
opaque interpTap : Nat → Nat → Nat → Rat
/-- The number a coefficient word of the correction tables spells (Table 15.6). -/
opaque coeff : W32 → Rat
/-- The modulator of a mode and centre: from its state and a sample, its next state and a choice of level (R227, Table 8.1). -/
opaque modulate : Nat → Nat → Nat → Rat → Nat × Nat
/-- The decay of LOCKMON's filter over n lane cycles, e^(−n/160,000), above 0 (R64): the spec gives it as a formula whose values are not
rational. -/
opaque decay : Nat → Rat
/-- A byte the spec leaves open, at the n-th asking. -/
opaque freeByte : Nat → Byte
/-- A word the spec leaves open. -/
opaque freeWord : Nat → W32
/-- A device choice the spec leaves open. -/
opaque freeNat : Nat → Nat

end Sys2Proof.Config
end

