-- ==== Sys2Proof/Machine/Table.lean ====
section
/-! DEFINITION. Sparse tables keyed by a number, in one canonical form: keys strictly rising and no entry equal to
what an unlisted key reads as. Arrays of units, program areas and both waveform memories are held so. -/
namespace Sys2Proof.Machine

/-- A sparse table: what is not listed reads as the default given to each operation. -/
abbrev Tbl (α : Type) := List (Nat × α)

/-- What the table holds at `k`; `d` where nothing is listed. -/
def Tbl.get {α : Type} (d : α) : Tbl α → Nat → α
  | [], _ => d
  | (j, v) :: t, k => if k = j then v else Tbl.get d t k

/-- The entry (k, v) in its place, in place of one at `k`. -/
def Tbl.put {α : Type} : Tbl α → Nat → α → Tbl α
  | [], k, v => [(k, v)]
  | (j, w) :: t, k, v => if k = j then (k, v) :: t else if k < j then (k, v) :: (j, w) :: t else (j, w) :: Tbl.put t k v

/-- The table with `v` at `k`; writing the default removes the entry, so equal tables are equal data. -/
def Tbl.set {α : Type} [DecidableEq α] (d : α) (t : Tbl α) (k : Nat) (v : α) : Tbl α :=
  if v = d then t.filter (fun e => !decide (e.1 = k)) else Tbl.put t k v

/-- Every key is at least `lo`, keys rise strictly and no entry is the default. -/
def Tbl.wfFrom {α : Type} [DecidableEq α] (d : α) : Nat → Tbl α → Bool
  | _, [] => true
  | lo, (j, v) :: t => decide (lo ≤ j) && !decide (v = d) && Tbl.wfFrom d (j + 1) t

/-- The canonical form. -/
def Tbl.wf {α : Type} [DecidableEq α] (d : α) (t : Tbl α) : Bool := Tbl.wfFrom d 0 t

/-- Write a run of values at consecutive keys. -/
def Tbl.setMany {α : Type} [DecidableEq α] (d : α) (t : Tbl α) (k : Nat) : List α → Tbl α
  | [] => t
  | v :: vs => Tbl.setMany d (Tbl.set d t k v) (k + 1) vs

/-- The `n` values from key `k` up. -/
def Tbl.getMany {α : Type} (d : α) (t : Tbl α) (k : Nat) : Nat → List α
  | 0 => []
  | n + 1 => Tbl.get d t k :: Tbl.getMany d t (k + 1) n

/-- Drop what is listed from key `k` up to, not including, `k + n` (those keys read as the default again). -/
def Tbl.clear {α : Type} (t : Tbl α) (k n : Nat) : Tbl α :=
  t.filter (fun e => decide (e.1 < k) || decide (k + n ≤ e.1))

/-- Apply `f` to every listed entry that keeps its key, dropping entries that became the default. -/
def Tbl.mapVals {α : Type} [DecidableEq α] (d : α) (f : Nat → α → α) : Tbl α → Tbl α
  | [] => []
  | (j, v) :: t => if f j v = d then Tbl.mapVals d f t else (j, f j v) :: Tbl.mapVals d f t

/-- The listed keys whose entry satisfies `p`, rising. -/
def Tbl.keysWhere {α : Type} (p : Nat → α → Bool) : Tbl α → List Nat
  | [] => []
  | (j, v) :: t => if p j v then j :: Tbl.keysWhere p t else Tbl.keysWhere p t

/-- Does some listed entry satisfy `p`? -/
def Tbl.anyEntry {α : Type} (p : Nat → α → Bool) (t : Tbl α) : Bool := t.any (fun e => p e.1 e.2)

/-- The lowest key below `n` that satisfies `p`. -/
def firstFrom (p : Nat → Bool) : Nat → Nat → Option Nat
  | _, 0 => none
  | k, n + 1 => if p k then some k else firstFrom p (k + 1) n

/-- The lowest key among 0 to `n - 1` that satisfies `p`. -/
def firstBelow (n : Nat) (p : Nat → Bool) : Option Nat := firstFrom p 0 n

end Sys2Proof.Machine
end

