-- ==== Sys2Proof/Machine/State.lean ====
section
/-! DEFINITION. The state of the ZD-3251: every register, queue, buffer, counter, mode and pin the spec gives it, as
plain data, block by block in the spec's order, and State.reset. Arrays of instances are Tbl keyed by the instance
number; an instance not listed is as its block's record of defaults (the reset column of the register tables).
Instants are kept as the lane cycles elapsed since PWRGD rose (field `lc`), counts as the spec's own 64-bit counts. -/
namespace Sys2Proof.Machine

/-! ### Outcomes that stop the machine -/

/-- The reasons a command may stop the block. No meaning of this model ends in a fault on a state a run can reach. -/
inductive Fault where
  /-- An access beyond the 35-bit device address space (R278). No meaning raises it: every address a command carries has 35
  bits. Safe. -/
  | noSuchAddress
deriving DecidableEq, Repr

/-- The reasons a command is turned away by the model. -/
inductive Refusal where
  /-- An arm of exec that has no meaning yet. Safe. -/
  | notModelled (mnemonic : String)
deriving DecidableEq, Repr

/-! ### Packets, completions, notices (04_host_interface_commands.md) -/

/-- The opcodes of the catalogue (Tables 4.20 to 4.23). -/
inductive Op where
  | nop | ping | getInfo | timeSet | schedCancel
  | ctxOpen | ctxClose | ctxReset | ctxBind | ctxClaim | ctxRelease | ctxStatus
  | segAlloc | segWrite | segFree | segPin | segRead | segMirror
  | prgLoad | prgCheck | prgArm | prgStart | prgStop | jmpArm | ctrSet
  | scnDefine | scnStartAt | scnAbort | scnDelete
  | fchConfig | fchMode | pchConfig | pchLoad | pchStrobe | pchQueue | vocConfig
  | clkConfig | clkStep | clkSync | tmuConfig | tmuRun | tmuRead
  | calRun | calSave | calRestore | aocCtrl | evtRoute | evtLut | evtFire
  | bnkPower | bnkHandover | fwStage | fwSchedule | fwStatus | fwCancel | logRead | faultAck | memDiag
  /-- An opcode outside the catalogue. -/
  | unknown (b : BitVec 8)
deriving DecidableEq, Repr, Inhabited

/-- Status codes (Table 4.24). -/
inductive Status where
  | ok | accepted | late | noResource | busy | handoverPending | badOpcode | badParam | notOwner | budget | staleGen
  | timeout | fault | calImplausible | fwRejected | unsupportedInRecovery
deriving DecidableEq, Repr, Inhabited

/-- A packet in execution. -/
structure Run where
  op : Op := .nop
  p : Pkt := {}
  /-- The generation of its context when it began (R136). -/
  gen : Nat := 0
  /-- The lane cycle of its start, or of its activation. -/
  born : Nat := 0
  /-- Its place in the order of acceptance (R117). -/
  seq : Nat := 0
  timed : Bool := false
  /-- Run late under RUN_NOW: RESULT [0] of the final completion is 1 (R111). -/
  ranLate : Bool := false
  /-- Repetitions skipped under SKIP_TO_NEXT (R111, R114). -/
  skipped : Nat := 0
deriving DecidableEq, Repr, Inhabited

/-- What a packet in execution waits for. -/
inductive JobKind where
  /-- The end of its host-memory transfer (HOST_TRANSFER_END). -/
  | transfer
  | clkLock | clkSlew | clkStep (delta : Int) (startLc : Nat) | sync
  /-- CTX_RESET and CTX_CLOSE with the generation they ended (R136). -/
  | ctxOpenWait (c : Nat) | ctxReset (c gen : Nat) | ctxClose (c gen : Nat)
  | fchStart (c b : Nat) (waited : Bool) | fchRelease (c : Nat)
  | pchSwitch (n : Nat) | pchDisable (n : Nat) | pchRelease (n : Nat)
  | tmuConfig (i : Nat) | tmuRun (k : Nat)
  | cal | calRestoreCommit
  /-- SEG_PIN, and whether it claimed the bank. -/
  | pinCopy (slot : Nat) (took : Bool) | mirrorCopy (slot : Nat) | jmpArm (c slot : Nat)
  | bnkPower (b : Nat) (waits : Bool) | handover (b : Nat)
  | fwSchedule
  | start (c : Nat) | sceneStart (scene : Nat)
  | memRetire (pc : Nat)
deriving DecidableEq, Repr, Inhabited

structure Job where
  run : Run := {}
  kind : JobKind := .transfer
deriving DecidableEq, Repr, Inhabited

/-- An accepted timed action of the hardware scheduler (R17, R113). `reps` repetitions are left, the next at `act`. -/
structure Timed where
  run : Run := {}
  act : W64 := 0
  period : Nat := 0
  reps : Nat := 1
deriving DecidableEq, Repr, Inhabited

/-- A completion decided and not yet written (R101, R108). -/
structure Cpl where
  fn : Nat := 0
  cq : Nat := 0
  ring : Nat := 0
  tag : BitVec 16 := 0
  ctx : Nat := 0
  status : Status := .ok
  result : BitVec 24 := 0
  time : W64 := 0
  interim : Bool := false
  /-- NO_CPL with status OK or ACCEPTED: it is not written (Table 4.17). -/
  suppressed : Bool := false
  untimed : Bool := true
  op : Op := .nop
  p : Pkt := {}
  /-- The packet's place in acceptance order. -/
  seq : Nat := 0
deriving DecidableEq, Repr, Inhabited

/-- A fault notice waiting in a function's queue (R101, R109). -/
structure Notice where
  ctx : Nat := 0
  noCtx : Bool := false
  index : Nat := 0
  time : W64 := 0
deriving DecidableEq, Repr, Inhabited

/-- What leaves the block: posted writes to the host (R122), answers of reads, of the SMBus and of the service UART. -/
inductive Post where
  | write (fn : Nat) (addr : W64) (data : List Byte)
  | msix (fn vec : Nat) (addr : W64) (data : W32)
  | readAnswer (v : W64)
  /-- The answer to a configuration request: Request Retry Status, or its value (0 for a write). -/
  | config (value : Option Nat)
  | smb (data : List Byte)
  | smbNack
  | uart (type : BitVec 8) (data : List Byte)
deriving DecidableEq, Repr, Inhabited

/-- A command ring (Tables 4.8 to 4.11). -/
structure CmdRing where
  base : W64 := 0
  enable : Bool := false
  size : BitVec 4 := 0
  cq : BitVec 4 := 0
  tail : BitVec 16 := 0
  head : BitVec 16 := 0
  error : Bool := false
  errCode : BitVec 3 := 0
  /-- BASE, SIZE and CQ as read when ENABLE last rose (R100). -/
  baseF : W64 := 0
  sizeF : BitVec 4 := 0
  cqF : BitVec 4 := 0
deriving DecidableEq, Repr, Inhabited

/-- A completion ring (Tables 4.12 to 4.15). -/
structure CplRing where
  base : W64 := 0
  enable : Bool := false
  irqEn : Bool := false
  size : BitVec 4 := 0
  vector : BitVec 5 := 0
  head : BitVec 16 := 0
  tail : BitVec 16 := 0
  error : Bool := false
  missed : Nat := 0
  baseF : W64 := 0
  sizeF : BitVec 4 := 0
  /-- The phase of the current pass (R104). -/
  phase : Bool := true
deriving DecidableEq, Repr, Inhabited

/-- A function's window (Table 4.3), its notices and its MSI-X vectors. -/
structure FnWin where
  rings : Tbl CmdRing := []
  cqs : Tbl CplRing := []
  fireRejects : Nat := 0
  strobeRejects : Nat := 0
  tbHi : W32 := 0
  /-- The command ring whose turn to be fetched comes next within the function (R103). -/
  fromRing : Nat := 0
  notices : List Notice := []
  /-- Vectors to send (R95) and the lane cycle of each vector's last message. -/
  vecPending : List Nat := []
  vecLast : Tbl (Option Nat) := []
  /-- The MSI-X table: vectors not masked, and words 0 to 2 of each entry, keyed 4 × vector + word; the pending bits. -/
  vecOpen : List Nat := []
  msix : Tbl W32 := []
  pba : List Nat := []
  /-- MSI-X Enable and Function Mask of the function's MSI-X capability. -/
  msixOn : Bool := false
  msixMask : Bool := false
deriving DecidableEq, Repr, Inhabited

/-- The endpoint (R89 to R91, R99) and the SYS_ window (Tables 19.3 to 19.13). -/
structure Sys where
  ready : Bool := false
  recovery : Bool := false
  restarting : Bool := false
  linkHold : Bool := false
  width : BitVec 4 := 0
  speed : BitVec 3 := 0
  flrs : Nat := 0
  linkEvents : Nat := 0
  irqFault : Bool := false
  irqShadow : BitVec 5 := 0
  irqForce : BitVec 5 := 0
  /-- The lane cycle of the last write of the shadow, and the shadow before that lane cycle's writes (R476). -/
  irqWas : Option (Nat × BitVec 5) := none
  mgmtVer : W32 := 0
  /-- The boot ROM has loaded the configuration space (R90). -/
  cfgLoaded : Bool := false
  vfEnable : Bool := false
  numVfs : Nat := 0
  /-- The completion-timeout range programmed in Device Control 2 (R121). -/
  cplTimeout : BitVec 4 := 0
  /-- The function whose turn to be fetched from comes next (R103). -/
  fromFn : Nat := 0
  /-- Ring-register writes held until the management processor runs (R90): function, offset, value. -/
  heldWrites : List (Nat × Nat × W32) := []
deriving DecidableEq, Repr, Inhabited

/-! ### Power, pins, SMBus (02_module_connectors_power.md) -/

inductive Phase where
  | off | starting | pwrgdLow | running | shutdown
deriving DecidableEq, Repr, Inhabited

/-- Where a supply lies in the windows of Table 2.9. -/
inductive Rail where
  | ok | under | high
deriving DecidableEq, Repr, Inhabited

structure Power where
  phase : Phase := .running
  p12v : Rail := .ok
  p3v3 : Rail := .ok
  pwrgd : Bool := true
  /-- The lane cycle of the power-down's start, while phase is shutdown. -/
  downAt : Nat := 0
  /-- The output switches of pins PF0 to PF15 are closed (Table 2.10). -/
  switchesClosed : Bool := true
  /-- Cause of the shutdown (Table 16.7, form W). -/
  cause : Nat := 0
  /-- Pins: PERSTn asserted, CLRn low, RCVRn low, TRSTn low, the levels of LDSTB0 to LDSTB3 after the last crossing taken, and the straps
  SMBADDR2:SMBADDR0; at reset every pin is as it stands unconnected (R34, R49). -/
  perst : Bool := true
  clrnLow : Bool := false
  rcvrnLow : Bool := false
  trstnLow : Bool := true
  ldstb : BitVec 4 := 0
  smbAddr : BitVec 3 := 7
deriving DecidableEq, Repr, Inhabited

structure Smb where
  vinOv : Bool := false
  vinUv : Bool := false
  unitOff : Bool := false
  otFault : Bool := false
  cmlInvalid : Bool := false
  /-- STATUS_CML: packet error checking failed. -/
  cmlPec : Bool := false
  readings : SmbReadings := {}
deriving DecidableEq, Repr, Inhabited

/-! ### Clock (03_clocking_timebase.md) -/

inductive Align where
  | free | acquiring | locked | aligned | lost | returning
deriving DecidableEq, Repr, Inhabited

inductive TbState where
  | unset | set | synced | suspect
deriving DecidableEq, Repr, Inhabited

/-- CLK_SYNC armed (R78): LOAD_TB, TB_VALUE, WAIT, the lane cycle of the arm, and B once the mark is taken. -/
structure Arm where
  loadTb : Bool := false
  tbValue : W64 := 0
  waitLc : Nat := 0
  armedAt : Nat := 0
  mark : Option Nat := none
deriving DecidableEq, Repr, Inhabited

structure Clk where
  locked : Bool := false
  laneDco : Bool := false
  refSrc : Nat := 0
  align : Align := .free
  tbState : TbState := .unset
  rangeWarn : Bool := false
  slewing : Bool := false
  band : BitVec 8 := 0
  events : BitVec 8 := 0
  enable : Bool := false
  bw : BitVec 2 := 1
  retHost : Bool := false
  phaseOffset : BitVec 16 := 0
  refHz : Nat := 0
  q : Nat := 0
  freqErr : Int := 0
  offset : Int := 0
  phaseErr : BitVec 16 := 0
  syncMargin : BitVec 16 := 0
  tbHi : W32 := 0
  locks : Nat := 0
  losses : Nat := 0
  arm : Option Arm := none
  /-- Lane cycle of the end of the CLK_STEP ramp in progress, and of the offset slew (R55, R67). -/
  rampEnd : Option Nat := none
  slewEnd : Option Nat := none
  /-- The DELTA of the ramp in progress and the sequence number of its packet. -/
  rampDelta : Int := 0
  rampSeq : Nat := 0
  /-- The grid's offset where the slew in progress began, and when. -/
  slewFrom : BitVec 16 := 0
  slewAt : Nat := 0
  /-- The lane cycle of the last loss of reference (R72). -/
  refLostAt : Option Nat := none
  /-- The stored tuning word and its band (R59). -/
  tuning : Option (BitVec 8 × BitVec 16) := none
  /-- Alignment held before the loss of reference (Table 3.5). -/
  before : Align := .free
  /-- REFCLK qualifies. -/
  qualified : Bool := false
  /-- The DCO is held on the oscillator by a SELF (R407). -/
  selfHold : Bool := false
deriving DecidableEq, Repr, Inhabited

/-! ### Contexts and engines (05_contexts_engines.md) -/

inductive CtxSt where
  | free | opened | bound | armed | running | stopping | closing
deriving DecidableEq, Repr, Inhabited

/-- A voice-queue action (R127, R159). -/
structure Action where
  seg : Nat := 0
  segGen : Nat := 0
  repeats : Nat := 1
  gainI : BitVec 16 := 0
  gainQ : BitVec 16 := 0
  vernier : Int := 0
  /-- PHASE_SET, with its phase. -/
  phaseSet : Option (BitVec 16) := none
  /-- Timeline position as a lane cycle, and duration in LC. -/
  pos : Nat := 0
  dur : Nat := 0
  /-- The lane cycle from which it is usable (R127). -/
  usable : Nat := 0
  /-- Triggered instance that placed it (R172); 0 outside triggered mode. -/
  inst : Nat := 0
  /-- Reads a bank, from an offset: the segment's own, its pinned copy or a jump-slot copy; of a jump-slot copy, the units of
  each repetition that it holds (the rest come from DRAM, R291). -/
  bank : Option Nat := none
  bankOff : Nat := 0
  copyUnits : Nat := 0
  /-- Started by a fox jump, with its jump term (R221). -/
  jump : Option Int := none
  /-- Placed by an event (R200, R291). -/
  placed : Bool := false
  /-- The step that queued it; the units of its segment requested so far, over all repetitions. -/
  step : Nat := 0
  fetched : Nat := 0
deriving DecidableEq, Repr, Inhabited

/-- A frequency hop or a PHASE_SET not yet in effect (R160, R194, R204). -/
structure Hop where
  /-- Effective sample, as ncoAt counts. -/
  at_ : Nat := 0
  /-- A HOP step with AT 0: effective at the first sample of the next play action, not queued yet (R160). -/
  onPlay : Bool := false
  /-- 0 from VOC_CONFIG, 1 from a HOP step, 2 the PHASE_SET of an action: the order in which they apply at one sample (R194, R204). -/
  rank : Nat := 1
  freq : BitVec 48 := 0
  phase : BitVec 16 := 0
  coherent : Bool := false
deriving DecidableEq, Repr, Inhabited

/-- What a thread waits for. -/
inductive Waiting where
  | none
  /-- WAIT_EVT: position, timeout, ON_TIMEOUT, consumer. -/
  | evt (p : Nat) (timeout : Nat) (stop : Bool) (cons : Nat)
  /-- BRANCH_EVT: position, window, target, consumer. -/
  | branch (p window target cons : Nat)
  | trig (cons channel : Nat) (mask : BitVec 8)
  /-- END issued, at this timeline position. -/
  | ended (p : Nat)
deriving DecidableEq, Repr, Inhabited

inductive Policy where
  | ignore | queue1 | restart | overlap
deriving DecidableEq, Repr, Inhabited

/-- A jump slot of a context (R175 to R181). -/
structure Jump where
  /-- 0 disarmed, 1 ARMING, 2 armed. -/
  st : Nat := 0
  seg : Nat := 0
  segGen : Nat := 0
  entry : Nat := 0
  /-- The bank copy, its bank and offset; none for a segment in a bank. -/
  copy : Option (Nat × Nat) := none
  responding : Bool := false
  aligned : Bool := false
  lastAt : Option Nat := none
  overruns : Nat := 0
  overrun : Bool := false
  channel : Option Nat := none
  /-- Changes of JMPEN yet to come: lane-cycle position, responds, aligned (R177). -/
  changes : List (Nat × Bool × Bool) := []
  /-- A DIRECT event the slot has taken and not yet jumped on: lane boundary b, and s in units of 2^-16 LC (R220, R221). -/
  hit : Option (Nat × Nat) := none
deriving DecidableEq, Repr, Inhabited

/-- A committed or computed charge of a voice (R298): bytes per LC as a ratio. -/
structure Charge where
  voice : Nat := 0
  num : Nat := 0
  den : Nat := 1
  banks : List Nat := []
deriving DecidableEq, Repr, Inhabited

structure Ctx where
  st : CtxSt := .free
  fn : Nat := 0
  gen : Nat := 0
  engine : Option Nat := none
  slot : Nat := 0
  faulted : Bool := false
  late : Nat := 0
  other : Nat := 0
  lastIdx : Option Nat := none
  minLead : Nat := 65535
  /-- The program area: pages allocated (page, first extent) and loaded steps (8 words each). -/
  pages : List (Nat × Nat) := []
  steps : Tbl (List W32) := []
  pc : Nat := 0
  stack : List Nat := []
  ctrs : List W32 := [0, 0, 0, 0, 0, 0, 0, 0]
  /-- The counters a CTR_SET wrote in lane cycle ctrLc: its values remain there (R169). -/
  ctrHeld : List Nat := []
  ctrLc : Nat := 0
  waiting : Waiting := .none
  fetching : Bool := false
  /-- Steps held in the thread slot's step cache (R130). -/
  cache : List Nat := []
  /-- The next lane cycle at which a step may issue; the timeline position, as a lane cycle. -/
  pos : Nat := 0
  startS : Nat := 0
  preRun : Bool := false
  /-- The start of this pre-run has taken effect at its instant. -/
  started : Bool := false
  entry : Nat := 0
  policy : Policy := .ignore
  forced : Bool := false
  charges : List Charge := []
  landing : Nat := 0
  committed : Bool := false
  /-- Triggered mode (R172): the instance number, its voice; a queued trigger's consumer and start instant (R174). -/
  triggered : Bool := false
  inst : Nat := 0
  tvoice : Nat := 0
  queuedTrig : Option (Nat × Nat) := none
  /-- The lane-cycle position of the last event's placement; a PRG_STOP at the next step boundary is due (R132). -/
  placedAt : Option Nat := none
  stopAfter : Bool := false
  /-- Steps issued with no play, wait or end (R140); stalls of the present step (R141). -/
  spin : Nat := 0
  stalls : Nat := 0
  /-- The step whose stall moved the context to its cub (R141). -/
  onCubStall : Option Nat := none
  /-- What waits for the orphans of the next generation to be reclaimed (R137): 0 nothing, 1 a reset by the device, 2 the generation of a
  context that was reset and closed with its function. -/
  genDue : Nat := 0
  /-- Heads kept (slot and generation), one for each play they were taken for that is not issued yet (R290). -/
  heads : List (Nat × Nat) := []
  jumps : Tbl Jump := []
deriving DecidableEq, Repr, Inhabited

structure Engine where
  /-- Engine: 0 in service, 1 replaced, 2 retired. Cub: 0 spare, 1 standing in, 2 retired. -/
  st : Nat := 0
  partner : Nat := 0
  selftestFail : Bool := false
  stalls : Nat := 0
  misses : Nat := 0
  /-- A migration in progress: the cub and the lane cycle it began. -/
  migrating : Option (Nat × Nat) := none
deriving DecidableEq, Repr, Inhabited

/-! ### Segments, scenes, markers (06_sequence_programs.md) -/

inductive Format where
  | s16 | s20 | iq16
deriving DecidableEq, Repr, Inhabited

structure Seg where
  used : Bool := false
  gen : Nat := 0
  ctx : Nat := 0
  /-- Length in units of 64 samples. -/
  len64 : Nat := 0
  fmt : Format := .s16
  /-- Bank and offset of a segment placed in a bank. -/
  bank : Option (Nat × Nat) := none
  /-- First extent and number of extents in DRAM. -/
  ext : Nat := 0
  nExt : Nat := 0
  mirrored : Bool := false
  /-- The placement a SEG_MIRROR copies to: first extent, extents. -/
  newExt : Option (Nat × Nat) := none
  /-- Bank copy: bank, offset, complete. -/
  pin : Option (Nat × Nat × Bool) := none
  unpinning : Bool := false
deriving DecidableEq, Repr, Inhabited

structure Scene where
  used : Bool := false
  fn : Nat := 0
  members : List (Nat × Nat) := []
deriving DecidableEq, Repr, Inhabited

/-- A marker edge placed and not yet applied. -/
structure Edge where
  /-- Conversion sample, 32 per lane cycle. -/
  at_ : Nat := 0
  level : Bool := false
  ctx : Nat := 0
  /-- Voice that placed it; 256 for a MARK step. -/
  src : Nat := 256
  /-- The instance, the lane-cycle position and the number of the step that carried it; moved by a clash. -/
  inst : Nat := 0
  step : Nat := 0
  num : Nat := 0
  moved : Bool := false
deriving DecidableEq, Repr, Inhabited

structure Marker where
  level : Bool := false
  divider : Bool := false
  period : Nat := 0
  /-- DIV_ON and DIV_OFF waiting for their boundaries, in order: lane cycle, period (0 for DIV_OFF). -/
  modeAt : List (Nat × Nat) := []
  edges : List Edge := []
  /-- The sample of the last edge applied; the lane cycle of a divider's last toggle. -/
  last : Option Nat := none
  toggled : Nat := 0
deriving DecidableEq, Repr, Inhabited

/-! ### Voices (07_voices_channel_datapath.md) -/

inductive VocSt where
  | idle | playing | fill | ramping
deriving DecidableEq, Repr, Inhabited

/-- An episode of fill (R207 to R209, R349): its first sample as ncoAt counts, the sample that resumes once it is known, the cause,
the first sample filled counted within the action, and the value HOLD_LAST plays (I, Q). -/
structure FillEp where
  /-- The pseudo-channel out of normal service that answered the unit as unavailable (R330). -/
  pc : Option Nat := none
  from_ : Nat := 0
  until_ : Option Nat := none
  cause : FillCause := .data
  first : Nat := 0
  value : Rat × Rat := (0, 0)
deriving DecidableEq, Repr, Inhabited

/-- The fills of a voice during one freeze or recovery of a pseudo-channel, which are one episode (R330): the segment, the first sample
filled and its position, and the samples filled so far. -/
structure FreezeEp where
  pc : Nat := 0
  seg : Nat := 0
  segGen : Nat := 0
  first : Nat := 0
  time : W64 := 0
  count : Nat := 0
deriving DecidableEq, Repr, Inhabited

/-- The voice record of Table 7.1. -/
structure VocRec where
  holdLast : Bool := false
  followEn : Bool := false
  followSlot : Nat := 0
  followK : Nat := 0
  base : Int := 0
  followRef : Int := 0
  followLimit : Nat := 0
  followSlew : Nat := 0
deriving DecidableEq, Repr, Inhabited

structure Voice where
  owner : Option Nat := none
  st : VocSt := .idle
  jumped : Bool := false
  vrec : VocRec := {}
  /-- NCO accumulator at memory-rate sample ncoAt, counted as samples per LC × lane cycle, and frequency word (R203). -/
  acc : BitVec 48 := 0
  freq : BitVec 48 := 0
  ncoAt : Nat := 0
  /-- T and F in units of 2^-16 LC; F as of lane cycle fAt (R217, R218). -/
  t : Int := 0
  f : Int := 0
  fAt : Nat := 0
  atLimit : Bool := false
  cur : Option Action := none
  queue : List Action := []
  hops : List Hop := []
  /-- Base delay set and waiting for the next action start (R194). -/
  basePending : Option Int := none
  rampFrom : Nat := 0
  rampLen : Nat := 0
  /-- Released once its ramp ends, and the generation that released it (Table 5.5, R136). -/
  releasing : Bool := false
  relGen : Nat := 0
  underruns : Nat := 0
  poisoned : Nat := 0
  filled : Nat := 0
  /-- The current action's delay without the follow term: base, VERNIER and jump terms (R196); the lane cycle it started in; and
  whether its VERNIER_LIMIT has been raised (R197). -/
  own : Int := 0
  startedAt : Nat := 0
  limited : Bool := false
  /-- The action before the current one with its delay: its last samples may still be due (R199). -/
  before_ : Option (Action × Int) := none
  /-- The last output value after gain and NCO, as of the last action's end or fill's beginning; 0 since the claim if none (R207). -/
  lastOut : Rat × Rat := (0, 0)
  fillEp : Option FillEp := none
  frozen : List FreezeEp := []
  /-- The slot it follows was released: T and F hold until the next VOC_CONFIG (R219). -/
  followHeld : Bool := false
  catchup : Bool := false
  /-- The lane cycle at which the voice last went idle by itself. -/
  lastEnd : Option Nat := none
deriving DecidableEq, Repr, Inhabited

/-- A channel's stream from its summer to its core (R211 to R215, R227): the latest sums in units of 2^-22, the latest samples before
the predistorter and before the equaliser, newest first; the modulator's state, its level, and the rotation pointer. -/
structure Conv where
  sums : List (Int × Int) := []
  us : List Rat := []
  ys : List Rat := []
  modulator : Nat := 0
  level : Int := 0
  ptr : Nat := 0
deriving DecidableEq, Repr, Inhabited

structure Summer where
  satSum : Bool := false
  satOut : Bool := false
  sumLc : Nat := 0
  outLc : Nat := 0
  first : W64 := 0
deriving DecidableEq, Repr, Inhabited

/-! ### Fast channels (08_fast_converters.md) -/

inductive FchSt where
  | muted | starting | running | stopping | cleared | failed
deriving DecidableEq, Repr, Inhabited

inductive Mode where
  | wide | standard | fine | band
deriving DecidableEq, Repr, Inhabited

structure Fch where
  st : FchSt := .muted
  mode : Mode := .wide
  owner : Option Nat := none
  load : Nat := 0
  /-- Verdicts raised since the last NORMAL one, as bits (R244). -/
  raised : Nat := 0
  rampLc : Nat := 64
  centre : Nat := 0
  events : BitVec 8 := 0
  ratio : BitVec 16 := 0
  ratioValid : Bool := false
  ilimit : Bool := false
  spares : Nat := 6
  retired : Nat := 0
  retiredList : List Nat := []
  bgPaused : Bool := false
  position : Nat := 0
  /-- An element is in the measurement position. -/
  measuring : Bool := false
  /-- The element index table: the elements in service, in the order of the rotation (R227, R241). -/
  table : List Nat := List.range 48
  /-- The lane cycle at which the measurement in progress began. -/
  measureAt : Nat := 0
  /-- The spare elements; those measured in the present pass; implausible runs per element (R241, R418). -/
  spareList : List Nat := [48, 49, 50, 51, 52, 53]
  measured : List Nat := []
  implausible : Tbl Nat := []
  passes : Nat := 0
  delay : BitVec 16 := 0
  starts : Nat := 0
  hwStops : Nat := 0
  /-- The lane cycle since which it has been RUNNING. -/
  runFrom : Nat := 0
  /-- Start boundary, as a timebase count (R235). -/
  boundary : W64 := 0
  /-- End of the stop ramp in progress; where it began, its length, and the factor it began at (R236, R237). -/
  rampEnd : Option Nat := none
  rampFrom : Nat := 0
  rampLen : Nat := 0
  rampTop : Rat := 1
  releasing : Bool := false
  relGen : Nat := 0
  failing : Bool := false
deriving DecidableEq, Repr, Inhabited

/-! ### Precision channels (09_precision_channels.md) -/

inductive PchSt where
  | disabled | enabled | ramping | switching | cleared | failed
deriving DecidableEq, Repr, Inhabited

structure Pch where
  st : PchSt := .disabled
  range : Nat := 0
  strobed : Bool := false
  group : Nat := 0
  senseOpen : Bool := false
  load : Nat := 0
  owner : Option Nat := none
  div : Nat := 200
  clear : BitVec 20 := 0
  settleThr : Nat := 0xFFFFF
  force : BitVec 20 := 0
  holdCode : BitVec 20 := 0
  holdFresh : Bool := false
  queue : List (BitVec 20 × Bool) := []
  done : Bool := false
  rbForce : BitVec 24 := 0
  rbSense : BitVec 24 := 0
  rbCurrent : BitVec 24 := 0
  events : BitVec 9 := 0
  underruns : Nat := 0
  holds : Nat := 0
  /-- The settle-hold: level held, lane cycle taken, release due (R265, R266), and one due to be taken. -/
  hold : Option (BitVec 20 × Nat × Nat) := none
  holdDue : Option (BitVec 20 × Nat × Nat) := none
  /-- Where the holding register's code came from: 0 PCH_LOAD, 1 a queue word with LAST, 2 one without. -/
  holdSrc : Nat := 0
  /-- The register as an earlier strobe of the same count must transfer it (R264). -/
  shadow : Option (BitVec 20 × Bool × Nat) := none
  /-- The last code taken came from the queue without LAST (R258, R262). -/
  tookNoLast : Bool := false
  /-- Lane cycle of the last queue tick. -/
  tickAt : Option Nat := none
  /-- Underrun episode in progress: timebase count of the first tick missed, ticks missed. -/
  under : Option (W64 × Nat) := none
  ticksOff : Bool := false
  /-- A linear ramp of the output: from, to, its first and last lane cycle (R250, R251, R253). -/
  ramp : Option (BitVec 20 × BitVec 20 × Nat × Nat) := none
  /-- Range switch: start, stage 0 to 2 (Table 9.3), the range and the enable to come, and what the configuration was. -/
  swAt : Nat := 0
  swStage : Nat := 0
  swNewRange : Nat := 0
  swEnable : Bool := false
  swOld : Option (Bool × Nat × Nat × Nat × BitVec 20) := none
  comparator : Bool := false
  releasing : Bool := false
  relGen : Nat := 0
  /-- Lane cycle of the clear hold's last refresh (R267). -/
  clearHoldAt : Nat := 0
deriving DecidableEq, Repr, Inhabited

structure Group where
  owner : Option Nat := none
  /-- Deferred strobe's due lane cycle; the last transfer's. -/
  deferred : Option Nat := none
  /-- A strobe placed on this PREC boundary, not yet transferred. -/
  due : Option Nat := none
  last : Option Nat := none
  late : Nat := 0
  merged : Nat := 0
  ignored : Nat := 0
  transfers : Nat := 0
  channel : Option Nat := none
  /-- A strobe that arrived while the precision link was down (R274): its boundary. -/
  linkWait : Option Nat := none
  /-- Lane cycle of the last timed PCH_STROBE that named the group (R264). -/
  strobeAt : Option Nat := none
deriving DecidableEq, Repr, Inhabited

/-! ### Squirrel (10_waveform_memory_fetch.md) -/

/-- A tag held (R284 to R287). -/
structure Tag where
  /-- True of every tag held. -/
  held : Bool := false
  port : Nat := 2
  ctx : Nat := 0
  gen : Nat := 0
  voice : Option Nat := none
  seg : Nat := 0
  segGen : Nat := 0
  dpa : Nat := 0
  deadline : Nat := 0
  issued : Nat := 0
  seq : BitVec 4 := 0
  abandoned : Bool := false
  retry : Bool := false
  landed : Bool := false
  native : Bool := false
  promoted : Bool := false
  /-- First sample, in the action, of the unit. -/
  first : Nat := 0
  /-- The unit within the action, over its repetitions, and the action's position; within its segment for heads and copies. -/
  unit : Nat := 0
  pos : Nat := 0
  /-- The lane cycle of the landing, and the words of the unit that came poisoned. -/
  landedAt : Nat := 0
  bad : List Nat := []
  /-- The packet whose BULK read it serves, by its sequence number. -/
  bulk : Option Nat := none
deriving DecidableEq, Repr, Inhabited

/-- A request waiting in the squirrel for a tag or for admission. -/
structure Req where
  port : Nat := 2
  ctx : Nat := 0
  gen : Nat := 0
  voice : Option Nat := none
  seg : Nat := 0
  segGen : Nat := 0
  dpa : Nat := 0
  deadline : Nat := 0
  first : Nat := 0
  unit : Nat := 0
  pos : Nat := 0
  retry : Bool := false
  waited : Bool := false
  bulk : Option Nat := none
deriving DecidableEq, Repr, Inhabited

/-- Where the units of a BULK read go: to the host, into a bank copy, into the new placement of a mirroring, into a slot's copy. -/
inductive BulkFor where
  | host | pin | mirror | jump (c j : Nat)
deriving DecidableEq, Repr, Inhabited

/-- The reads of SEG_READ on port 3, and of the copies of SEG_PIN, SEG_MIRROR and JMP_ARM on port 4 (R292), by the packet's sequence
number: units `next` up to `last` are still to be requested, those of `again` once more. -/
structure Bulk where
  id : Nat := 0
  goal : BulkFor := .host
  port : Nat := 3
  ctx : Nat := 0
  gen : Nat := 0
  seg : Nat := 0
  segGen : Nat := 0
  next : Nat := 0
  last : Nat := 0
  again : List Nat := []
  /-- Since when its present request waits. -/
  since : Nat := 0
deriving DecidableEq, Repr, Inhabited

structure Sql where
  tags : Tbl Tag := []
  seqs : Tbl (BitVec 4) := []
  stream : List Req := []
  urgent : List Req := []
  minLead : Nat := 0x1FFFF
  /-- The lane cycle of the last STREAM issues and how many it has had (R289). -/
  issueLc : Nat := 0
  issues : Nat := 0
  bulk : List Bulk := []
  /-- Lane cycles of the landings of the last 1 ms. -/
  landings : List Nat := []
  lastCause : Nat := 0
  arms : Nat := 0
  streamWaits : Nat := 0
  urgentWaits : Nat := 0
  overdue : Nat := 0
  timeouts : Nat := 0
  bgToBulk : Nat := 0
  bulkToStream : Nat := 0
  streamToUrgent : Nat := 0
  urgMax : Nat := 0
  portLat : Tbl Nat := []
  /-- Waveform memory by device address; an unlisted byte is 0. -/
  dram : List Host.Cell := []
  /-- Extents in use: (first, count), and those freed and not yet returned (R139). -/
  used : List (Nat × Nat) := []
  quarantine : List (Nat × Nat) := []
  /-- Extents withheld by R335. -/
  withheld : List Nat := []
deriving DecidableEq, Repr, Inhabited

/-! ### Memory controllers (11_dram_controller_integrity.md) -/

inductive PcPhase where
  | start | service | train | test | recovery | failed
deriving DecidableEq, Repr, Inhabited

/-- The capture of Table 11.3, without its live bits. -/
structure Capture where
  phase : PcPhase := .service
  mirrored : Bool := false
  retired : Bool := false
  bank : Nat := 0
  port : Nat := 0
  ctx : Nat := 0
  row : Nat := 0
  col : Nat := 0
  word : Nat := 0
  severity : BitVec 2 := 0
  temp : BitVec 8 := 0
  dpa : Nat := 0
  time : W64 := 0
  syndrome : W32 := 0
  data : List Byte := []
  check : W32 := 0
  rd : List (BitVec 8) := []
  wr : List (BitVec 8) := []
deriving DecidableEq, Repr, Inhabited

/-- A requester (R317): its context and generation, its port, and for ports 0 to 2 its voice and its segment. -/
structure Asker where
  ctx : Nat := 0
  gen : Nat := 0
  port : Nat := 6
  voice : Option Nat := none
  seg : Option Nat := none
  /-- The unit asked for, where no segment is recorded (R319). -/
  unit : Option Nat := none
deriving DecidableEq, Repr, Inhabited

/-- A row counter (R317): row, count, and the requester of its latest activation. -/
structure RowCtr where
  row : Nat := 0
  count : Nat := 0
  req : Asker := {}
deriving DecidableEq, Repr, Inhabited

/-- A DRAM bank's page, refresh and row-counter state (R308 to R318). -/
structure DBank where
  open_ : Option Nat := none
  hist : BitVec 4 := 0
  accesses : Nat := 0
  lastUse : Nat := 0
  postponed : Nat := 0
  rows : List RowCtr := []
  /-- Retired rows with the spare each is redirected to. -/
  redirect : List (Nat × Nat) := []
  sparesUsed : Nat := 0
  /-- Spares that failed the memory test (R335). -/
  badSpares : List Nat := []
deriving DecidableEq, Repr, Inhabited

/-- A hedgehog throttle (R319): requester, DRAM bank, row, no request on the row since the window began. -/
structure Throttle where
  req : Asker := {}
  bank : Nat := 0
  row : Nat := 0
  quiet : Bool := false
  /-- The lane cycle the requester was last served. -/
  last : Nat := 0
deriving DecidableEq, Repr, Inhabited

/-- A queued write (R307, R294): in-PC unit address, port, the lane cycle it was queued in, and whether it has been promoted. -/
structure QWrite where
  unit : Nat := 0
  port : Nat := 6
  since : Nat := 0
  promoted : Bool := false
deriving DecidableEq, Repr, Inhabited

structure Pc where
  phase : PcPhase := .start
  /-- Frozen since this lane cycle; the capture has been read since (R332). -/
  frozen : Option Nat := none
  captureRead : Bool := false
  retrainAdvised : Bool := false
  driftRaised : Bool := false
  capture : Option Capture := none
  freezes : Nat := 0
  corrected : Nat := 0
  ondie : Nat := 0
  retired : Nat := 0
  spares : Nat := 1536
  uncorrectable : Nat := 0
  neighbour : Nat := 0
  throttleCount : Nat := 0
  retrains : Nat := 0
  /-- Write queue (R307). -/
  wq : List QWrite := []
  banks : Tbl DBank := []
  throttles : List Throttle := []
  /-- Per lane: read and write delay, the trained centre of each, the margin found. -/
  rd : List (BitVec 8) := [0, 0, 0, 0, 0]
  wr : List (BitVec 8) := [0, 0, 0, 0, 0]
  rdMid : List (BitVec 8) := [0, 0, 0, 0, 0]
  wrMid : List (BitVec 8) := [0, 0, 0, 0, 0]
  margins : List Nat := [0, 0, 0, 0, 0]
  /-- A row copy in progress: DRAM bank, row. -/
  copying : Option (Nat × Nat) := none
  /-- The rewritten word and how it was unfrozen, waiting for the row copy. -/
  unfreeze : Option Nat := none
  /-- Corrections by row (16,384 × bank + row): the lane cycles of those of the last hour (R322). -/
  corrRows : Tbl (List Nat) := []
  /-- Controller recovery is due and waits for the partner (R325). -/
  recWait : Bool := false
  /-- The lane cycle since which it has been out of normal service. -/
  outAt : Nat := 0
deriving DecidableEq, Repr, Inhabited

structure Mem where
  trained : Bool := false
  refreshAb : Bool := false
  maint : Nat := 0
  scope : Bool := false
  windowMs : Nat := 100
  /-- The lane cycle at which the window in progress closes. -/
  maintAt : Nat := 0
  /-- Pseudo-channels still to retrain in the window. -/
  selected : List Nat := []
  passes : Nat := 0
  /-- Next unit the scrub reads. -/
  scrubUnit : Nat := 0
  temp0 : BitVec 8 := 0
  temp1 : BitVec 8 := 0
  repairs : Nat := 0
  poisonedCount : Nat := 0
  pcs : Tbl Pc := []
  /-- Poisoned words, by word address DPA[34:5]. -/
  poison : List Nat := []
  /-- Repairs waiting: device addresses of bad copies. -/
  repair : List Nat := []
  /-- Corrected units that the owl has still to write back, by device address (R322). -/
  writeBack : List Nat := []
deriving DecidableEq, Repr, Inhabited

/-! ### On-chip banks (12_onchip_banks.md) -/

inductive BankSt where
  | off | hibernate | on
deriving DecidableEq, Repr, Inhabited

structure Bank where
  st : BankSt := .off
  /-- No owner has taken or left the bank since power-up: FREE_KIB reads its reset value (Table 12.6, R11). -/
  untouched : Bool := true
  /-- Target of the transition in progress, ZERO_ON_WAKE. -/
  trans : Option (BankSt × Bool) := none
  waiting : Option (BankSt × Bool) := none
  owner : Nat := 0x7FF
  /-- A pending handover: the new owner, since. -/
  handover : Option (Nat × Nat) := none
  /-- Space in use: (offset, length); space being zeroed; the whole bank being zeroed for release. -/
  used : List (Nat × Nat) := []
  zeroing : List (Nat × Nat) := []
  releasing : Bool := false
  /-- Space whose last reader must finish first (R154). -/
  wakes : Nat := 0
  handovers : Nat := 0
deriving DecidableEq, Repr, Inhabited

structure BnkSum where
  notOnFaults : Nat := 0
  rejects : Nat := 0
  checkBank : Option Nat := none
  checkSett : Option Nat := none
  /-- Contents of the 128 banks; key 2^20 × bank + offset. -/
  ram : List Host.Cell := []
deriving DecidableEq, Repr, Inhabited

/-! ### Event fabric (13_event_fabric.md) -/

structure EvCh where
  owner : Option Nat := none
  source : BitVec 16 := 0
  direct : Bool := false
  /-- Consumers attached by EVT_ROUTE (Table 13.2 codes). -/
  cons : List Nat := []
  /-- Positions taken by logic-cell inputs (4 × cell + input) and by TMU slots (2 × slot + 0 START, 1 STOP). -/
  cells : List Nat := []
  tmus : List Nat := []
  events : Nat := 0
  coalesced : Nat := 0
  lastAt : Option Nat := none
deriving DecidableEq, Repr, Inhabited

structure Cons where
  owner : Option Nat := none
  /-- The lane cycle of delivery of the event pending. -/
  pending : Option Nat := none
  overrun : Bool := false
  channel : Option Nat := none
  overruns : Nat := 0
  discards : Nat := 0
deriving DecidableEq, Repr, Inhabited

structure EvOut where
  owner : Option Nat := none
  high : Bool := false
  overrun : Bool := false
  channel : Option Nat := none
  pulses : Nat := 0
  overruns : Nat := 0
  /-- Lane cycle of delivery of the last event taken. -/
  lastAt : Option Nat := none
  /-- Events taken whose pulse has not begun; the end of the pulse in progress. -/
  dues : List Nat := []
  endAt : Option Nat := none
deriving DecidableEq, Repr, Inhabited

structure Cell where
  owner : Option Nat := none
  truth : BitVec 16 := 0
  ff : Bool := false
  q : Bool := false
  ins : List Nat := [0, 0, 0, 0]
  used : BitVec 4 := 0
  minw : Nat := 0
  fires : Nat := 0
  filtered : Nat := 0
  /-- Lane cycle of its configuration; the lane cycle it is evaluated up to; the present run of 1, and fired in it. -/
  cfgAt : Nat := 0
  at_ : Nat := 0
  run : Nat := 0
  fired : Bool := false
  /-- Inputs delivered in the lane cycle at_. -/
  seen : BitVec 4 := 0
  /-- Lane cycles in which events of the cell are yet to be registered. -/
  dues : List Nat := []
deriving DecidableEq, Repr, Inhabited

/-- An event registered at its source and not yet delivered (R362). -/
structure Reg where
  ch : Nat := 0
  u : Nat := 0
  /-- TDC stamp in 2^-16 LC, for an input source. -/
  stamp : Option Nat := none
  /-- The consumers it goes to, where EVT_ROUTE has changed the channel since (R361). -/
  snap : Option (List Nat) := none
deriving DecidableEq, Repr, Inhabited

/-! ### TMU (14_time_measurement.md) -/

/-- An event of a slot's sources: its time value in units of 2^-16 LC since PWRGD, its roles, or a switch of LANE's source. -/
structure TmuEv where
  t : Nat := 0
  start : Bool := false
  stop : Bool := false
  cut : Bool := false
deriving DecidableEq, Repr, Inhabited

/-- A block in progress (R387 to R389): its start, the events since in order of time, and what the block before left: the
START event that opens its first measurement and the last unwrapped phase. -/
structure Block where
  from_ : Nat := 0
  evs : List TmuEv := []
  start : Option Nat := none
  prev : Option Int := none
deriving DecidableEq, Repr, Inhabited

structure Slot where
  owner : Option Nat := none
  /-- 0 IDLE, 1 SINGLE, 2 CONTINUOUS. -/
  st : Nat := 0
  func : Nat := 0
  dest : Nat := 0
  start : Nat := 0
  stop : Nat := 0
  target : Nat := 0
  n : Nat := 0
  timeoutLc : Nat := 0
  blk : Block := {}
  lastTimeout : Bool := false
  count : Nat := 0
  mean : W64 := 0
  sd : W64 := 0
  mn : W64 := 0
  mx : W64 := 0
  time : W64 := 0
  timeouts : Nat := 0
  discards : Nat := 0
  range : Nat := 0
  /-- Results on their way to the verniers: value, lane cycle registered (R217). -/
  toVoice : List (Int × Nat) := []
deriving DecidableEq, Repr, Inhabited

structure Input where
  legacy : Bool := false
  slope : Bool := false
  hyst : Nat := 50
  holdoff : Nat := 1
  thresh : BitVec 16 := 0
  level : Bool := false
  settling : Bool := false
  edges : Nat := 0
  dead : Nat := 0
  heldOff : Nat := 0
  /-- Stamp of the last edge, and the end of its hold-off, in 2^-16 LC. -/
  lastStamp : Option Nat := none
  holdUntil : Nat := 0
  tdcAt : Nat := 0
deriving DecidableEq, Repr, Inhabited

/-! ### Monitoring, correction, calibration (15_monitoring_calibration.md) -/

structure Mon where
  frames : Nat := 0
  samplerRun : Bool := false
  samplerCh : Nat := 0
  /-- Items: value and age. -/
  items : Tbl (BitVec 24 × Nat) := []
  smp : Tbl (Nat × Nat) := []
deriving DecidableEq, Repr, Inhabited

/-- A correction set (R399): neutral or the coefficients that an update or a restore gave, by number. -/
structure CorrSet where
  trained : Bool := false
  /-- 40 predistorter and 64 equaliser coefficients (R421), none: the mode's factory-neutral tables. -/
  coeff : Option (List W32) := none
deriving DecidableEq, Repr, Inhabited

structure Aoc where
  freeze : Bool := false
  inForce : CorrSet := {}
  pendSet : CorrSet := {}
  /-- 0 ADAPTING, 1 READY, 2 LOCKED. -/
  pending : Nat := 0
  wait : Nat := 0
  residual : BitVec 16 := 0
  change : BitVec 16 := 0
  updates : Nat := 0
  auto : Nat := 0
  host : Nat := 0
  last : W64 := 0
  windows : Nat := 0
  lastSmall : Bool := false
  readyAt : W64 := 0
  /-- The lane cycle of the last automatic commit, and AUTO before it (R404). -/
  autoAt : Option (Nat × Nat) := none
deriving DecidableEq, Repr, Inhabited

structure CalRec where
  count : Nat := 0
  time : W64 := 0
  wall : W64 := 0
  status : BitVec 8 := 0
  result : BitVec 24 := 0
  /-- Top-face temperature and declared EXTREF of the commit, as the blob keeps them (Table 15.6). -/
  temp : BitVec 16 := 0
  extref : W32 := 0
deriving DecidableEq, Repr, Inhabited

/-- A batch in progress: 0 SELF, 1 TRACE, 3 restore; passed and waiting for its commit, with its values. -/
structure Batch where
  kind : Nat := 0
  boot : Bool := false
  extref : W32 := 0
  /-- Values found, keyed by CAL_ offset; those a restore's blob holds. -/
  vals : Option (List (Nat × W32)) := none
  blob : List (Nat × W32) := []
  ackAt : W64 := 0
  /-- A blob's correction tables: channel, mode, centre, set; and its TRACE wall time. -/
  tables : List (Nat × Nat × Nat × CorrSet) := []
  wall : W64 := 0
  /-- A TRACE has not had the reference throughout (check 0x08). -/
  refBad : Bool := false
deriving DecidableEq, Repr, Inhabited

structure Cal where
  batch : Option Batch := some { kind := 0, boot := true }
  bgRun : Bool := false
  bootOk : Bool := false
  wall : W64 := 0
  wallAt : Nat := 0
  scalePpb : W32 := 0
  oscPpb : W32 := 0
  declared : W32 := 0
  recs : Tbl CalRec := []
  mkskew : Tbl (BitVec 16) := []
  /-- Trims that differ from the factory's, by CAL_ offset. -/
  trims : Tbl (Option W32) := []
  shadow : Tbl (Option (BitVec 16)) := []
deriving DecidableEq, Repr, Inhabited

/-! ### Faults and thermal (16_faults_recovery_thermal.md) -/

structure FaultRec where
  code : BitVec 12 := 0
  rung : Nat := 0
  ctx : Nat := 0
  noCtx : Bool := true
  acked : Bool := false
  previous : Bool := false
  fn : Nat := 0
  gen : Nat := 0
  unit : Nat := 0
  time : W64 := 0
  seq : W32 := 0
  raised : W64 := 0
  detail : List W32 := [0, 0, 0, 0, 0, 0, 0, 0]
deriving DecidableEq, Repr, Inhabited

structure FaultLog where
  recs : Tbl FaultRec := []
  next : Nat := 0
  wrapped : Bool := false
  seq : W32 := 0
  dropped : Nat := 0
  hold : List FaultRec := []
  droppedNow : Bool := false
  /-- The lane cycle of the last entry, and the records entered in it (R435). -/
  burstAt : Nat := 0
  burst : Nat := 0
  groups : Tbl Nat := []
  rungs : Tbl Nat := []
  /-- The MRAM copy: the records of a power loss, replaced engines, retired rows (R439, R445). -/
  mramRecs : List FaultRec := []
  mramEngines : List Nat := []
  mramRows : List (Nat × Nat × Nat) := []
deriving DecidableEq, Repr, Inhabited

/-- A processor (R427): running, restarting or held; lane cycles of its restarts. -/
structure Proc where
  /-- 0 running, 1 restarting or not yet loaded, 2 held. -/
  st : Nat := 0
  restarts : List Nat := []
deriving DecidableEq, Repr, Inhabited

structure Sensor where
  reading : BitVec 16 := 0
  level : Nat := 0
  dwell : Bool := false
  max : BitVec 16 := 0
  transitions : Nat := 0
  /-- For WARN, LIMIT and SHUT: since when the readings have been towards a change of that level (R442). -/
  since : List (Option Nat) := [none, none, none]
deriving DecidableEq, Repr, Inhabited

structure Tmp where
  level : Nat := 0
  events : BitVec 4 := 0
  sensors : Tbl Sensor := []
  coldRaised : Bool := false
  /-- Since when the top face has read towards a change of coldRaised (R446). -/
  faceSince : Option Nat := none
deriving DecidableEq, Repr, Inhabited

/-! ### Firmware (17_firmware_boot_update.md) -/

/-- A slot of set A or B of the MRAM: empty or complete, and its bytes as far as written. `preset`: it holds the image
it held before this power-up, whose bytes the spec does not give. -/
structure Img where
  complete : Bool := true
  preset : Bool := true
  staged : Bool := false
  check : BitVec 8 := 0
  /-- The bytes written so far. -/
  data : List Byte := []
  len : Nat := 0
deriving DecidableEq, Repr, Inhabited

structure Fw where
  /-- 0 set A, 1 set B, 2 safe set, 3 recovery interpreter. -/
  running : Nat := 0
  preferred : Nat := 0
  /-- 0 NONE, 1 SCHEDULED, 2 ARMED, 3 RESTARTING. -/
  sched : Nat := 0
  cause : Nat := 0
  floor : Nat := 0
  actTime : W64 := 0
  lastStatus : BitVec 8 := 0
  lastResult : BitVec 24 := 0
  restarts : Nat := 0
  rejects : Nat := 0
  /-- Slots, key 8 × set + type. -/
  imgs : Tbl Img := []
  /-- Recovery window: IMAGE, FINAL, OFFSET, LEN, STATUS, WRITES, and its buffer; an unlisted byte is 0. -/
  rcvImage : Nat := 0
  rcvFinal : Bool := false
  rcvOffset : Nat := 0
  rcvLen : Nat := 0
  rcvStatus : BitVec 8 := 0
  rcvWrites : Nat := 0
  rcvBuf : Tbl Byte := []
  /-- Boot progress: 0 the boot ROM runs, 1 MGMT or the recovery interpreter runs, 2 the images are loaded. -/
  boot : Nat := 0
  /-- A warm restart, or a reboot from recovery, is in progress, and the lane cycle it began. -/
  warm : Bool := false
  reboot : Bool := false
  warmAt : Nat := 0
  /-- The first set tried and the set being tried (as RUNNING names sets). -/
  firstSet : Nat := 0
  trying : Nat := 0
  /-- The first set's failure as the RESULT of R464, and whether it was UNTESTED. -/
  firstFail : Option (BitVec 24 × Bool) := none
  /-- The first untested pair found, as FW_SAFE_SET names it. -/
  pairFail : BitVec 24 := 0
deriving DecidableEq, Repr, Inhabited

/-! ### The machine -/

structure State where
  /-- Commands waiting, first in, first out. -/
  pending : List Instr := []
  /-- The model's own counter behind free values (not the spec's). -/
  fresh : Nat := 0
  /-- Lane cycles elapsed since PWRGD rose. -/
  lc : Nat := 0
  /-- The timebase count (R5, R82). -/
  tb : W64 := 0
  power : Power := {}
  smb : Smb := {}
  out : List Post := []
  fns : Tbl FnWin := []
  sys : Sys := {}
  jobs : List Job := []
  sched : List Timed := []
  /-- The lane cycle in which an accepted timed action last took effect. -/
  actAt : Option Nat := none
  /-- Fetched packets that wait under R115. -/
  waiting : List Run := []
  held : List Cpl := []
  /-- Next place in acceptance order. -/
  seq : Nat := 0
  clk : Clk := {}
  /-- The voltage at LOCKMON, in hundredths of P3V3AUX (R64). -/
  lockmon : Rat := 0
  ctxs : Tbl Ctx := []
  ctxSel : Nat := 0
  engines : Tbl Engine := []
  allocPtr : Nat := 0
  /-- For each resource pool, the lane cycle of the allocator's last decision, counted from 1 (R146). -/
  allocLast : Tbl Nat := []
  segs : Tbl Seg := []
  /-- Segment slots freed, longest free first (R149). -/
  segFree : List Nat := []
  scenes : Tbl Scene := []
  markers : Tbl Marker := []
  /-- Lane cycle of the last restart of the marker and precision sample dividers (R164, R256). -/
  divAt : Nat := 0
  voices : Tbl Voice := []
  summers : Tbl Summer := []
  conv : Tbl Conv := []
  fchs : Tbl Fch := []
  clrCount : Nat := 0
  pchs : Tbl Pch := []
  groups : Tbl Group := []
  precLinkDown : Bool := false
  linkDown : List Nat := []
  sql : Sql := {}
  mem : Mem := {}
  banks : Tbl Bank := []
  bnk : BnkSum := {}
  evch : Tbl EvCh := []
  cons : Tbl Cons := []
  eos : Tbl EvOut := []
  cells : Tbl Cell := []
  regs : List Reg := []
  slots : Tbl Slot := []
  inputs : Tbl Input := []
  mon : Mon := {}
  aocs : Tbl Aoc := []
  cal : Cal := {}
  log : FaultLog := {}
  procs : Tbl Proc := []
  tmp : Tmp := {}
  fw : Fw := {}
deriving DecidableEq, Repr, Inhabited

/-- A landing bank of the squirrel at reset (R283, R345). -/
def landingBank : Bank := { st := .on, owner := 0x400 }

/-- The 128 banks at reset: every eighth is a landing bank. -/
def banksReset : Tbl Bank :=
  (List.range 16).map (fun k => (8 * k + 7, landingBank))

/-- No processor has an image yet: the boot ROM runs (Table 17.5). -/
def procsReset : Tbl Proc := (List.range 8).map (fun k => (k, { st := 1 }))

/-- The machine right after PWRGD has risen and its boot has begun: every field at the value the spec gives for
power-up (R11, R43, R88, R226, R247, R249, R277, R304, R338, R345, R356, R373, R375, R393, R425, R447, R478). -/
def State.reset : State := { banks := banksReset, procs := procsReset }

end Sys2Proof.Machine
end

