-- ==== Sys2Proof/Machine/Ops.lean ====
section
/-! DEFINITION. The named operations over the state: one accessor and one update per array, time, the fault log and its
notices, completions, events, and the two waveform memories. Every meaning goes through them. -/
namespace Sys2Proof.Machine

/-! ### Numbers -/

/-- A count that saturates at `m`. -/
def sat (m n : Nat) : Nat := if n ≤ m then n else m

/-- Bits `lo` up to `lo + n` of a word. -/
def bits (v : W32) (lo n : Nat) : Nat := v.toNat / 2 ^ lo % 2 ^ n

/-- One bit of a word. -/
def bit (v : W32) (i : Nat) : Bool := v.getLsbD i

/-- A word as the signed number it spells. -/
def signed (v : W32) : Int := v.toInt

/-- Round up of a quotient. -/
def ceilDiv (a b : Nat) : Nat := (a + b - 1) / b

def word (n : Nat) : W32 := BitVec.ofNat 32 n
def wordI (n : Int) : W32 := BitVec.ofInt 32 n
def lo32 (v : W64) : W32 := v.setWidth 32
def hi32 (v : W64) : W32 := (v >>> 32).setWidth 32
def w64 (lo hi : W32) : W64 := hi ++ lo

/-- The bytes of a word, least significant first (R8). -/
def bytesOf (v : W32) : List Byte :=
  [v.extractLsb' 0 8, v.extractLsb' 8 8, v.extractLsb' 16 8, v.extractLsb' 24 8]

/-- The words of a byte string (R8); a short last word is filled with zeros. -/
def wordsOf : List Byte → List W32
  | a :: b :: c :: d :: t => (d ++ c ++ b ++ a) :: wordsOf t
  | [a, b, c] => [(0#8 ++ c ++ b ++ a)]
  | [a, b] => [(0#8 ++ 0#8 ++ b ++ a)]
  | [a] => [(0#8 ++ 0#8 ++ 0#8 ++ a)]
  | [] => []

/-- Insert in rising order, once. -/
def insertNat (n : Nat) (l : List Nat) : List Nat :=
  (l.filter (fun x => decide (x < n))) ++ [n] ++ (l.filter (fun x => decide (n < x)))

/-! ### Arrays of instances -/

def State.fnWin (s : State) (f : Nat) : FnWin := Tbl.get {} s.fns f
def State.updFn (s : State) (f : Nat) (g : FnWin → FnWin) : State := { s with fns := Tbl.set {} s.fns f (g (s.fnWin f)) }
def FnWin.ring (w : FnWin) (r : Nat) : CmdRing := Tbl.get {} w.rings r
def FnWin.cqr (w : FnWin) (r : Nat) : CplRing := Tbl.get {} w.cqs r
def State.ring (s : State) (f r : Nat) : CmdRing := (s.fnWin f).ring r
def State.cqr (s : State) (f r : Nat) : CplRing := (s.fnWin f).cqr r
def State.updRing (s : State) (f r : Nat) (g : CmdRing → CmdRing) : State :=
  s.updFn f (fun w => { w with rings := Tbl.set {} w.rings r (g (w.ring r)) })
def State.updCq (s : State) (f r : Nat) (g : CplRing → CplRing) : State :=
  s.updFn f (fun w => { w with cqs := Tbl.set {} w.cqs r (g (w.cqr r)) })

def State.ctx (s : State) (c : Nat) : Ctx := Tbl.get {} s.ctxs c
def State.updCtx (s : State) (c : Nat) (g : Ctx → Ctx) : State := { s with ctxs := Tbl.set {} s.ctxs c (g (s.ctx c)) }
def Ctx.jump (c : Ctx) (j : Nat) : Jump := Tbl.get {} c.jumps j
def State.updJump (s : State) (c j : Nat) (g : Jump → Jump) : State :=
  s.updCtx c (fun x => { x with jumps := Tbl.set {} x.jumps j (g (x.jump j)) })
def State.eng (s : State) (e : Nat) : Engine := Tbl.get {} s.engines e
def State.updEng (s : State) (e : Nat) (g : Engine → Engine) : State := { s with engines := Tbl.set {} s.engines e (g (s.eng e)) }
def State.seg (s : State) (k : Nat) : Seg := Tbl.get {} s.segs k
def State.updSeg (s : State) (k : Nat) (g : Seg → Seg) : State := { s with segs := Tbl.set {} s.segs k (g (s.seg k)) }
def State.scene (s : State) (k : Nat) : Scene := Tbl.get {} s.scenes k
def State.updScene (s : State) (k : Nat) (g : Scene → Scene) : State := { s with scenes := Tbl.set {} s.scenes k (g (s.scene k)) }
def State.marker (s : State) (k : Nat) : Marker := Tbl.get {} s.markers k
def State.updMarker (s : State) (k : Nat) (g : Marker → Marker) : State := { s with markers := Tbl.set {} s.markers k (g (s.marker k)) }
def State.voice (s : State) (v : Nat) : Voice := Tbl.get {} s.voices v
def State.updVoice (s : State) (v : Nat) (g : Voice → Voice) : State := { s with voices := Tbl.set {} s.voices v (g (s.voice v)) }
def State.summer (s : State) (c : Nat) : Summer := Tbl.get {} s.summers c
def State.updSummer (s : State) (c : Nat) (g : Summer → Summer) : State := { s with summers := Tbl.set {} s.summers c (g (s.summer c)) }
def State.fch (s : State) (c : Nat) : Fch := Tbl.get {} s.fchs c
def State.updFch (s : State) (c : Nat) (g : Fch → Fch) : State := { s with fchs := Tbl.set {} s.fchs c (g (s.fch c)) }
def State.pch (s : State) (n : Nat) : Pch := Tbl.get {} s.pchs n
def State.updPch (s : State) (n : Nat) (g : Pch → Pch) : State := { s with pchs := Tbl.set {} s.pchs n (g (s.pch n)) }
def State.group (s : State) (g : Nat) : Group := Tbl.get {} s.groups g
def State.updGroup (s : State) (k : Nat) (g : Group → Group) : State := { s with groups := Tbl.set {} s.groups k (g (s.group k)) }
def State.pc (s : State) (k : Nat) : Pc := Tbl.get {} s.mem.pcs k
def State.updMem (s : State) (g : Mem → Mem) : State := { s with mem := g s.mem }
def State.updPc (s : State) (k : Nat) (g : Pc → Pc) : State := s.updMem (fun m => { m with pcs := Tbl.set {} m.pcs k (g (s.pc k)) })
def Pc.dbank (p : Pc) (b : Nat) : DBank := Tbl.get {} p.banks b
def State.updDBank (s : State) (k b : Nat) (g : DBank → DBank) : State :=
  s.updPc k (fun p => { p with banks := Tbl.set {} p.banks b (g (p.dbank b)) })
def State.bank (s : State) (b : Nat) : Bank := Tbl.get {} s.banks b
def State.updBank (s : State) (b : Nat) (g : Bank → Bank) : State := { s with banks := Tbl.set {} s.banks b (g (s.bank b)) }
def State.ev (s : State) (k : Nat) : EvCh := Tbl.get {} s.evch k
def State.updEv (s : State) (k : Nat) (g : EvCh → EvCh) : State := { s with evch := Tbl.set {} s.evch k (g (s.ev k)) }
def State.con (s : State) (n : Nat) : Cons := Tbl.get {} s.cons n
def State.updCon (s : State) (n : Nat) (g : Cons → Cons) : State := { s with cons := Tbl.set {} s.cons n (g (s.con n)) }
def State.eo (s : State) (n : Nat) : EvOut := Tbl.get {} s.eos n
def State.updEo (s : State) (n : Nat) (g : EvOut → EvOut) : State := { s with eos := Tbl.set {} s.eos n (g (s.eo n)) }
def State.cell (s : State) (n : Nat) : Cell := Tbl.get {} s.cells n
def State.updCell (s : State) (n : Nat) (g : Cell → Cell) : State := { s with cells := Tbl.set {} s.cells n (g (s.cell n)) }
def State.slot (s : State) (k : Nat) : Slot := Tbl.get {} s.slots k
def State.updSlot (s : State) (k : Nat) (g : Slot → Slot) : State := { s with slots := Tbl.set {} s.slots k (g (s.slot k)) }
def State.input (s : State) (i : Nat) : Input := Tbl.get {} s.inputs i
def State.updInput (s : State) (i : Nat) (g : Input → Input) : State := { s with inputs := Tbl.set {} s.inputs i (g (s.input i)) }
def State.aoc (s : State) (c : Nat) : Aoc := Tbl.get {} s.aocs c
def State.updAoc (s : State) (c : Nat) (g : Aoc → Aoc) : State := { s with aocs := Tbl.set {} s.aocs c (g (s.aoc c)) }
def State.proc (s : State) (p : Nat) : Proc := Tbl.get {} s.procs p
def State.updProc (s : State) (p : Nat) (g : Proc → Proc) : State := { s with procs := Tbl.set {} s.procs p (g (s.proc p)) }
def State.sensor (s : State) (k : Nat) : Sensor := Tbl.get {} s.tmp.sensors k
def State.updSensor (s : State) (k : Nat) (g : Sensor → Sensor) : State :=
  { s with tmp := { s.tmp with sensors := Tbl.set {} s.tmp.sensors k (g (s.sensor k)) } }
def State.img (s : State) (set ty : Nat) : Img := Tbl.get {} s.fw.imgs (8 * set + ty)
def State.updFw (s : State) (g : Fw → Fw) : State := { s with fw := g s.fw }
def State.updImg (s : State) (set ty : Nat) (g : Img → Img) : State :=
  s.updFw (fun f => { f with imgs := Tbl.set {} f.imgs (8 * set + ty) (g (s.img set ty)) })
def State.updClk (s : State) (g : Clk → Clk) : State := { s with clk := g s.clk }
def State.updSys (s : State) (g : Sys → Sys) : State := { s with sys := g s.sys }
def State.updSql (s : State) (g : Sql → Sql) : State := { s with sql := g s.sql }
def State.updCal (s : State) (g : Cal → Cal) : State := { s with cal := g s.cal }
def State.rec_ (s : State) (k : Nat) : CalRec := Tbl.get {} s.cal.recs k
def State.updRec (s : State) (k : Nat) (g : CalRec → CalRec) : State :=
  s.updCal (fun c => { c with recs := Tbl.set {} c.recs k (g (s.rec_ k)) })
def State.emit (s : State) (p : Post) : State := { s with out := s.out ++ [p] }

/-- Apply a step to each number of a list, in order. -/
def State.each (s : State) : List Nat → (Nat → State → State) → State
  | [], _ => s
  | k :: ks, f => State.each (f k s) ks f

/-! ### Time -/

/-- The timebase count of lane cycle `l`. -/
def State.tbAt (s : State) (l : Nat) : W64 := s.tb + BitVec.ofInt 64 ((l : Int) - s.lc)

/-- The lane cycle whose count is `c`. -/
def State.lcAt (s : State) (c : W64) : Nat := ((s.lc : Int) + (c - s.tb).toInt).toNat

/-- The next free value. -/
def State.bump (s : State) : State := { s with fresh := s.fresh + 1 }

/-- n bytes the spec leaves undefined, and the counter past them. -/
def State.freeBytes (s : State) (n : Nat) : List Byte := (List.range n).map (fun i => Config.freeByte (s.fresh + i))
def State.bumpBy (s : State) (n : Nat) : State := { s with fresh := s.fresh + n }

/-- The first lane cycle at or after `l` that is a multiple of `m` after the last divider restart (R164, R256). -/
def State.boundaryFrom (s : State) (l m : Nat) : Nat := s.divAt + m * ceilDiv (l - s.divAt) m

/-- The first timebase count at or after `c` that is a multiple of 64. -/
def up64 (c : W64) : W64 := BitVec.ofNat 64 (64 * ceilDiv c.toNat 64)

/-! ### Units: who holds what -/

/-- The contexts in use. -/
def State.ctxsWhere (s : State) (p : Ctx → Bool) : List Nat := Tbl.keysWhere (fun _ c => p c) s.ctxs

def State.anyRunning (s : State) : Bool := Tbl.anyEntry (fun _ c => decide (c.st = .running)) s.ctxs

/-- Is `c` a context of function `f`? -/
def State.ctxOf (s : State) (f c : Nat) : Bool :=
  decide ((s.ctx c).st ≠ .free) && decide ((s.ctx c).fn = f)

/-- A unit's holder belongs to function `f`. -/
def State.heldByFn (s : State) (f : Nat) (o : Option Nat) : Bool :=
  match o with
  | none => false
  | some c => s.ctxOf f c

/-! ### Is the management processor running? (R431) -/

def State.mgmtUp (s : State) : Bool := decide ((s.proc 0).st = 0) && !s.sys.restarting

/-! ### Events (R357 to R363) -/

/-- An event registered at its source on channel `k` in lane cycle `u`; a second one in the same lane cycle coalesces. -/
def State.register (s : State) (k u : Nat) (stamp : Option Nat) : State :=
  if (s.ev k).lastAt = some u then
    s.updEv k (fun e => { e with coalesced := sat 255 (e.coalesced + 1) })
  else
    let s := s.updEv k (fun e => { e with events := sat (2 ^ 24 - 1) (e.events + 1), lastAt := some u })
    { s with regs := s.regs ++ [{ ch := k, u := u, stamp := stamp }] }

/-- Every channel whose SOURCE satisfies `p`. -/
def State.sourced (s : State) (p : BitVec 16 → Bool) : List Nat :=
  Tbl.keysWhere (fun _ e => e.owner.isSome && p e.source) s.evch

/-- A source fires in lane cycle `u` on every channel that names it. -/
def State.fireSrc (s : State) (p : BitVec 16 → Bool) (u : Nat) : State :=
  s.each (s.sourced p) (fun k s => s.register k u none)

def srcIs (type detail : Nat) (v : BitVec 16) : Bool := decide (v.toNat = 4096 * type + detail)

/-! ### The fault log (R428, R431, R434 to R440) -/

/-- The functions a record is raised on (Table 16.6). -/
inductive Raise where
  | c | p | cp | cAndP | a | f (fn : Nat)
deriving DecidableEq, Repr

def maskOf (fs : List Nat) : W64 := fs.foldl (fun m f => m ||| (1#64 <<< f)) 0

def State.runningFns (s : State) : List Nat :=
  (s.ctxsWhere (fun c => decide (c.st = .running))).map (fun c => (s.ctx c).fn)

def State.raisedOn (s : State) (ctx : Option Nat) : Raise → List Nat
  | .p => [0]
  | .a => insertNat 0 (s.runningFns.foldl (fun l f => insertNat f l) [])
  | .f fn => [if fn = 0 ∨ (s.sys.vfEnable = true ∧ fn ≤ s.sys.numVfs) then fn else 0]
  | .c | .cp => match ctx with | some c => [(s.ctx c).fn] | none => [0]
  | .cAndP => match ctx with | some c => insertNat 0 [(s.ctx c).fn] | none => [0]

/-- The link is down under LINK_HOLD: what falls due for the host is discarded (R99, Table 19.5). -/
def State.linkHeld (s : State) : Bool := s.sys.linkHold && decide (s.sys.width = 0)

/-- One notice on function f (R101, R109): queued, or counted as missed when 64 wait. -/
def State.notice (s : State) (idx : Nat) (r : FaultRec) (f : Nat) : State :=
  let s := if f = 0 then s.updSys (fun y => { y with irqFault := true }) else s
  if s.linkHeld then s
  else if (s.fnWin f).notices.length < 64 then
    s.updFn f (fun w => { w with notices := w.notices ++ [{ ctx := r.ctx, noCtx := r.noCtx, index := idx, time := r.time }] })
  else s.updCq f 0 (fun q => { q with missed := sat 255 (q.missed + 1) })

/-- The functions of a RAISED mask. -/
def fnsOf (m : W64) : List Nat := (List.range 64).filter (fun f => m.getLsbD f)

/-- LATE_ACTION and COMMAND_TIMEOUT raise no separate notice (R436). -/
def silentCode (c : BitVec 12) : Bool := decide (c = 0x901#12) || decide (c = 0x902#12)

/-- A record enters the log (R435): the next index and SEQ, the group, rung and context counts, its notices, and the FAULT
event source of its context (Table 13.1). -/
def State.enterRec (s : State) (r : FaultRec) : State :=
  let idx := s.log.next
  let r := { r with seq := s.log.seq }
  let g := r.code.toNat / 256
  let log := s.log
  let s := { s with log := { log with
    recs := Tbl.set {} log.recs idx r
    next := (idx + 1) % 4096
    wrapped := log.wrapped || decide (idx = 4095)
    seq := log.seq + 1
    groups := Tbl.set 0 log.groups g (sat (2 ^ 32 - 1) (Tbl.get 0 log.groups g + 1))
    rungs := Tbl.set 0 log.rungs r.rung (sat (2 ^ 32 - 1) (Tbl.get 0 log.rungs r.rung + 1)) } }
  let s := if r.noCtx then s else
    let s := s.updCtx r.ctx (fun c =>
      if r.code = 0x101#12 then { c with late := sat 65535 (c.late + 1), lastIdx := some idx, faulted := true }
      else { c with other := sat 65535 (c.other + 1), lastIdx := some idx, faulted := true })
    s.fireSrc (srcIs 7 r.ctx) s.lc
  if silentCode r.code then s else s.each (fnsOf r.raised) (fun f s => s.notice idx r f)

/-- The order of records entered in one lane cycle: TIME, then CODE, then UNIT (R435). -/
def FaultRec.before (a b : FaultRec) : Bool :=
  decide (a.time.toNat < b.time.toNat) || (decide (a.time = b.time) &&
    (decide (a.code.toNat < b.code.toNat) || (decide (a.code = b.code) && decide (a.unit < b.unit))))

/-- What named one of two indices that change places names the other. -/
def swapIdx (p i n : Nat) : Nat := if n = p then i else if n = i then p else n

/-- A CONTEXT_RESET names the record of its cause (form K of Table 16.7). -/
def FaultRec.swapCause (p i : Nat) (r : FaultRec) : FaultRec :=
  if r.code = 0x106#12 then { r with detail := r.detail.set 1 (word (swapIdx p i (r.detail.getD 1 0).toNat)) } else r

/-- The records at p and i, entered in one lane cycle, change places, with what refers to them. -/
def State.swapRecs (s : State) (p i : Nat) : State :=
  let log := s.log
  let a := Tbl.get {} log.recs p
  let b := Tbl.get {} log.recs i
  let near := fun (r : FaultRec) => decide ((log.seq - r.seq).toNat ≤ log.burst)
  let recs := Tbl.set {} (Tbl.set {} log.recs p { b with seq := a.seq }) i { a with seq := b.seq }
  let s : State := { s with log := { log with recs := Tbl.mapVals {} (fun _ r => if near r then r.swapCause p i else r) recs } }
  let s := if !a.noCtx && !b.noCtx && decide (a.ctx = b.ctx) then s else
    let s := if a.noCtx then s else s.updCtx a.ctx (fun c => { c with lastIdx := c.lastIdx.map (swapIdx p i) })
    if b.noCtx then s else s.updCtx b.ctx (fun c => { c with lastIdx := c.lastIdx.map (swapIdx p i) })
  s.each (fnsOf (a.raised ||| b.raised)) (fun f s => s.updFn f (fun w => { w with
    notices := w.notices.map (fun n => { n with index := swapIdx p i n.index }) }))

/-- The record at index i moves ahead of those, up to n of them, that were entered in the same lane cycle and come after it. -/
def State.settleRec (s : State) : Nat → Nat → State
  | _, 0 => s
  | i, n + 1 =>
    let p := (i + 4095) % 4096
    if (Tbl.get {} s.log.recs i).before (Tbl.get {} s.log.recs p) then (s.swapRecs p i).settleRec p n else s

/-- A record is entered among those of its lane cycle. -/
def State.takeRec (s : State) (r : FaultRec) : State :=
  let n := if s.log.burstAt = s.lc then s.log.burst else 0
  let s : State := { s with log := { s.log with burstAt := s.lc, burst := n + 1 } }
  (s.enterRec r).settleRec s.log.next n

/-- A fault happens: entered at once, or held while the management processor is not running (R431). -/
def State.logRec (s : State) (r : FaultRec) : State :=
  if s.mgmtUp then s.takeRec r
  else if s.log.hold.length < 256 then { s with log := { s.log with hold := s.log.hold ++ [r] } }
  else { s with log := { s.log with dropped := sat 65535 (s.log.dropped + 1), droppedNow := true } }

/-- The record of a fault dated `t`. -/
def State.mkRec (s : State) (code rung : Nat) (on : Raise) (ctx : Option Nat) (unit : Nat) (t : W64) (d : List W32) : FaultRec :=
  { code := BitVec.ofNat 12 code, rung := rung, ctx := ctx.getD 0, noCtx := ctx.isNone,
    fn := (ctx.map (fun c => (s.ctx c).fn)).getD 0, gen := (ctx.map (fun c => (s.ctx c).gen)).getD 0,
    unit := unit, time := t, raised := maskOf (s.raisedOn ctx on), detail := (d ++ List.replicate 8 0).take 8 }

def State.faultAt (s : State) (code rung : Nat) (on : Raise) (ctx : Option Nat) (unit : Nat) (t : W64) (d : List W32) : State :=
  s.logRec (s.mkRec code rung on ctx unit t d)

def State.fault (s : State) (code rung : Nat) (on : Raise) (ctx : Option Nat) (unit : Nat) (d : List W32) : State :=
  s.faultAt code rung on ctx unit s.tb d

/-- Detail form S: the step, a signed value in LC and the step's timeline position. -/
def detS (step : Nat) (v : Int) (pos : Int) : List W32 :=
  [word step, wordI v, lo32 (BitVec.ofInt 64 pos), hi32 (BitVec.ofInt 64 pos)]

/-! ### Completions (R101, R107, R108) -/

def opByte : Op → Nat
  | .nop => 0x00 | .ping => 0x01 | .getInfo => 0x02 | .timeSet => 0x03 | .schedCancel => 0x04
  | .ctxOpen => 0x10 | .ctxClose => 0x11 | .ctxReset => 0x12 | .ctxBind => 0x13 | .ctxClaim => 0x14 | .ctxRelease => 0x15
  | .ctxStatus => 0x16 | .segAlloc => 0x20 | .segWrite => 0x21 | .segFree => 0x22 | .segPin => 0x23 | .segRead => 0x24
  | .segMirror => 0x25 | .prgLoad => 0x30 | .prgCheck => 0x31 | .prgArm => 0x32 | .prgStart => 0x33 | .prgStop => 0x34
  | .jmpArm => 0x35 | .ctrSet => 0x36 | .scnDefine => 0x40 | .scnStartAt => 0x41 | .scnAbort => 0x42 | .scnDelete => 0x43
  | .fchConfig => 0x50 | .fchMode => 0x51 | .pchConfig => 0x52 | .pchLoad => 0x53 | .pchStrobe => 0x54 | .pchQueue => 0x55
  | .vocConfig => 0x56 | .clkConfig => 0x60 | .clkStep => 0x61 | .clkSync => 0x62 | .tmuConfig => 0x70 | .tmuRun => 0x71
  | .tmuRead => 0x72 | .calRun => 0x80 | .calSave => 0x81 | .calRestore => 0x82 | .aocCtrl => 0x83 | .evtRoute => 0x90
  | .evtLut => 0x91 | .evtFire => 0x92 | .bnkPower => 0xA0 | .bnkHandover => 0xA1 | .fwStage => 0xE0 | .fwSchedule => 0xE1
  | .fwStatus => 0xE2 | .fwCancel => 0xE3 | .logRead => 0xF0 | .faultAck => 0xF1 | .memDiag => 0xF2
  | .unknown b => b.toNat

def statusByte : Status → Nat
  | .ok => 0x00 | .accepted => 0x01 | .late => 0x10 | .noResource => 0x11 | .busy => 0x12 | .handoverPending => 0x13
  | .badOpcode => 0x20 | .badParam => 0x21 | .notOwner => 0x22 | .budget => 0x23 | .staleGen => 0x24 | .timeout => 0x30
  | .fault => 0x31 | .calImplausible => 0x32 | .fwRejected => 0x33 | .unsupportedInRecovery => 0x3F

/-- Detail form Q (Table 16.7). -/
def detQ (r : Run) (st : Status) (res off : Nat) : List W32 :=
  [word (opByte r.op + 256 * r.p.ring.val + 65536 * r.p.tag.toNat), word (statusByte st + 256 * res),
   lo32 r.p.act, hi32 r.p.act, word off, word r.p.fn.val]

/-- A completion is decided at time `t` and held for its ring (R101). -/
def State.cplAt (s : State) (r : Run) (st : Status) (res : Nat) (interim : Bool) (t : W64) : State :=
  { s with held := s.held ++ [{
      fn := r.p.fn.val, cq := (s.ring r.p.fn.val r.p.ring.val).cqF.toNat, ring := r.p.ring.val, tag := r.p.tag, ctx := r.p.ctx.val,
      status := st, result := BitVec.ofNat 24 res, time := t, interim := interim,
      suppressed := r.p.noCpl && (decide (st = .ok) || decide (st = .accepted)),
      untimed := !r.timed, op := r.op, p := r.p, seq := r.seq }] }

/-- FW_LAST keeps the final status and RESULT of the last FW_SCHEDULE (Table 17.15). -/
def State.noteLast (s : State) (r : Run) (st : Status) (res : Nat) : State :=
  if r.op = .fwSchedule then s.updFw (fun f => { f with lastStatus := BitVec.ofNat 8 (statusByte st), lastResult := BitVec.ofNat 24 res }) else s

/-- The final completion. A packet run late under RUN_NOW carries RESULT [0] set (R111). -/
def State.completeAt (s : State) (r : Run) (st : Status) (res : Nat) (t : W64) : State :=
  (s.cplAt r st (if r.ranLate && decide (st = .ok) then res ||| 1 else res) false t).noteLast r st res

def State.complete (s : State) (r : Run) (st : Status) (res : Nat) : State := s.completeAt r st res s.tb

def State.interim (s : State) (r : Run) (st : Status) : State := s.cplAt r st 0 true s.tb

/-- A packet goes on executing. -/
def State.addJob (s : State) (r : Run) (k : JobKind) : State :=
  { s with jobs := s.jobs ++ [{ run := { r with born := s.lc }, kind := k }] }

/-- The first packet in execution whose kind satisfies `p`. -/
def State.findJob (s : State) (p : JobKind → Bool) : Option Job := s.jobs.find? (fun j => p j.kind)

def State.dropJobs (s : State) (p : Job → Bool) : State := { s with jobs := s.jobs.filter (fun j => !p j) }

/-- Take out the packets in execution that satisfy `p` and complete each. -/
def State.endJobs (s : State) (p : Job → Bool) (st : Status) (res : Nat) : State :=
  let js := s.jobs.filter p
  (js.foldl (fun s j => s.complete j.run st res) (s.dropJobs p))

def State.endKind (s : State) (p : JobKind → Bool) (st : Status) (res : Nat) : State := s.endJobs (fun j => p j.kind) st res

/-- Reply data written to host memory, truncated to REPLY_LEN (R106). -/
def State.replyData (s : State) (r : Run) (len : Nat) (addr : W64) (data : List Byte) : State :=
  s.emit (.write r.p.fn.val addr (data.take len))

/-- RESULT of a reply: the full length where the data were truncated, else 0 (R106; log entry 24). -/
def replyResult (len : Nat) (data : List Byte) : Nat := if len < data.length then data.length else 0

/-- A reply and its final completion. -/
def State.reply (s : State) (r : Run) (len : Nat) (addr : W64) (data : List Byte) : State :=
  (s.replyData r len addr data).complete r .ok (replyResult len data)

/-! ### Waveform memory (R278, R339) -/

abbrev Memory := List Host.Cell

/-- The canonical form: addresses strictly rising, no entry equal to what an unlisted address reads as. -/
abbrev Memory.wf (m : Memory) : Prop := Tbl.wf (0 : Byte) m = true

/-- What an address that nothing has written reads as: 0. -/
def Memory.read (m : Memory) (a : Nat) : Byte := Tbl.get 0 m a
def Memory.write (m : Memory) (a : Nat) (v : Byte) : Memory := Tbl.set 0 m a v
def Memory.writeMany (m : Memory) (a : Nat) (d : List Byte) : Memory := Tbl.setMany 0 m a d
def Memory.readMany (m : Memory) (a n : Nat) : List Byte := Tbl.getMany 0 m a n
def Memory.zero (m : Memory) (a n : Nat) : Memory := Tbl.clear m a n

/-- Where unit g lies (R278): pseudo-channel and in-PC unit address. -/
def pcOf (g : Nat) : Nat := 32 * (g % 2) + (g / 2 % 32 + g / 64 % 32) % 32
def unitOf (g : Nat) : Nat := g / 64 % 2 ^ 21
/-- DRAM bank, row and column unit of an in-PC unit address (Table 11.1). -/
def dbankOf (a : Nat) : Nat := a / 4 % 32
def rowOf (a : Nat) : Nat := a / 128 % 16384
def colOf (a : Nat) : Nat := a % 4
/-- The partner pseudo-channel. -/
def partner (p : Nat) : Nat := (p + 32) % 64

def Format.unit64 : Format → Nat
  | .s16 => 128 | .s20 => 160 | .iq16 => 256

def Format.code : Format → Nat
  | .s16 => 0 | .s20 => 1 | .iq16 => 2

/-- Bytes of a segment, its fetched size F and its samples (R148, R279). -/
def Seg.bytes (g : Seg) : Nat := g.len64 * g.fmt.unit64
def Seg.fetched (g : Seg) : Nat := 256 * ceilDiv g.bytes 256
def Seg.samples (g : Seg) : Nat := 64 * g.len64

/-- The device addresses of unit k of a DRAM segment: one, or both copies (R279, R280). -/
def Seg.unitDpas (g : Seg) (k : Nat) : List Nat :=
  if g.mirrored then [16384 * g.ext + 256 * (2 * k), 16384 * g.ext + 256 * (2 * k + 1)] else [16384 * g.ext + 256 * k]

/-- The copy a fetch of unit k reads (R280). -/
def Seg.fetchDpa (g : Seg) (k : Nat) : Nat :=
  if g.mirrored then 16384 * g.ext + 256 * (2 * k + k / 32 % 2) else 16384 * g.ext + 256 * k

/-- Samples per lane cycle and bytes per lane cycle of a mode (Table 1.4). -/
def Mode.rate : Mode → Nat
  | .wide => 8 | .standard => 4 | .fine => 1 | .band => 2
/-- In units of half a byte per lane cycle: 16, 8, 2.5 and 8 bytes. -/
def Mode.halfBytes : Mode → Nat
  | .wide => 32 | .standard => 16 | .fine => 5 | .band => 16
def Mode.format : Mode → Format
  | .wide | .standard => .s16 | .fine => .s20 | .band => .iq16
def Mode.code : Mode → Nat
  | .wide => 0 | .standard => 1 | .fine => 2 | .band => 3
def modeOf (n : Nat) : Mode := match n with | 0 => .wide | 1 => .standard | 2 => .fine | _ => .band

def Format.bits : Format → Nat
  | .s16 => 16 | .s20 => 20 | .iq16 => 32

def Seg.units (g : Seg) : Nat := g.fetched / 256
/-- The index within an action of the first sample of its unit j, counted over its repetitions. -/
def Seg.unitSample (g : Seg) (j : Nat) : Nat := j / max g.units 1 * g.samples + j % max g.units 1 * 2048 / g.fmt.bits

/-- A byte of a unit: where byte `o` of a segment lies in each copy. -/
def Seg.dpasOf (g : Seg) (o : Nat) : List Nat := (g.unitDpas (o / 256)).map (fun d => d + o % 256)

/-- Write bytes of a DRAM segment, both copies of a mirrored one, clearing poison of the units written (R323). -/
def State.writeDram (s : State) (g : Seg) (o : Nat) : List Byte → State
  | [] => s
  | v :: vs =>
    let s := (g.dpasOf o).foldl (fun s d => s.updSql (fun q => { q with dram := Memory.write q.dram d v })) s
    State.writeDram s g (o + 1) vs

/-- Poison clears for the units a write covers. -/
def State.clearPoison (s : State) (dpa n : Nat) : State :=
  s.updMem (fun m => { m with poison := m.poison.filter (fun w => decide (w < dpa / 256 * 8) || decide ((dpa + n + 255) / 256 * 8 ≤ w)) })

/-- The byte at a device address cannot be had: its word is poisoned, or its pseudo-channel has FAILED (R323, R337). -/
def State.badByte (s : State) (d : Nat) : Bool := s.mem.poison.contains (d / 32) || decide ((s.pc (pcOf (d / 256))).phase = .failed)

/-- Read bytes of a DRAM segment from a good copy, zeros where there is none (R323). -/
def State.readDram (s : State) (g : Seg) (o : Nat) : Nat → List Byte
  | 0 => []
  | n + 1 =>
    (match (g.dpasOf o).find? (fun d => !s.badByte d) with | some d => Memory.read s.sql.dram d | none => 0) :: State.readDram s g (o + 1) n

/-- The bank address of byte `o` of bank `b`. -/
def bankKey (b o : Nat) : Nat := 2 ^ 20 * b + o

def State.writeBank (s : State) (b o : Nat) (d : List Byte) : State :=
  { s with bnk := { s.bnk with ram := Memory.writeMany s.bnk.ram (bankKey b o) d } }
def State.readBank (s : State) (b o n : Nat) : List Byte := Memory.readMany s.bnk.ram (bankKey b o) n
def State.zeroBank (s : State) (b o n : Nat) : State :=
  { s with bnk := { s.bnk with ram := Memory.zero s.bnk.ram (bankKey b o) n } }
def State.zeroDram (s : State) (e n : Nat) : State :=
  (s.updSql (fun q => { q with dram := Memory.zero q.dram (16384 * e) (16384 * n) })).clearPoison (16384 * e) (16384 * n)

/-! ### Space (R139, R279, R344) -/

/-- Is [k, k+n) free of every range listed? -/
def freeRun (l : List (Nat × Nat)) (k n : Nat) : Bool := l.all (fun e => decide (k + n ≤ e.1) || decide (e.1 + e.2 ≤ k))

/-- The lowest start, a multiple of `g`, of a free run of `n` below `top`: 0 or the end of a range in use. -/
def firstFit (l : List (Nat × Nat)) (g n top : Nat) : Option Nat :=
  let cands := (0 :: l.map (fun e => g * ceilDiv (e.1 + e.2) g)).filter (fun k => decide (k + n ≤ top) && freeRun l k n)
  cands.foldl (fun b k => match b with | none => some k | some x => some (min x k)) none

/-- Extents the allocator may not grant: in use, quarantined, withheld. -/
def State.takenExtents (s : State) : List (Nat × Nat) :=
  s.sql.used ++ s.sql.quarantine ++ s.sql.withheld.map (fun e => (e, 1))

/-- The place SEG_ALLOC takes (R279): the lowest run of `n` free extents below the reserved area (R281). -/
def State.fitExtents (s : State) (n : Nat) : Option Nat := firstFit s.takenExtents 1 n 2088960

def State.takeExtents (s : State) (e n : Nat) : State := s.updSql (fun q => { q with used := q.used ++ [(e, n)] })
/-- Freed space waits for its orphans and for zeroing (R139). -/
def State.freeExtents (s : State) (e n : Nat) : State :=
  if n = 0 then s else
  s.updSql (fun q => { q with used := q.used.filter (fun r => decide (r ≠ (e, n))), quarantine := q.quarantine ++ [(e, n)] })

def State.fitBank (s : State) (b n : Nat) : Option Nat :=
  firstFit ((s.bank b).used ++ (s.bank b).zeroing) 256 n (2 ^ 20)
def State.takeBank (s : State) (b o n : Nat) : State := s.updBank b (fun k => { k with used := k.used ++ [(o, n)] })
def State.freeBank (s : State) (b o n : Nat) : State :=
  s.updBank b (fun k => { k with used := k.used.filter (fun r => decide (r ≠ (o, n))), zeroing := k.zeroing ++ [(o, n)] })

/-- FREE_KIB of Table 12.6: the free space of a bank in KiB, 0 for banks not owned by a context. DEDUCED, log entry 44: its reset value of
1,024 stands until the bank's first change of owner. -/
def Bank.freeKib (k : Bank) : Nat :=
  if k.owner < 1024 ∨ k.untouched = true then (2 ^ 20 - ((k.used ++ k.zeroing).foldl (fun a e => a + e.2) 0)) / 1024 else 0

/-- An owner change (Table 12.9). -/
def State.setOwner (s : State) (b o : Nat) : State :=
  s.updBank b (fun k => { k with owner := o, untouched := false, handover := none, handovers := sat 65535 (k.handovers + 1) })

end Sys2Proof.Machine
end

