-- ==== Sys2Proof/Machine/Stream.lean ====
section
/-! DEFINITION. The sample path: what each voice outputs at a memory-rate sample, the channel summers, interpolation, upconversion,
output correction, the stop ramp and the core's rotation (spec/06_sequence_programs.md R148, spec/07_voices_channel_datapath.md R192 to
R216, spec/08_fast_converters.md R227 to R236); and time, which carries it forward. Samples are counted by grid position: sample n of a
voice lies n / r lane cycles after PWRGD, with r samples per lane cycle. Values are exact; full scale is 1 (log entry 52). -/
namespace Sys2Proof.Machine

/-! ### Samples in bytes (R148) -/

/-- A little-endian number. -/
def leNat : List Byte → Nat
  | [] => 0
  | b :: t => b.toNat + 256 * leNat t

/-- A two's complement field of w bits. -/
def fieldVal (w n : Nat) : Int := if 2 * n < 2 ^ w then n else (n : Int) - 2 ^ w

/-- A field of w bits as a fraction of full scale. -/
def fraction (w n : Nat) : Rat := (fieldVal w (n % 2 ^ w) : Rat) / (2 ^ (w - 1) : Nat)

/-- The bytes that hold sample i: the first and how many. A 40-byte group of S20 is 16 samples of 20 bits without gaps. -/
def Format.place (f : Format) (i : Nat) : Nat × Nat := (i * f.bits / 8, (i * f.bits + f.bits - 1) / 8 + 1 - i * f.bits / 8)

/-- Sample i from the bytes that hold it, as x + j0 or I + jQ. -/
def Format.value (f : Format) (i : Nat) (d : List Byte) : Rat × Rat :=
  let n := leNat d / 2 ^ (i * f.bits % 8)
  match f with
  | .iq16 => (fraction 16 n, fraction 16 (n / 2 ^ 16))
  | .s16 => (fraction 16 n, 0)
  | .s20 => (fraction 20 n, 0)

/-- The bank a segment plays from, and the offset: its own, or that of its complete copy unless it is being unpinned (R154). -/
def Seg.bankAt (g : Seg) : Option (Nat × Nat) :=
  match g.bank with
  | some x => some x
  | none => match g.pin with | some (b, o, true) => if g.unpinning then none else some (b, o) | _ => none

/-! ### Where an action's samples are (R154, R176, R284, R290, R349) -/

/-- Mode of a voice's channel. -/
def State.voiceMode (s : State) (v : Nat) : Mode := (s.fch (v / 8)).mode

/-- The segment an action plays is still the one it named. -/
def State.actLive (s : State) (a : Action) : Bool := (s.seg a.seg).used && decide ((s.seg a.seg).gen = a.segGen)

/-- The units at the head of each repetition that a jump slot's copy serves. -/
def State.copied (s : State) (a : Action) : Nat := if a.bank.isSome then (if a.copyUnits = 0 then (s.seg a.seg).units else min a.copyUnits (s.seg a.seg).units) else 0

/-- Step fetches carry the segment 65,536, which no slot has. -/
def stepSeg : Nat := 65536

/-- A request or a tag of a head, or its retry: for no voice, no step and no BULK read. -/
def isHead (v : Option Nat) (seg : Nat) (bulk : Option Nat) : Bool := v.isNone && decide (seg ≠ stepSeg) && bulk.isNone

/-- The landed tag that holds unit u of repetition k of a voice's action: its own, or a head of its context. -/
def State.unitTag (s : State) (v : Nat) (a : Action) (k u lc : Nat) : Option Nat :=
  (Tbl.keysWhere (fun _ t => t.held && t.landed && !t.abandoned && decide (t.landedAt ≤ lc) && decide (t.seg = a.seg) && decide (t.segGen = a.segGen) &&
    ((decide (t.voice = some v) && decide (t.pos = a.pos) && decide (t.unit = k * (s.seg a.seg).units + u)) ||
     (isHead t.voice t.seg t.bulk && decide (some t.ctx = (s.voice v).owner) && decide (k = 0) && decide (t.unit = u)))) s.sql.tags).head?

/-- The slot of a tag: its landing bank and offset (R284). -/
def slotBank (t : Nat) : Nat := 8 * (t % 16) + 7
def slotOff (t : Nat) : Nat := 256 * (t / 16)

/-- Byte o of repetition k of an action, as the voice can have it in lane cycle lc: from a bank that is ON, or from a landing slot, a
poisoned word never. -/
def State.actByte (s : State) (v : Nat) (a : Action) (k o lc : Nat) : Option Byte :=
  if !s.actLive a then none
  else if o / 256 < s.copied a then
    (let b := a.bank.getD 0
     if (s.bank b).st = .on then some (Memory.read s.bnk.ram (bankKey b (a.bankOff + o))) else none)
  else
    match s.unitTag v a k (o / 256) lc with
    | some t => if (Tbl.get {} s.sql.tags t).bad.contains (o % 256 / 32) then none
                else some (Memory.read s.bnk.ram (bankKey (slotBank t) (slotOff t + o % 256)))
    | none => none

/-- The bytes of a run, all or none. -/
def allBytes (f : Nat → Option Byte) (o : Nat) : Nat → Option (List Byte)
  | 0 => some []
  | n + 1 => match f o, allBytes f (o + 1) n with
    | some b, some l => some (b :: l)
    | _, _ => none

/-- The samples of an action over its repetitions, as far as it has not been cut. -/
def State.actSamples (s : State) (v : Nat) (a : Action) : Nat := (s.voiceMode v).rate * a.dur

/-- Sample i of an action, counted over its repetitions; none where the voice cannot take it. -/
def State.sampleOf (s : State) (v : Nat) (a : Action) (i lc : Nat) : Option (Rat × Rat) :=
  let g := s.seg a.seg
  let k := i / max g.samples 1
  let j := i % max g.samples 1
  let p := g.fmt.place j
  (allBytes (fun o => s.actByte v a k o lc) p.1 p.2).map (fun d => g.fmt.value j d)

/-! ### The vernier (R196 to R199) -/

/-- The applied follow term at a lane cycle: it moves towards T by FOLLOW_SLEW a lane cycle (R218), and holds without FOLLOW_EN or
once the slot it follows is released (R219). -/
def Voice.fNow (v : Voice) (lc : Nat) : Int :=
  let d := v.vrec.followSlew * (lc - v.fAt)
  if v.vrec.followEn && !v.followHeld then
    (if v.f < v.t then min v.t (v.f + d) else max v.t (v.f - d))
  else v.f

/-- Held to R197's range. -/
def heldDelay (d : Int) : Int := max (-2097152) (min 2097151 d)

/-- The summed delay at a lane cycle of an action whose other terms come to `own`. -/
def Voice.delayAt (x : Voice) (own : Int) (lc : Nat) : Int := heldDelay (own + x.fNow lc)

/-- How far into an action the output of sample n reads, in units of 2^-16 sample: sample i of the action leaves as if its grid
position were t + i / r + d. -/
def State.coord (s : State) (v : Nat) (a : Action) (own : Int) (n : Nat) : Int :=
  let r := (s.voiceMode v).rate
  65536 * ((n : Int) - r * a.pos) - r * (s.voice v).delayAt own (n / r)

/-- The action that sounds at sample n, with its delay: the current one from its first delayed sample on, the one before it until
then, each to its own end (R199). -/
def State.sounding (s : State) (v n : Nat) : Option (Action × Int) :=
  let x := s.voice v
  let at_ := fun (a : Action) (own : Int) => s.coord v a own n
  let live := fun (a : Action) (own : Int) => decide (0 ≤ at_ a own) && decide (at_ a own < 65536 * s.actSamples v a)
  match x.cur, x.before_ with
  | some a, b =>
    if 0 ≤ at_ a x.own then (if live a x.own then some (a, x.own) else none)
    else match b with | some (c, o) => if live c o then some (c, o) else none | none => none
  | none, some (c, o) => if live c o then some (c, o) else none
  | none, none => none

/-- The index within its action of the sample due at n. -/
def State.dueIndex (s : State) (v : Nat) (a : Action) (own : Int) (n : Nat) : Nat := (s.coord v a own n / 65536).toNat

/-- Tap j of phase p, of 1,024; the phase after the last is the first, a sample later. -/
def tapAt (p j : Nat) : Rat := if p < 1024 then Config.vernTap p j else if j = 0 then 0 else Config.vernTap 0 (j - 1)

/-- Tap j for a fraction of f / 65,536 sample: linear between neighbouring phases (R198). -/
def vernTap (f j : Nat) : Rat := (((64 - f % 64 : Nat) : Rat) * tapAt (f / 64) j + ((f % 64 : Nat) : Rat) * tapAt (f / 64 + 1) j) / 64

def scale (k : Rat) (z : Rat × Rat) : Rat × Rat := (k * z.1, k * z.2)
def add2 (a b : Rat × Rat) : Rat × Rat := (a.1 + b.1, a.2 + b.2)
/-- The sum of f over the numbers below n. -/
def sum2 (n : Nat) (f : Nat → Rat × Rat) : Rat × Rat := (List.range n).foldl (fun z j => add2 z (f j)) (0, 0)

/-- A sample as the filter takes it. -/
def State.tapSample (s : State) (v : Nat) (a : Action) (i : Int) (lc : Nat) : Rat × Rat :=
  if 0 ≤ i ∧ i.toNat < s.actSamples v a then (s.sampleOf v a i.toNat lc).getD (Config.beyond v i) else Config.beyond v i

/-- The material of an action at sample n after its delay: whole samples shift the read position, the fraction goes to the 24 taps. -/
def State.delayed (s : State) (v : Nat) (a : Action) (own : Int) (n : Nat) : Rat × Rat :=
  let r := (s.voiceMode v).rate
  let d := r * (s.voice v).delayAt own (n / r)
  let i := (n : Int) - r * a.pos - d / 65536
  sum2 24 (fun j => scale (vernTap (d % 65536).toNat j) (s.tapSample v a (i + 12 - j) (n / r)))

/-! ### Gain and NCO (R201 to R206) -/

/-- A at sample n with no hop before it. -/
def Voice.accAt (v : Voice) (n : Nat) : BitVec 48 := v.acc + v.freq * BitVec.ofInt 48 ((n : Int) - v.ncoAt)

/-- A hop takes effect at its sample; `off` makes the sample's absolute memory-rate index of its count. A PHASE_SET sets A alone. -/
def Voice.hopTo (off : BitVec 48) (v : Voice) (h : Hop) : Voice :=
  let ph : BitVec 48 := h.phase.setWidth 48 <<< 32
  if h.rank = 2 then { v with acc := ph, ncoAt := h.at_ }
  else { v with
    acc := (if h.coherent then h.freq * (BitVec.ofNat 48 h.at_ + off) else v.accAt h.at_) + ph
    freq := h.freq, ncoAt := h.at_ }

/-- Hops stay in order of their samples, and of their ranks at one sample. -/
def insertHop (h : Hop) : List Hop → List Hop
  | [] => [h]
  | x :: xs => if !x.onPlay && (decide (h.at_ < x.at_) || (decide (h.at_ = x.at_) && decide (h.rank < x.rank))) then h :: x :: xs else x :: insertHop h xs

/-- The hop takes effect by sample n. -/
def Hop.due (h : Hop) (n : Nat) : Bool := !h.onPlay && decide (h.at_ ≤ n)

/-- The hops due by sample n. -/
def Voice.runNco (v : Voice) (off : BitVec 48) (n : Nat) : Voice :=
  { (v.hops.filter (fun h => h.due n)).foldl (Voice.hopTo off) v with hops := v.hops.filter (fun h => !h.due n) }

/-- N(n) less n: samples per LC times the distance of the count from the lane cycle (R206). -/
def State.ncoOff (s : State) (r : Nat) : BitVec 48 := BitVec.ofInt 48 ((r : Int) * ((s.tb.toNat : Int) - s.lc))

/-- The NCO's phase at sample n, in units of 2^-48 turn. -/
def State.phaseAt (s : State) (v n : Nat) : Nat := (((s.voice v).runNco (s.ncoOff (s.voiceMode v).rate) n).accAt n).toNat

def cosT (n d : Nat) : Rat := if n % d = 0 then 1 else Config.cosTurn (n % d) d
def sinT (n d : Nat) : Rat := if n % d = 0 then 0 else Config.sinTurn (n % d) d

/-- A gain word as a number: 0x4000 is 1. -/
def gainVal (g : BitVec 16) : Rat := (g.toInt : Rat) / 16384

/-- The product of two complex numbers. -/
def mul2 (a b : Rat × Rat) : Rat × Rat := (a.1 * b.1 - a.2 * b.2, a.1 * b.2 + a.2 * b.1)

/-- Gain and NCO phase θ on a sample (R202): in BAND (I + jQ) g e^(j2πθ), else the real part of x g e^(j2πθ). -/
def mixed (m : Mode) (gI gQ : BitVec 16) (th : Nat) (z : Rat × Rat) : Rat × Rat :=
  let e := (cosT th (2 ^ 48), sinT th (2 ^ 48))
  let y := mul2 z (mul2 (gainVal gI, gainVal gQ) e)
  match m with | .band => y | _ => (y.1, 0)

/-! ### The voice's output (R192, R207 to R210) -/

/-- What the voice takes from its material at sample n: none where nothing sounds; within, none where it cannot take its sample. -/
def State.material (s : State) (v n : Nat) : Option (Option (Rat × Rat)) :=
  (s.sounding v n).map (fun x =>
    let a := x.1
    if (s.sampleOf v a (s.dueIndex v a x.2 n) (n / (s.voiceMode v).rate)).isSome then
      some (mixed (s.voiceMode v) a.gainI a.gainQ (s.phaseAt v n) (s.delayed v a x.2 n))
    else none)

/-- The fill: 0, or the last output value of the voice before the fill began. -/
def Voice.fillValue (x : Voice) : Rat × Rat :=
  if x.vrec.holdLast then (match x.fillEp with | some e => e.value | none => x.lastOut) else (0, 0)

/-- The factor of a linear ramp of `len` lane cycles from lane cycle `from_`, at sample n of r a lane cycle. -/
def rampFactor (r from_ len n : Nat) : Rat := max 0 (1 - ((n - r * from_ : Nat) : Rat) / ((len * r : Nat) : Rat))

/-- The output of a voice at sample n, before its stop ramp: its material, its fill, or zero. -/
def State.voiceRaw (s : State) (v n : Nat) : Rat × Rat :=
  match s.material v n with
  | some (some y) => y
  | some none => (s.voice v).fillValue
  | none => if (s.voice v).fillEp.isSome && (s.voice v).cur.isNone then (s.voice v).fillValue else (0, 0)

/-- The voice's output: an idle voice's is zero; a ramping voice's falls to zero (R210). -/
def State.voiceOut (s : State) (v n : Nat) : Rat × Rat :=
  let x := s.voice v
  match x.st with
  | .idle => (0, 0)
  | .ramping => scale (rampFactor (s.voiceMode v).rate x.rampFrom x.rampLen n) (s.voiceRaw v n)
  | _ => s.voiceRaw v n

/-- The voice's last output value before sample n is kept for a fill: that of its material, else what was kept before. -/
def State.noteOut (s : State) (v n : Nat) : State :=
  if n = 0 then s else
  match s.material v (n - 1) with
  | some (some y) => s.updVoice v (fun x => { x with lastOut := y })
  | _ => s

/-! ### The summer (R211, R212) -/

/-- Rounded to units of 2^-22. Which way a half-way sum goes the spec does not say. -/
def round22 (z : Rat) : Int :=
  let m := z * (2 ^ 22 : Nat)
  let f := m.floor
  if m - f < 1 / 2 then f else if 1 / 2 < m - f then f + 1 else if Config.sumTie f then f + 1 else f

/-- Full scale in units of 2^-22. -/
def clip22 (z : Int) : Int := max (-4194304) (min 4194304 z)

/-- The exact sum of a channel's eight voices at sample n. -/
def State.sumAt (s : State) (c n : Nat) : Rat × Rat := sum2 8 (fun k => s.voiceOut (8 * c + k) n)

/-- The summer's output at sample n, each component rounded and saturated, and whether one saturated. -/
def State.summed (s : State) (c n : Nat) : (Int × Int) × Bool :=
  let z := s.sumAt c n
  let a := (round22 z.1, round22 z.2)
  let b := (clip22 a.1, clip22 a.2)
  (b, decide (a ≠ b))

/-! ### Interpolation, upconversion, correction (R213 to R216) -/

def clipUnit (z : Rat) : Rat := max (-1) (min 1 z)

/-- The interpolated stream at conversion sample m of a memory sample (m below the ratio 32 / r), from the latest sums. -/
def interp (mode : Mode) (m : Nat) (sums : List (Int × Int)) : Rat × Rat :=
  sum2 sums.length (fun j => let z := sums.getD j (0, 0)
    scale (Config.interpTap mode.code m j / (2 ^ 22 : Nat)) ((z.1 : Rat), (z.2 : Rat)))

/-- Carried to the centre: φ(M) = fc × M ÷ 51.2 GHz turns, M the absolute conversion sample (R214). -/
def upconvert (khz M : Nat) (z : Rat × Rat) : Rat :=
  let ph := khz * M % 51200000
  z.1 * cosT ph 51200000 - z.2 * sinT ph 51200000

/-- The coefficient i of a set, as the set's mode has it. -/
def CorrSet.coeffAt (t : CorrSet) (m i : Nat) : W32 := match t.coeff with | some l => l.getD i 0 | none => Config.neutral m i

def sumQ (n : Nat) (f : Nat → Rat) : Rat := (List.range n).foldl (fun z j => z + f j) 0

/-- The predistorter: order 5, 8 taps of memory (R215). -/
def predistort (cf : Nat → Rat) (us : List Rat) : Rat := sumQ 40 (fun i => cf i * us.getD (i % 8) 0 ^ (i / 8 + 1))
/-- The equaliser: 64 taps. -/
def equalise (cf : Nat → Rat) (ys : List Rat) : Rat := sumQ 64 (fun i => cf (40 + i) * ys.getD i 0)

/-- Zeros alone are kept as nothing. -/
def trimQ (l : List Rat) : List Rat := if l.all (fun x => decide (x = 0)) then [] else l
def trimI (l : List (Int × Int)) : List (Int × Int) := if l.all (fun x => decide (x = (0, 0))) then [] else l

/-! ### The core (R227, R228, R233, R236) -/

/-- The channel converts: RUNNING, or its stop ramp still runs. -/
def Fch.converts (f : Fch) : Bool := decide (f.st = .running) || f.rampEnd.isSome

/-- The factor of the channel's ramp at conversion sample m (32 a lane cycle): 1 where none runs (R236, R237). -/
def Fch.factor (f : Fch) (m : Nat) : Rat := if f.rampEnd.isSome then f.rampTop * rampFactor 32 f.rampFrom f.rampLen m else 1

/-- A choice of level as one of the seven. -/
def levelOf (n : Nat) : Int := (n % 7 : Nat) - 3

/-- At level L, 24 + 8L elements go to leg P (R227). -/
def toP (l : Int) : Nat := (24 + 8 * l).toNat

/-- The elements steered to P at a level: from the pointer on, over the elements in service. -/
def Fch.legP (f : Fch) (k : Conv) (l : Int) : List Nat := (List.range (toP l)).map (fun i => f.table.getD ((k.ptr + i) % 48) 0)

/-- One conversion sample at the core: the modulator's next level, and the pointer advanced by the elements steered to P. A channel
that does not convert is parked at level 0. -/
def Conv.convert (k : Conv) (f : Fch) (z : Rat) : Conv :=
  if f.converts then
    let x := Config.modulate f.mode.code f.centre k.modulator z
    { k with modulator := x.1, level := levelOf x.2, ptr := (k.ptr + toP (levelOf x.2)) % 48 }
  else { k with level := 0 }

/-- One conversion sample, from the interpolated stream to the core; whether an output saturated. -/
def State.convSample (s : State) (c : Nat) (k : Conv) (m : Nat) : Conv × Bool :=
  let f := s.fch c
  let r := f.mode.rate
  let z := interp f.mode (m % (32 / r)) k.sums
  let u0 := match f.mode with | .band => upconvert f.centre (32 * s.tb.toNat + m) z | _ => z.1
  let u := match f.mode with | .band => clipUnit u0 | _ => u0
  let cf := fun i => Config.coeff ((s.aoc c).inForce.coeffAt f.mode.code i)
  let us := (u :: k.us).take 8
  let ys := (predistort cf us :: k.ys).take 64
  let w := equalise cf ys
  (({ k with us := trimQ us, ys := trimQ ys } : Conv).convert f (f.factor (32 * s.lc + m) * clipUnit w), decide (u ≠ u0) || decide (clipUnit w ≠ w))

/-- One memory sample of a channel: the sum enters, and its conversion samples leave. Whether the summer and an output saturated. -/
def State.memSample (s : State) (c : Nat) (x : Conv × Bool × Bool) (i : Nat) : Conv × Bool × Bool :=
  let r := (s.fch c).mode.rate
  let y := s.summed c (r * s.lc + i)
  let k : Conv := { x.1 with sums := trimI ((y.1 :: x.1.sums).take 64) }
  (List.range (32 / r)).foldl (fun x j => let z := s.convSample c x.1 (i * (32 / r) + j); (z.1, x.2.1, x.2.2 || z.2)) (k, x.2.1 || y.2, x.2.2)

/-- A lane cycle with a saturation is counted, flagged, and dated where it is the first (Tables 7.9 to 7.11). -/
def Summer.note (m : Summer) (sum out : Bool) (t : W64) : Summer :=
  { satSum := m.satSum || sum, satOut := m.satOut || out
    sumLc := if sum then sat 65535 (m.sumLc + 1) else m.sumLc, outLc := if out then sat 65535 (m.outLc + 1) else m.outLc
    first := if !m.satSum && !m.satOut && (sum || out) then t else m.first }

def State.convOf (s : State) (c : Nat) : Conv := Tbl.get {} s.conv c

/-- The present lane cycle of one channel. -/
def State.chanLc (s : State) (c : Nat) : State :=
  let x := (List.range (s.fch c).mode.rate).foldl (fun x i => s.memSample c x i) (s.convOf c, false, false)
  { s with conv := Tbl.set {} s.conv c x.1, summers := Tbl.set {} s.summers c ((s.summer c).note x.2.1 x.2.2 s.tb) }

/-- Something passes through the channel: a voice is not idle, a filter is not empty, or it converts. -/
def State.chanBusy (s : State) (c : Nat) : Bool :=
  (List.range 8).any (fun k => decide ((s.voice (8 * c + k)).st ≠ .idle)) || (s.fch c).converts ||
  !(s.convOf c).sums.isEmpty || !(s.convOf c).us.isEmpty || !(s.convOf c).ys.isEmpty

/-! ### What voices still need (R285, R288 to R290) -/

/-- The next unit of an action to request, over its repetitions: what a slot copy serves is skipped. -/
def State.nextFetch (s : State) (v : Nat) (a : Action) : Option Nat :=
  let g := s.seg a.seg
  let u := max g.units 1
  let cu := s.copied a
  let j := if a.fetched % u < cu then a.fetched / u * u + cu else a.fetched
  if s.actLive a && decide (cu < u) && decide (j < a.repeats * u) && decide (g.unitSample j < s.actSamples v a) then some j else none

/-- The voice's action with units still to request, the next of them and its deadline (R288). -/
def State.nextUnit (s : State) (v : Nat) : Option (Action × Nat × Nat) :=
  let x := s.voice v
  (x.cur.toList ++ x.queue).findSome? (fun a => (s.nextFetch v a).map (fun j =>
    (a, j, a.pos + (s.seg a.seg).unitSample j / (s.voiceMode v).rate - 40)))

/-- The deadlines of a voice's units that have not landed, the next to request among them. -/
def State.unlanded (s : State) (v : Nat) : List Nat :=
  let out := (Tbl.keysWhere (fun _ t => decide (t.voice = some v) && !t.landed && !t.abandoned) s.sql.tags).map (fun t => (Tbl.get {} s.sql.tags t).deadline)
  let again := (s.sql.urgent.filter (fun r => decide (r.voice = some v))).map (fun r => r.deadline)
  out ++ again ++ ((s.nextUnit v).map (fun x => x.2.2)).toList

/-- The lead of a voice (R289): to the deadline of its earliest unit that has not landed. -/
def State.voiceLead (s : State) (v : Nat) : Nat :=
  match s.unlanded v with
  | [] => 0
  | d :: t => t.foldl min d - s.lc

/-- The units of a head (R290). -/
def Seg.headUnits (g : Seg) : Nat := min 32 g.units

/-- The last sample that unit u of a repetition holds a part of, counted over the repetitions. -/
def Seg.lastSample (g : Seg) (k u : Nat) : Nat := k * g.samples + min (((u + 1) * 2048 - 1) / g.fmt.bits) (g.samples - 1)

/-- The voice may still need sample i of an action: the filter's taps have not passed it. -/
def State.needs (s : State) (v : Nat) (a : Action) (own : Int) (i : Nat) : Bool :=
  decide (s.coord v a own ((s.voiceMode v).rate * s.lc) / 65536 ≤ i + 11)

/-- The actions of a voice with the delays they have or will have at least. -/
def Voice.acts (x : Voice) : List (Action × Int) :=
  x.before_.toList ++ (x.cur.map (fun a => (a, x.own))).toList ++ x.queue.map (fun a => (a, 2097151))

/-- The voice that a landed tag serves has read it. -/
def State.tagRead (s : State) (t : Tag) : Bool :=
  match t.voice with
  | some v => t.landed && !((s.voice v).acts.any (fun x =>
      decide (x.1.pos = t.pos) && decide (x.1.seg = t.seg) && decide (x.1.segGen = t.segGen) &&
      s.needs v x.1 x.2 ((s.seg t.seg).lastSample (t.unit / max (s.seg t.seg).units 1) (t.unit % max (s.seg t.seg).units 1))))
  | none => false

/-- A head of a context is wanted: its wait lasts, a play of the line behind it is still to come, or a voice is reading it. -/
def State.headWanted (s : State) (c seg segGen : Nat) : Bool :=
  (s.ctx c).heads.contains (seg, segGen) ||
  Tbl.anyEntry (fun v x => decide (x.owner = some c) && x.acts.any (fun y => decide (y.1.seg = seg) && decide (y.1.segGen = segGen) &&
    s.needs v y.1 y.2 ((s.seg seg).lastSample 0 ((s.seg seg).headUnits - 1)))) s.voices

/-- What is no longer needed is given back: tags read for the last time, and heads that nothing wants; those still outstanding are
abandoned. -/
def State.swept (s : State) : State :=
  s.updSql (fun q => { q with
    tags := Tbl.mapVals {} (fun _ t =>
      if s.tagRead t then {}
      else if isHead t.voice t.seg t.bulk && t.held && !s.headWanted t.ctx t.seg t.segGen then (if t.landed then {} else { t with abandoned := true })
      else t) q.tags
    stream := q.stream.filter (fun r => !isHead r.voice r.seg r.bulk || s.headWanted r.ctx r.seg r.segGen)
    urgent := q.urgent.filter (fun r => !isHead r.voice r.seg r.bulk || s.headWanted r.ctx r.seg r.segGen) })

/-! ### Time -/

/-- One lane cycle of the 32 channels, and of the timebase (R82). -/
def State.cycle (s : State) : State :=
  { ((List.range 32).filter (fun c => s.chanBusy c)).foldl (fun s c => s.chanLc c) s with lc := s.lc + 1, tb := s.tb + 1 }

/-- n lane cycles; where every channel is still, nothing happens in them. -/
def State.cycles : Nat → State → State
  | 0, s => s
  | n + 1, s => if (List.range 32).all (fun c => !s.chanBusy c) then { s with lc := s.lc + (n + 1), tb := s.tbAt (s.lc + (n + 1)) } else State.cycles n s.cycle

/-- The pulse density of LOCKMON, in hundredths (Table 3.4). -/
def Align.density : Align → Nat
  | .free => 0 | .acquiring => 25 | .lost | .returning => 55 | .locked | .aligned => 90

/-- LOCKMON n lane cycles on: it settles towards the density, and is at 0 V while PWRGD is low (R64). -/
def State.lockmonIn (s : State) (n : Nat) : Rat :=
  if s.power.pwrgd then (s.clk.align.density : Rat) + (s.lockmon - s.clk.align.density) * Config.decay n else 0

/-- Time carried forward to lane cycle `l`, with the streams of the channels; never back. -/
def State.advanceTo (s : State) (l : Nat) : State :=
  if s.lc < l then
    { s with lc := l, tb := s.tbAt l, lockmon := s.lockmonIn (l - s.lc), summers := (State.cycles (l - s.lc) s).summers, conv := (State.cycles (l - s.lc) s).conv }
  else s

/-- One lane cycle (R82). -/
def State.tick (s : State) : State := s.advanceTo (s.lc + 1)

end Sys2Proof.Machine
end

