-- ==== Sys2Proof/Machine/Cells.lean ====
section
/-! DEFINITION. How a logic cell evaluates from lane cycle to lane cycle (spec/13_event_fabric.md R370, R371). A cell is carried
forward when something asks for it; the lane cycles between are evaluated with no inputs. -/
namespace Sys2Proof.Machine

/-- The index x of the lane cycle at_. -/
def Cell.index (c : Cell) : Nat :=
  if c.ff then c.seen.toNat % 8 + (if c.q then 8 else 0) else c.seen.toNat

def Cell.v (c : Cell) : Bool := c.truth.getLsbD c.index
/-- The output level O. -/
def Cell.level (c : Cell) : Bool := if c.ff then c.q else c.v
/-- W: MINW, taking 0 as 1. -/
def Cell.w (c : Cell) : Nat := max 1 c.minw

/-- A run of 1 ends: filtered where it ended before W. -/
def Cell.endRun (c : Cell) : Cell :=
  { c with run := 0, fired := false, filtered := if decide (0 < c.run) && !c.fired then sat 255 (c.filtered + 1) else c.filtered }

/-- One lane cycle. What fires in the lane cycle of the configuration registers nothing (R371). -/
def Cell.stepLc (c : Cell) : Cell :=
  let d :=
    if c.level then
      let fire := !c.fired && decide (c.w ≤ c.run + 1)
      { c with run := c.run + 1, fired := c.fired || fire, dues := if fire && decide (c.at_ ≠ c.cfgAt) then c.dues ++ [c.at_ + 1] else c.dues }
    else c.endRun
  { d with q := if c.ff then c.v else c.q, seen := 0, at_ := c.at_ + 1 }

/-- k lane cycles without inputs in which O stays what it is. -/
def Cell.quiet (c : Cell) (k : Nat) : Cell :=
  if k = 0 then c
  else if c.level then
    let fire := !c.fired && decide (c.w ≤ c.run + k)
    { c with run := c.run + k, fired := c.fired || fire, dues := if fire then c.dues ++ [c.at_ + (c.w - c.run)] else c.dues, at_ := c.at_ + k }
  else { c.endRun with at_ := c.at_ + k }

def Cell.steps : Nat → Cell → Cell
  | 0, c => c
  | n + 1, c => Cell.steps n c.stepLc

/-- The flip-flop changes in every lane cycle without inputs. -/
def Cell.toggles (c : Cell) : Bool := c.ff && c.truth.getLsbD 0 && !c.truth.getLsbD 8

/-- Evaluated through the lane cycles before n. Two steps settle a flip-flop that does not toggle. -/
def Cell.upTo (c : Cell) (n : Nat) : Cell :=
  let c := Cell.steps (min 2 (n - c.at_)) c
  if c.toggles then Cell.steps (n - c.at_) c else c.quiet (n - c.at_)

/-- Carried on without inputs until it fires, for at most n lane cycles. -/
def Cell.look : Nat → Cell → Cell
  | 0, c => c
  | n + 1, c => if c.dues.isEmpty then Cell.look n c.stepLc else c

end Sys2Proof.Machine
end

