-- ==== Sys2Proof/Machine/Measure.lean ====
section
/-! DEFINITION. What a TMU slot makes of its events: measurements, blocks and statistics (spec/14_time_measurement.md R383 to
R390). Times and intervals are in units of 2^-16 LC. -/
namespace Sys2Proof.Machine

/-- The timebase count less the lane cycle, in units: it places the phase grid of R383. -/
def State.tbOff (s : State) : Int := 65536 * ((s.tb.toNat : Int) - s.lc)

/-- Events stay in the order of their time values; of equal times a START stands before a STOP, which may then end what it begins
(R383: t_stop ≥ t_start). -/
def insertEv (e : TmuEv) : List TmuEv → List TmuEv
  | [] => [e]
  | x :: xs => if e.t < x.t || (decide (e.t = x.t) && e.start && !x.start && x.stop) then e :: x :: xs else x :: insertEv e xs

/-- Measurements under way: the START that opened one, a later START passed over, the last phase, the values, newest first. -/
structure Meas where
  start : Option Nat := none
  passed : Option Nat := none
  prev : Option Int := none
  vals : List Int := []
  count : Nat := 0
deriving DecidableEq, Repr, Inhabited

/-- The residue of x in [-m/2, m/2), for a period of m units (R383). -/
def wrapHalf (m : Nat) (x : Int) : Int := (x + (m / 2 : Nat)) % (m : Int) - (m / 2 : Nat)

def Meas.push (a : Meas) (x : Int) : Meas := { a with vals := x :: a.vals, count := a.count + 1 }

/-- One event (R383 to R385). -/
def Meas.take (func period : Nat) (off : Int) (a : Meas) (e : TmuEv) : Meas :=
  if e.cut then { a with start := none, passed := none, prev := none } else
  match func with
  | 4 =>
    if e.start then
      let m := 65536 * period
      let x := wrapHalf m (e.t + off)
      let y := match a.prev with | none => x | some p => p + wrapHalf m (x - p)
      { a.push y with prev := some y }
    else a
  | 1 | 2 =>
    if e.start then (match a.start with | none => { a with start := some e.t } | some t => { a.push ((e.t : Int) - t) with start := some e.t })
    else a
  | _ =>
    match a.start with
    | none => if e.start then { a with start := some e.t, passed := none } else a
    | some t =>
      if e.stop then { a.push ((e.t : Int) - t) with start := if e.start || decide (a.passed = some e.t) then some e.t else none, passed := none }
      else if e.start then { a with passed := some e.t }
      else a

/-- Events up to the block's end: its nth measurement, or none by its timeout `last`. Answers the measurements, the time of the
final event, and the events left over. -/
def runEvs (func period : Nat) (off : Int) (n last : Nat) : Meas → List TmuEv → Meas × Option Nat × List TmuEv
  | a, [] => (a, none, [])
  | a, e :: es =>
    if last < e.t then (a, none, e :: es)
    else
      let b := a.take func period off e
      if b.count = n then (b, some e.t, es) else runEvs func period off n last b es

/-- The instant at which the block in progress reaches TIMEOUT_LC. -/
def Slot.timeoutAt (k : Slot) : Nat := k.blk.from_ + 65536 * k.timeoutLc

/-- The block in progress, from its start. -/
def Slot.measure (k : Slot) (off : Int) : Meas × Option Nat × List TmuEv :=
  runEvs k.func k.target off k.n k.timeoutAt { start := k.blk.start, prev := k.blk.prev } k.blk.evs

/-- Measurements completed in the block by time t (Table 14.17). -/
def Slot.soFar (k : Slot) (off : Int) (t : Nat) : Nat :=
  (runEvs k.func k.target off k.n (min t k.timeoutAt) { start := k.blk.start, prev := k.blk.prev } k.blk.evs).1.count

/-! ### Statistics (R390) -/

/-- a / b rounded to the nearest, halves away from zero. -/
def roundDiv (a : Int) (b : Nat) : Int :=
  let m := (2 * a.natAbs + b) / (2 * b)
  if a < 0 then -(m : Int) else m

/-- The largest r with r² ≤ n, for r below 2^(k+1). -/
def isqrtFrom (n : Nat) : Nat → Nat → Nat
  | 0, r => if (r + 1) * (r + 1) ≤ n then r + 1 else r
  | k + 1, r => isqrtFrom n k (if (r + 2 ^ (k + 1)) * (r + 2 ^ (k + 1)) ≤ n then r + 2 ^ (k + 1) else r)

def isqrt (n : Nat) : Nat := isqrtFrom n 79 0

/-- One over a period of t units, in µHz for a lane cycle of 625 ps: 2^16 × 10^18 / 625 over t. -/
def microHz (n t : Nat) : Int := roundDiv (n * 104857600000000000000 : Nat) t

def sumI (l : List Int) : Int := l.foldl (fun a x => a + x) 0

/-- The five statistics of the values of a block. -/
structure Stats where
  count : Nat := 0
  mean : Int := 0
  sd : Nat := 0
  mn : Int := 0
  mx : Int := 0
deriving DecidableEq, Repr, Inhabited

def stats (func : Nat) (vals : List Int) : Stats :=
  match vals with
  | [] => {}
  | v :: vs =>
    let n := vals.length
    let xs := if func = 2 then vals.map (fun t => microHz 1 t.natAbs) else vals
    let sum := sumI xs
    let sq := sumI (xs.map (fun x => x * x))
    let a := ((n : Int) * sq - sum * sum).natAbs
    let x0 := if func = 2 then microHz 1 v.natAbs else v
    { count := n
      mean := if func = 2 then microHz n (sumI vals).natAbs else roundDiv sum n
      sd := if n < 2 then 0 else (isqrt (4 * a / (n * (n - 1))) + 1) / 2
      mn := (if func = 2 then vs.map (fun t => microHz 1 t.natAbs) else vs).foldl min x0
      mx := (if func = 2 then vs.map (fun t => microHz 1 t.natAbs) else vs).foldl max x0 }

end Sys2Proof.Machine
end

