-- ==== Sys2Proof/Machine/Flags.lean ====
section
/-! DEFINITION. Every status and flag computation: the value each register of Tables 19.2 and 4.3 reads as, and the level of
pin IRQn. Reading a register whose rule has a side effect is the command's; here is only the value. -/
namespace Sys2Proof.Machine

/-- A word from its fields: value v at bit lo. -/
def pack (fs : List (Nat × Nat)) : W32 := word (fs.foldl (fun a f => a + f.2 * 2 ^ f.1) 0)
def b2n (b : Bool) : Nat := if b then 1 else 0
def o2n (o : Option Nat) : Nat := o.getD 0
def neg (n : Nat) (v : Int) : Nat := (BitVec.ofInt n v).toNat

/-! ### State codes -/

def Align.code : Align → Nat
  | .free => 0 | .acquiring => 1 | .locked => 2 | .aligned => 3 | .lost => 4 | .returning => 5
def TbState.code : TbState → Nat
  | .unset => 0 | .set => 1 | .synced => 2 | .suspect => 3
def CtxSt.code : CtxSt → Nat
  | .free => 0 | .opened => 1 | .bound => 2 | .armed => 3 | .running => 4 | .stopping => 5 | .closing => 6
def VocSt.code : VocSt → Nat
  | .idle => 0 | .playing => 1 | .fill => 2 | .ramping => 3
def FchSt.code : FchSt → Nat
  | .muted => 0 | .starting => 1 | .running => 2 | .stopping => 3 | .cleared => 4 | .failed => 5
def PchSt.code : PchSt → Nat
  | .disabled => 0 | .enabled => 1 | .ramping => 2 | .switching => 3 | .cleared => 4 | .failed => 5
def PcPhase.code : PcPhase → Nat
  | .start => 0 | .service => 1 | .train => 2 | .test => 3 | .recovery => 4 | .failed => 5
def BankSt.code : BankSt → Nat
  | .off => 0 | .hibernate => 1 | .on => 2

/-! ### Ring and system registers (Tables 4.4 to 4.15, 19.3 to 19.13) -/

def CplRing.size2 (q : CplRing) : Nat := 2 ^ q.sizeF.toNat
/-- TAIL + 1 equals HEAD, modulo the ring size (Table 4.15). -/
def CplRing.full (q : CplRing) : Bool := q.enable && !q.error && decide ((q.tail.toNat + 1) % q.size2 = q.head.toNat % q.size2)

/-- The six registers of a command ring and a completion ring by offset within the ring's 0x20 bytes. -/
def viewCr (r : CmdRing) (o : Nat) : W32 :=
  match o with
  | 0x00 => lo32 r.base | 0x04 => hi32 r.base
  | 0x08 => pack [(0, b2n r.enable), (8, r.size.toNat), (16, r.cq.toNat)]
  | 0x0C => pack [(0, r.tail.toNat)]
  | 0x10 => pack [(0, r.head.toNat), (16, b2n r.error), (17, r.errCode.toNat)]
  | _ => 0
def viewCq (q : CplRing) (o : Nat) : W32 :=
  match o with
  | 0x00 => lo32 q.base | 0x04 => hi32 q.base
  | 0x08 => pack [(0, b2n q.enable), (1, b2n q.irqEn), (8, q.size.toNat), (16, q.vector.toNat)]
  | 0x0C => pack [(0, q.head.toNat)]
  | 0x10 => pack [(0, q.tail.toNat), (16, b2n q.full), (17, b2n q.error), (24, q.missed)]
  | _ => 0

def viewFn (s : State) (f o : Nat) : W32 :=
  let w := s.fnWin f
  if o < 0x100 then
    match o with
    | 0x00 => pack [(0, f), (8, 16), (16, b2n s.sys.ready), (17, b2n s.sys.recovery)]
    | 0x08 => lo32 s.tb
    | 0x0C => w.tbHi
    | 0x18 => pack [(0, w.fireRejects), (16, w.strobeRejects)]
    | _ => 0
  else if o < 0x300 then viewCr (w.ring ((o - 0x100) / 32)) (o % 32)
  else if 0x400 ≤ o ∧ o < 0x600 then viewCq (w.cqr ((o - 0x400) / 32)) (o % 32)
  else 0

def State.ringErr (s : State) : Bool :=
  Tbl.anyEntry (fun _ r => r.error) (s.fnWin 0).rings || Tbl.anyEntry (fun _ q => q.error) (s.fnWin 0).cqs

/-- SYS_IRQ_STATUS (Table 19.7). -/
def State.irqBits (s : State) : BitVec 5 :=
  BitVec.ofNat 5 (b2n s.sys.irqFault + 2 * b2n (decide (1 ≤ s.tmp.level)) + 4 * b2n (decide (s.clk.events ≠ 0)) +
    8 * b2n s.sys.recovery + 16 * b2n s.ringErr)
/-- IRQn is driven low (R96, R476). -/
def State.irqLow (s : State) : Bool := decide (s.irqBits &&& s.sys.irqForce ≠ 0)

def viewSys (s : State) (o : Nat) : W32 :=
  match o with
  | 0x00 => pack [(0, b2n s.sys.ready), (1, b2n s.sys.recovery), (2, b2n s.sys.restarting), (3, b2n s.cal.bootOk)]
  | 0x04 => pack [(0, b2n s.sys.linkHold)]
  | 0x08 => pack [(0, s.sys.width.toNat), (4, s.sys.speed.toNat), (8, if s.sys.vfEnable then s.sys.numVfs else 0)]
  | 0x0C => pack [(0, s.sys.flrs), (16, s.sys.linkEvents)]
  | 0x10 => pack [(0, s.irqBits.toNat), (8, s.sys.irqForce.toNat)]
  | 0x14 => pack [(0, s.sys.irqShadow.toNat)]
  | 0x20 => pack [(0, 0x3251), (16, Config.hwRev.toNat)]
  | 0x24 => pack [(0, Config.vendorId.toNat)]
  | 0x28 => lo32 Config.serial
  | 0x2C => hi32 Config.serial
  | 0x30 => s.sys.mgmtVer
  | _ => 0

/-! ### Clock (Tables 3.9 to 3.19) -/

def viewClk (s : State) (o : Nat) : W32 :=
  let k := s.clk
  match o with
  | 0x00 => pack [(0, b2n k.locked), (1, b2n k.laneDco), (2, k.refSrc), (8, k.align.code), (12, k.tbState.code),
      (16, b2n k.rangeWarn), (17, b2n k.arm.isSome), (18, b2n k.slewing), (24, if k.align = .free then 0 else k.band.toNat)]
  | 0x04 => pack [(0, k.events.toNat)]
  | 0x08 => pack [(0, b2n k.enable), (1, k.bw.toNat), (3, b2n k.retHost), (4, min k.q 255), (16, k.phaseOffset.toNat)]
  | 0x0C => word k.refHz
  | 0x10 => wordI k.freqErr
  | 0x14 => wordI k.offset
  | 0x18 => pack [(0, k.phaseErr.toNat), (16, k.syncMargin.toNat)]
  | 0x1C => word k.q
  | 0x20 => lo32 s.tb
  | 0x24 => k.tbHi
  | 0x28 => pack [(0, k.locks), (16, k.losses)]
  | _ => 0

/-! ### Contexts and engines (Tables 5.8 to 5.19) -/

def heldCount {α : Type} (own : α → Option Nat) (c : Nat) (t : Tbl α) : Nat :=
  (Tbl.keysWhere (fun _ x => decide (own x = some c)) t).length

def State.onCub (s : State) (c : Ctx) : Bool :=
  match c.engine with
  | some e => decide ((s.eng e).st = 1)
  | none => false

def ctxSummary (s : State) (n : Nat) : W32 :=
  let c := s.ctx n
  pack [(0, c.st.code), (3, b2n (s.onCub c)), (4, o2n c.engine), (12, c.slot), (14, c.fn), (20, c.gen), (28, b2n c.faulted)]

def ctxClaims (s : State) (n : Nat) : W32 :=
  pack [(0, heldCount Voice.owner n s.voices), (9, heldCount Fch.owner n s.fchs), (15, heldCount Pch.owner n s.pchs),
    (20, (Tbl.keysWhere (fun _ b => decide (b.owner = n) && !b.releasing) s.banks).length),
    (28, ((List.range 4).filter (fun j => decide (((s.ctx n).jump j).st = 2))).foldl (fun a j => a + 2 ^ j) 0)]

/-- The selected view (offsets 0x8004 to 0x803C) of context n; of a FREE one zero but for MIN_LEAD (R147). -/
def viewSel (s : State) (n o : Nat) : W32 :=
  let c := s.ctx n
  if c.st = .free then (if o = 0x8014 then word 0xFFFF else 0) else
  match o with
  | 0x8004 => pack [(0, c.pc), (16, c.stack.length), (20, b2n (decide (c.waiting ≠ .none))), (21, b2n c.fetching)]
  | 0x8008 => pack [(0, c.late), (16, c.other)]
  | 0x800C => pack [(0, o2n c.lastIdx), (12, b2n c.lastIdx.isSome)]
  | 0x8010 => ctxClaims s n
  | 0x8014 => word c.minLead
  | _ => if 0x8020 ≤ o ∧ o < 0x8040 then c.ctrs.getD ((o - 0x8020) / 4) 0 else 0

def viewCtx (s : State) (o : Nat) : W32 :=
  if o < 0x1000 then ctxSummary s (o / 4)
  else if o = 0x8000 then word s.ctxSel
  else viewSel s s.ctxSel o

def State.slotUsed (s : State) (e t : Nat) : Bool :=
  Tbl.anyEntry (fun _ c => decide (c.engine = some e) && decide (c.slot = t)) s.ctxs

def viewEng (s : State) (o : Nat) : W32 :=
  if o < 0x1080 then
    let i := o / 16
    let e := s.eng i
    let host := if i < 256 then (if e.st = 1 then 1000 else i) else (if e.st = 1 then e.partner else 1000)
    match o % 16 with
    | 0 => pack [(0, e.st), (2, ((List.range 4).filter (fun t => s.slotUsed host t)).foldl (fun a t => a + 2 ^ t) 0), (8, e.partner), (16, b2n e.selftestFail)]
    | 4 => pack [(0, e.stalls), (16, sat 65535 (e.misses / 256))]
    | _ => 0
  else if o = 0xF000 then
    let m := fun (k : Nat) => ((List.range 8).filter (fun c => decide ((s.eng (256 + c)).st = k))).foldl (fun a c => a + 2 ^ c) 0
    pack [(0, m 0), (8, m 1), (16, m 2)]
  else if o = 0xF004 then word s.allocPtr else 0

/-! ### Voices (Tables 7.5 to 7.11) -/

/-- A run of fill covers sample n. -/
def Voice.filling (v : Voice) (n : Nat) : Bool :=
  match v.fillEp with
  | some e => decide (e.from_ ≤ n) && (match e.until_ with | some m => decide (n < m) | none => true)
  | none => false

def viewVoc (s : State) (o : Nat) : W32 :=
  if o < 0x1000 then
    let i := o / 16
    let v := s.voice i
    match o % 16 with
    | 0 => pack [(0, if v.st = .playing ∧ v.filling ((s.voiceMode i).rate * s.lc) = true then VocSt.fill.code else v.st.code), (2, b2n v.vrec.followEn), (3, b2n v.atLimit), (4, b2n v.owner.isSome), (5, b2n v.jumped),
        (8, o2n v.owner), (18, v.queue.length)]
    | 4 => wordI (v.fNow s.lc)
    | 8 => pack [(0, v.underruns), (16, v.poisoned)]
    | _ => word v.filled
  else if 0x8000 ≤ o ∧ o < 0x8200 then
    let c := (o - 0x8000) / 16
    let m := s.summer c
    match o % 16 with
    | 0 => pack [(0, ((List.range 8).filter (fun k => decide ((s.voice (8 * c + k)).st ≠ .idle))).foldl (fun a k => a + 2 ^ k) 0),
        (8, b2n m.satSum), (9, b2n m.satOut)]
    | 4 => pack [(0, m.sumLc), (16, m.outLc)]
    | 8 => lo32 m.first
    | _ => hi32 m.first
  else 0

/-! ### Fast and precision channels (Tables 8.9 to 8.17, 9.10 to 9.23) -/

def Fch.enabled (f : Fch) : Bool := decide (f.st = .starting) || decide (f.st = .running)

def viewFch (s : State) (o : Nat) : W32 :=
  if o < 0x800 then
    let f := s.fch (o / 64)
    match o % 64 with
    | 0x00 => pack [(0, f.st.code), (3, b2n f.enabled), (4, f.mode.code), (6, b2n f.owner.isSome), (8, f.load), (12, o2n f.owner)]
    | 0x04 => word f.rampLc
    | 0x08 => word f.centre
    | 0x0C => word f.events.toNat
    | 0x10 => pack [(0, f.ratio.toNat), (16, b2n f.ratioValid), (17, b2n f.ilimit)]
    | 0x14 => pack [(0, f.spares), (3, min f.retired 7), (6, b2n f.bgPaused), (8, f.position), (16, f.passes)]
    | 0x18 => word f.delay.toNat
    | 0x1C => pack [(0, f.starts), (16, f.hwStops)]
    | _ => 0
  else if o = 0x800 then pack [(0, b2n s.power.clrnLow), (16, s.clrCount)] else 0

/-- A code of 20 bits as the number it means in a range (Table 9.1). -/
def codeVal (range : Nat) (c : BitVec 20) : Int := if range = 1 ∨ range = 4 then c.toNat else c.toInt

/-- What one code of a range stands for, in nV or nA (Table 9.1). -/
def perCode : Nat → Rat
  | 0 => 10000000000 / 524288 | 1 => 10000000000 / 1048576 | 2 => 2500000000 / 524288
  | 3 => 20000000 / 524288 | 4 => 20000000 / 1048576 | _ => 200000 / 524288

/-- The code in force, including a ramp's present value: on the line between its ends, in steps of 8 LC (R253). Where the line
falls between two codes the spec does not say which is taken: a free choice of the two (log entry 31). -/
def Pch.forceNow (p : Pch) (lc : Nat) : BitVec 20 :=
  match p.ramp with
  | none => p.force
  | some (a, b, t0, t1) =>
    if t1 ≤ lc then b
    else
      let n : Nat := (t1 - t0) / 8
      let d := (codeVal p.range b - codeVal p.range a) * ((lc - t0) / 8 : Nat)
      let up := decide (d % n ≠ 0) && Config.rampUp d n
      BitVec.ofInt 20 (codeVal p.range a + d / n + (if up then 1 else 0))

def viewPch (s : State) (o : Nat) : W32 :=
  if o < 0x400 then
    let p := s.pch (o / 64)
    match o % 64 with
    | 0x00 => pack [(0, p.st.code), (3, b2n (decide (p.st = .enabled))), (4, p.range), (7, b2n p.strobed), (8, p.group),
        (10, b2n p.hold.isSome), (11, b2n p.senseOpen), (12, p.load), (15, b2n p.owner.isSome), (16, o2n p.owner)]
    | 0x04 => word p.div
    | 0x08 => word p.clear.toNat
    | 0x0C => word p.settleThr
    | 0x10 => word (p.forceNow s.lc).toNat
    | 0x14 => pack [(0, p.holdCode.toNat), (20, b2n p.holdFresh)]
    | 0x18 => pack [(0, p.queue.length), (17, b2n (p.done && p.queue.isEmpty))]
    | 0x1C => word p.rbForce.toNat
    | 0x20 => word p.rbSense.toNat
    | 0x24 => word p.rbCurrent.toNat
    | 0x28 => word p.events.toNat
    | 0x2C => pack [(0, p.underruns), (16, p.holds)]
    | _ => 0
  else if o < 0x440 then
    let g := (o - 0x400) / 16
    let k := s.group g
    match o % 16 with
    | 0 => pack [(0, ((List.range 16).filter (fun n => (s.pch n).strobed && decide ((s.pch n).group = g))).foldl (fun a n => a + 2 ^ n) 0),
        (16, b2n k.owner.isSome), (17, b2n k.deferred.isSome), (18, o2n k.owner)]
    | 4 => pack [(0, k.late), (12, k.merged), (22, k.ignored)]
    | 8 => word k.transfers
    | _ => 0
  else 0

/-! ### Memory and squirrel (Tables 10.4 to 10.24, 11.6 to 11.17) -/

def maskPcs (s : State) (p : Pc → Bool) : W64 := maskOf ((List.range 64).filter (fun k => p (s.pc k)))
def countPcs (s : State) (p : Pc → Bool) : Nat := ((List.range 64).filter (fun k => p (s.pc k))).length

def apart (a b : BitVec 8) : Nat := ((a.toNat : Int) - b.toNat).natAbs

/-- The largest distance of a tracked delay from its trained centre (Table 11.17). -/
def Pc.drift (p : Pc) : Nat := ((p.rd.zip p.rdMid) ++ (p.wr.zip p.wrMid)).foldl (fun m x => max m (apart x.1 x.2)) 0

/-- A context is ARMED or RUNNING: refresh is per bank (R311). -/
def State.anyArmed (s : State) : Bool := Tbl.anyEntry (fun _ c => decide (c.st = .armed) || decide (c.st = .running)) s.ctxs

def viewMem (s : State) (o : Nat) : W32 :=
  let m := s.mem
  if o < 0x100 then
    match o with
    | 0x00 => pack [(0, b2n m.trained), (1, b2n (m.refreshAb && !s.anyArmed)), (2, b2n (decide (85 < m.temp0.toNat) || decide (85 < m.temp1.toNat))),
        (3, b2n (decide (m.maint = 1))), (8, countPcs s (fun p => p.frozen.isSome)), (16, countPcs s (fun p => decide (p.phase = .failed)))]
    | 0x08 => lo32 (maskPcs s (fun p => p.frozen.isSome))
    | 0x0C => hi32 (maskPcs s (fun p => p.frozen.isSome))
    | 0x10 => lo32 (maskPcs s (fun p => decide (p.phase = .failed)))
    | 0x14 => hi32 (maskPcs s (fun p => decide (p.phase = .failed)))
    | 0x18 => pack [(0, b2n (decide (m.maint = 1))), (1, b2n m.scope), (2, m.maint), (16, m.windowMs)]
    | 0x20 => pack [(0, m.passes), (16, m.scrubUnit / 2 ^ 11)]
    | 0x24 => pack [(0, m.temp0.toNat), (8, m.temp1.toNat)]
    | 0x28 => pack [(0, m.repairs), (16, m.poisonedCount)]
    | _ => 0
  else if o < 0x900 then
    let p := s.pc ((o - 0x100) / 32)
    match o % 32 with
    | 0x00 => pack [(0, p.phase.code), (3, b2n p.frozen.isSome), (4, b2n p.retrainAdvised), (5, b2n p.capture.isSome),
        (6, b2n (!p.throttles.isEmpty)), (8, p.freezes)]
    | 0x04 => pack [(0, p.corrected), (16, p.ondie)]
    | 0x08 => pack [(0, p.retired), (11, p.spares), (22, p.uncorrectable)]
    | 0x0C => pack [(0, p.neighbour), (16, p.throttleCount)]
    | 0x10 => pack [(0, p.margins.foldl min 255), (8, p.drift), (16, p.retrains)]
    | _ => 0
  else 0

def tagCount (s : State) (p : Nat → Tag → Bool) : Nat := (Tbl.keysWhere p s.sql.tags).length

/-- A sum of ratios, as a ratio. -/
def sumRat (l : List (Nat × Nat)) : Nat × Nat := l.foldl (fun a x => (a.1 * x.2 + x.1 * a.2, a.2 * x.2)) (0, 1)
/-- Bytes per LC as MB/s, rounded up (R299). -/
def mbps (r : Nat × Nat) : Nat := ceilDiv (1600 * r.1) r.2

/-- The charges committed: of every context whose program is armed or running (R299, R302). -/
def State.commits (s : State) : List Charge := (Tbl.keysWhere (fun _ c => c.committed) s.ctxs).flatMap (fun c => (s.ctx c).charges)
def State.committedRate (s : State) : Nat := mbps (sumRat (s.commits.map (fun c => (c.num, c.den))))
def State.committedLanding (s : State) : Nat := (Tbl.keysWhere (fun _ c => c.committed) s.ctxs).foldl (fun a c => a + (s.ctx c).landing) 0

/-- The longest run of consecutive free extents (Table 10.14). -/
def State.largestRun (s : State) : Nat :=
  let l := s.takenExtents
  let starts := (0 :: l.map (fun e => e.1 + e.2)).filter (fun k => freeRun l k 1)
  starts.foldl (fun b k => max b ((l.filter (fun e => decide (k ≤ e.1))).foldl (fun m e => min m e.1) 2088960 - k)) 0

def sumExt (l : List (Nat × Nat)) : Nat := l.foldl (fun a e => a + e.2) 0

/-- MB/s landed over the last 1 ms, in units of 256 bytes. -/
def State.landedRate (s : State) : Nat := (s.sql.landings.filter (fun l => decide (s.lc < l + 1600000))).length * 256 / 1000

/-- Writes of a port that wait in the write queues. -/
def State.queuedWrites (s : State) (port : Nat) : Nat :=
  s.mem.pcs.foldl (fun n e => n + (e.2.wq.filter (fun x => decide (x.port = port))).length) 0

def viewSql (s : State) (o : Nat) : W32 :=
  let s := s.swept
  let q := s.sql
  let gen := tagCount s (fun t _ => decide (2048 ≤ t))
  let rsv := tagCount s (fun t _ => decide (t < 2048))
  if o < 0x100 then
    match o with
    | 0x00 => pack [(0, 63488 - gen), (16, 2048 - rsv), (28, b2n (decide (gen = 63488)))]
    | 0x04 => pack [(0, tagCount s (fun _ t => decide (t.port = 2))), (16, tagCount s (fun _ t => decide (t.port = 3) || decide (t.port = 4)))]
    | 0x08 => pack [(0, tagCount s (fun _ t => decide (t.port < 2)))]
    | 0x0C => pack [(0, tagCount s (fun _ t => t.abandoned && !t.landed))]
    | 0x10 => word q.minLead
    | 0x14 => word s.landedRate
    | 0x18 => pack [(0, s.committedRate % 2 ^ 24), (24, b2n (decide (1250000 < s.committedRate) || decide (62464 < s.committedLanding))), (25, q.lastCause)]
    | 0x1C => word (s.committedLanding % 2 ^ 17)
    | 0x20 => pack [(0, q.arms), (16, (Tbl.keysWhere (fun _ c => c.committed && c.forced) s.ctxs).length)]
    | 0x24 => word (2088960 - sumExt s.takenExtents)
    | 0x28 => word s.largestRun
    | 0x2C => word (sumExt q.quarantine)
    | 0x30 => pack [(0, sat 65535 (q.streamWaits / 256)), (16, q.urgentWaits)]
    | 0x34 => pack [(0, q.overdue), (16, q.timeouts)]
    | 0x38 => pack [(0, sat 1023 (q.bgToBulk / 256)), (10, sat 1023 (q.bulkToStream / 256)), (20, sat 1023 (q.streamToUrgent / 256))]
    | 0x3C => word q.urgMax
    | _ => 0
  else if o < 0x170 then
    let p := (o - 0x100) / 16
    match o % 16 with
    | 0 => word (tagCount s (fun _ t => decide (t.port = p) && !t.landed) + s.queuedWrites p)
    | 4 => word (Tbl.get 0 q.portLat p)
    | _ => 0
  else if 0x1000 ≤ o ∧ o < 0x2000 then
    let v := (o - 0x1000) / 16
    match o % 16 with
    | 0 => word (mbps (sumRat ((s.commits.filter (fun c => decide (c.voice = v))).map (fun c => (c.num, c.den)))))
    | 4 => pack [(0, tagCount s (fun _ t => decide (t.voice = some v))), (16, b2n (s.voice v).catchup)]
    | 8 => word (sat (2 ^ 17 - 1) (s.voiceLead v))
    | _ => 0
  else 0

/-! ### Banks (Tables 12.6 to 12.12) -/

def transCode (b : Bank) : Nat :=
  match b.trans with
  | none => 0 | some (.on, _) => 1 | some (.hibernate, _) => 2 | some (.off, _) => 3

/-- Voices charged on a bank by committed programs and by armed slot copies (R353), once each. -/
def State.bankVoices (s : State) (b : Nat) : List Nat :=
  let prg := (s.commits.filter (fun c => c.banks.contains b)).map (fun c => c.voice)
  let jmp := (Tbl.keysWhere (fun _ c => decide (c.st ≠ .free)) s.ctxs).flatMap (fun c =>
    (Tbl.keysWhere (fun _ j => decide (j.st = 2) && decide ((j.copy.map (fun x => x.1)) = some b)) (s.ctx c).jumps).map
      (fun j => sfVoice (Tbl.get [] (s.ctx c).steps ((s.ctx c).jump j).entry)))
  (prg ++ jmp).foldl (fun l v => insertNat v l) []
where
  /-- VOICE of a PLAY step. -/
  sfVoice (w : List W32) : Nat := bits (w.getD 0 0) 8 8

def State.bankLoad (s : State) (b : Nat) : Nat := (s.bankVoices b).foldl (fun a v => a + (s.voiceMode v).halfBytes) 0

/-- Rates of the voices that read a bank of sett k from outside their home sett. -/
def State.spineLoad (s : State) (k : Nat) : Nat :=
  (List.range 8).foldl (fun a i =>
    ((s.bankVoices (8 * k + i)).filter (fun v => decide (v / 8 / 2 ≠ k))).foldl (fun a v => a + (s.voiceMode v).halfBytes) a) 0

/-- A program armed past the budget is committed. -/
def State.anyForced (s : State) : Bool := Tbl.anyEntry (fun _ c => c.committed && c.forced) s.ctxs

/-- The bank, or its sett's spine, stands above its limit under such a program (R354). -/
def State.bnkOver (s : State) (b : Nat) : Bool := s.anyForced && (decide (128 < s.bankLoad b) || decide (256 < s.spineLoad (b / 8)))

def viewBnk (s : State) (o : Nat) : W32 :=
  if o < 0x800 then
    let b := o / 16
    let k := s.bank b
    match o % 16 with
    | 0 => pack [(0, k.st.code), (2, transCode k), (4, b2n k.waiting.isSome), (5, b2n k.handover.isSome), (6, b2n (decide (b % 8 = 7))),
        (8, k.owner), (20, k.freeKib)]
    | 4 => word ((k.handover.map (fun h => h.1)).getD k.owner)
    | 8 => pack [(0, s.bankLoad b), (16, (s.bankVoices b).length)]
    | _ => pack [(0, k.wakes), (16, k.handovers)]
  else if o = 0x1000 then
    let n := fun (p : Bank → Bool) => ((List.range 128).filter (fun b => p (s.bank b))).length
    pack [(0, n (fun k => decide (k.st = .on))), (8, n (fun k => decide (k.owner = 0x7FF))), (16, s.bnk.notOnFaults), (24, s.bnk.rejects)]
  else if o = 0x1004 then
    let isOver := (List.range 128).any (fun b => s.bnkOver b)
    pack [(0, o2n s.bnk.checkBank), (7, b2n s.bnk.checkBank.isSome), (8, o2n s.bnk.checkSett), (12, b2n s.bnk.checkSett.isSome), (13, b2n isOver)]
  else if 0x1100 ≤ o ∧ o < 0x1140 then word (s.spineLoad ((o - 0x1100) / 4)) else 0

/-! ### Events (Tables 13.5 to 13.16) -/

def EvCh.fanout (e : EvCh) : Nat := e.cons.length + e.cells.length + e.tmus.length

def evtCons (s : State) (n : Nat) : W32 :=
  let c := s.con n
  pack [(0, b2n c.pending.isSome), (1, b2n c.overrun), (2, b2n c.channel.isSome), (3, b2n c.owner.isSome), (4, o2n c.channel), (12, o2n c.owner)]
def evtConsCount (s : State) (n : Nat) : W32 := pack [(0, (s.con n).overruns), (16, (s.con n).discards)]
def evtJmp (s : State) (x : Nat) : W32 :=
  pack ((List.range 4).flatMap (fun j => [(8 * j, ((s.ctx x).jump j).overruns), (8 * j + 7, b2n ((s.ctx x).jump j).overrun)]))

def viewEvt (s : State) (o : Nat) : W32 :=
  if o < 0x1000 then
    let e := s.ev (o / 16)
    match o % 16 with
    | 0 => pack [(0, e.source.toNat), (16, b2n e.direct)]
    | 4 => pack [(0, o2n e.owner), (10, b2n e.owner.isSome), (11, e.fanout)]
    | 8 => pack [(0, e.events), (24, e.coalesced)]
    | _ => 0
  else if o < 0x3000 then (if o % 8 = 0 then evtCons s ((o - 0x1000) / 8) else if o % 8 = 4 then evtConsCount s ((o - 0x1000) / 8) else 0)
  else if o < 0x4000 then evtJmp s ((o - 0x3000) / 4)
  else if o < 0x4080 then
    let e := s.eo ((o - 0x4000) / 8)
    if o % 8 = 0 then pack [(0, b2n e.high), (1, b2n e.overrun), (2, b2n e.channel.isSome), (3, b2n e.owner.isSome), (4, o2n e.channel), (12, o2n e.owner)]
    else if o % 8 = 4 then pack [(0, e.pulses), (24, e.overruns)] else 0
  else if 0x4100 ≤ o ∧ o < 0x4300 then
    let c := (s.cell ((o - 0x4100) / 16)).upTo s.lc
    match o % 16 with
    | 0 => pack [(0, c.truth.toNat), (16, b2n c.ff), (17, b2n c.q), (18, b2n c.level), (19, b2n c.owner.isSome), (20, o2n c.owner)]
    | 4 => pack [(0, c.ins.getD 0 0), (8, c.ins.getD 1 0), (16, c.ins.getD 2 0), (24, c.ins.getD 3 0)]
    | 8 => pack [(0, c.minw), (8, c.used.toNat)]
    | _ => pack [(0, c.fires), (24, c.filtered)]
  else 0

/-! ### TMU (Tables 14.8 to 14.22) -/

def viewTmu (s : State) (o : Nat) : W32 :=
  if o < 0x400 then
    let k := s.slot (o / 64)
    match o % 64 with
    | 0x00 => pack [(0, k.st), (2, k.func), (5, k.dest), (7, b2n k.owner.isSome), (8, o2n k.owner), (18, b2n k.lastTimeout)]
    | 0x04 => pack [(0, k.start), (8, k.stop), (16, k.target)]
    | 0x08 => word k.n
    | 0x0C => word k.count
    | 0x10 => lo32 k.mean | 0x14 => hi32 k.mean
    | 0x18 => lo32 k.sd | 0x1C => hi32 k.sd
    | 0x20 => lo32 k.mn | 0x24 => hi32 k.mn
    | 0x28 => lo32 k.mx | 0x2C => hi32 k.mx
    | 0x30 => lo32 k.time | 0x34 => hi32 k.time
    | 0x38 => word (if k.st = 0 then 0 else k.soFar s.tbOff (65536 * s.lc))
    | 0x3C => pack [(0, k.timeouts), (16, k.discards), (24, k.range)]
    | _ => 0
  else if o < 0x500 then
    let i := s.input ((o - 0x400) / 16)
    match o % 16 with
    | 0 => pack [(0, b2n i.legacy), (1, b2n i.slope), (8, i.hyst), (16, i.holdoff)]
    | 4 => pack [(0, i.thresh.toNat), (16, b2n i.level), (17, b2n i.settling)]
    | 8 => word i.edges
    | _ => pack [(0, i.dead), (16, i.heldOff)]
  else 0

/-! ### Monitoring, correction, calibration (Tables 15.7 to 15.25) -/

/-- A SELF or TRACE runs (R409); the power-up SELF starts once the images are loaded. -/
def State.selfRuns (s : State) : Bool :=
  match s.cal.batch with
  | some b => decide (b.kind ≠ 3) && (!b.boot || decide (2 ≤ s.fw.boot))
  | none => false

def viewMon (s : State) (o : Nat) : W32 :=
  if o = 0 then
    pack [(0, s.mon.frames % 65536), (16, b2n s.selfRuns),
      (17, b2n s.mon.samplerRun), (18, s.mon.samplerCh)]
  else if 0x100 ≤ o ∧ o < 0x160 then
    let i := Tbl.get (0, 0) s.mon.items ((o - 0x100) / 4)
    pack [(0, i.1.toNat), (24, sat 255 i.2)]
  else if 0x200 ≤ o ∧ o < 0x280 then
    let i := Tbl.get (0, 0) s.mon.smp ((o - 0x200) / 4)
    pack [(0, i.1), (16, i.2)]
  else 0

def viewAoc (s : State) (o : Nat) : W32 :=
  if o < 0x200 then
    let a := s.aoc (o / 16)
    match o % 16 with
    | 0 => pack [(0, b2n a.freeze), (1, b2n a.inForce.trained), (2, a.pending), (4, a.wait)]
    | 4 => pack [(0, a.residual.toNat), (16, a.change.toNat)]
    | 8 => pack [(0, a.updates), (16, a.auto), (24, a.host)]
    | _ => 0
  else if 0x400 ≤ o ∧ o < 0x500 then
    let a := s.aoc ((o - 0x400) / 8)
    if o % 8 = 0 then lo32 a.last else if o % 8 = 4 then hi32 a.last else 0
  else 0

/-- The trim in force at a CAL_ offset: the factory's until a batch sets another (R423). -/
def State.trim (s : State) (o : Nat) : W32 := (Tbl.get none s.cal.trims o).getD (Config.factoryTrim o)

/-- CAL_WALL advances each microsecond, 1,600 LC (R420). -/
def State.wallNow (s : State) : W64 := s.cal.wall + BitVec.ofNat 64 ((s.lc - s.cal.wallAt) / 1600)

def viewCal (s : State) (o : Nat) : W32 :=
  let c := s.cal
  if o < 0x100 then
    match o with
    | 0x00 => pack [(0, b2n c.batch.isSome), (1, (c.batch.map (fun b => b.kind)).getD 0), (3, b2n c.bgRun), (4, b2n c.bootOk)]
    | 0x08 => lo32 s.wallNow | 0x0C => hi32 s.wallNow
    | 0x10 => c.scalePpb | 0x14 => c.oscPpb | 0x18 => c.declared
    | _ => 0
  else if o < 0x180 then
    let r := s.rec_ ((o - 0x100) / 32)
    match o % 32 with
    | 0x00 => word r.count
    | 0x08 => lo32 r.time | 0x0C => hi32 r.time
    | 0x10 => lo32 r.wall | 0x14 => hi32 r.wall
    | 0x18 => pack [(0, r.status.toNat), (8, r.result.toNat)]
    | _ => 0
  else if 0x200 ≤ o ∧ o < 0x300 then word (Tbl.get 0 c.mkskew ((o - 0x200) / 4)).toNat
  else if 0x1000 ≤ o ∧ o < 0x2B00 then
    pack [(0, (s.trim o).toNat % 65536), (16, b2n (Tbl.get none c.shadow ((o - 0x1000) / 4)).isSome)]
  else if (0x3000 ≤ o ∧ o < 0x3100) ∨ (0x3200 ≤ o ∧ o < 0x3380) then s.trim o
  else 0

/-! ### Firmware, log, temperature (Tables 17.13 to 17.20, 16.11 to 16.19) -/

/-- The set FW_STAGE writes: the other of A and B, or the one PREFERRED does not name (R450). -/
def Fw.inactive (f : Fw) : Nat := if f.running < 2 then 1 - f.running else 1 - f.preferred

/-- Word k of the image in a slot. -/
def imgWord (i : Img) (idx k : Nat) : W32 :=
  if !i.complete then 0 else if i.preset then Config.mramWord idx k else (wordsOf ((i.data.drop (4 * k)).take 4)).headD 0

def stagedMask (s : State) : Nat :=
  ((List.range 8).filter (fun t => (s.img s.fw.inactive t).staged)).foldl (fun a t => a + 2 ^ t) 0

def viewFw (s : State) (o : Nat) : W32 :=
  let f := s.fw
  if o < 0x100 then
    match o with
    | 0x00 => pack [(0, f.running), (2, f.preferred), (3, f.sched), (5, f.cause), (8, stagedMask s), (16, f.floor)]
    | 0x08 => lo32 f.actTime | 0x0C => hi32 f.actTime
    | 0x10 => pack [(0, f.lastStatus.toNat), (8, f.lastResult.toNat)]
    | 0x14 => pack [(0, f.restarts), (16, f.rejects)]
    | _ => 0
  else if o < 0x200 then
    let k := (o - 0x100) / 16
    let i := s.img (k / 8) (k % 8)
    match o % 16 with
    | 0 => imgWord i k 2
    | 4 => pack [(0, bits (imgWord i k 3) 0 7), (7, b2n i.staged), (8, bits (imgWord i k 3) 8 8), (16, bits (imgWord i k 3) 16 8), (24, i.check.toNat)]
    | 8 => if i.complete then (if i.preset then imgWord i k 4 + 512 else word i.len) else 0
    | _ => 0
  else if o < 0x220 then Config.safeVer ((o - 0x200) / 4) else 0

/-- The words of a fault record (Table 16.5). -/
def recWords (r : FaultRec) : List W32 :=
  [pack [(0, r.code.toNat), (12, r.rung), (16, r.ctx), (26, b2n r.noCtx), (27, b2n r.acked), (28, b2n r.previous)],
   pack [(0, r.fn), (8, r.gen), (16, r.unit)], lo32 r.time, hi32 r.time, r.seq, 0, lo32 r.raised, hi32 r.raised] ++ r.detail

def viewLog (s : State) (o : Nat) : W32 :=
  match o with
  | 0x0 => pack [(0, s.log.next), (12, b2n s.log.wrapped), (13, s.log.hold.length)]
  | 0x4 => s.log.seq
  | 0x8 => word s.log.dropped
  | _ => if 0x100 ≤ o ∧ o < 0x140 then word (Tbl.get 0 s.log.groups ((o - 0x100) / 4))
         else if 0x140 ≤ o ∧ o < 0x158 then word (Tbl.get 0 s.log.rungs ((o - 0x140) / 4)) else 0

/-- The sensor, 0 to 8, with the highest reading; the lowest-numbered of equals. -/
def State.hottest (s : State) : Nat :=
  (List.range 9).foldl (fun b k => if (s.sensor b).reading.toInt < (s.sensor k).reading.toInt then k else b) 0

def viewTmp (s : State) (o : Nat) : W32 :=
  if o = 0 then pack [(0, s.tmp.level), (2, s.hottest), (16, (s.sensor s.hottest).reading.toNat)]
  else if o = 4 then word s.tmp.events.toNat
  else if 0x100 ≤ o ∧ o < 0x1A0 then
    let k := (o - 0x100) / 16
    let x := s.sensor k
    match o % 16 with
    | 0 => pack [(0, x.reading.toNat), (16, x.level), (18, b2n x.dwell)]
    | 4 => pack [(0, x.max.toNat), (16, x.transitions)]
    | _ => 0
  else 0

/-- The recovery window (Tables 17.8 to 17.10). -/
def viewRcv (s : State) (o : Nat) : W32 :=
  match o with
  | 0x00 => pack [(0, s.fw.rcvImage), (9, b2n s.fw.rcvFinal)]
  | 0x08 => word s.fw.rcvOffset
  | 0x0C => word s.fw.rcvLen
  | 0x10 => pack [(8, s.fw.rcvStatus.toNat), (16, s.fw.rcvWrites)]
  | _ => 0

/-! ### BAR0 -/

/-- The windows served in recovery mode (R479). -/
def servedInRecovery (w : Nat) : Bool := [0, 1, 15, 16, 17].contains w

/-- The 32-bit register word at an aligned offset of function PF0's BAR0 (Tables 4.2, 19.1, 19.2); reserved offsets read 0. -/
def viewBar (s : State) (a : Nat) : W32 :=
  if a < 0x120000 then
    let w := a / 65536
    let o := a % 65536
    if s.sys.recovery && !servedInRecovery w then 0 else
    match w with
    | 0 => viewSys s o | 1 => viewClk s o | 2 => viewCtx s o | 3 => viewEng s o | 4 => viewVoc s o | 5 => viewFch s o
    | 6 => viewPch s o | 7 => viewMem s o | 8 => viewSql s o | 9 => viewBnk s o | 10 => viewEvt s o | 11 => viewTmu s o
    | 12 => viewMon s o | 13 => viewCal s o | 14 => viewAoc s o | 15 => viewFw s o | 16 => viewLog s o | _ => viewTmp s o
  else if 0x200000 ≤ a ∧ a < 0x210000 then viewFn s 0 (a - 0x200000)
  else if 0x300000 ≤ a ∧ s.sys.recovery then viewRcv s (a - 0x300000) else 0

/-! ### J4 (R37, R38) -/

/-- What pair k of J4 drives: nothing, at high impedance, while the module is unpowered; else the level of its marker, 0 to 63, while
its channel converts, or of its event output, 64 to 79. -/
def State.j4Pair (s : State) (k : Nat) : Option Bool :=
  if s.power.phase = .off then none
  else if k < 64 then some ((s.fch (k / 2)).converts && (s.marker k).level)
  else some (s.eo (k - 64)).high

/-- Consecutive register words from an offset of a window, as bytes. -/
def viewBytes (v : Nat → W32) (o words : Nat) : List Byte := (List.range words).flatMap (fun k => bytesOf (v (o + 4 * k)))

end Sys2Proof.Machine
end

