-- ==== Sys2Proof/Machine/Operands.lean ====
section
/-! DEFINITION. The operand forms: the words of a packet and the fields of a step, which bits each may carry (R9, R105,
R106), and the checks of R491 that every packet passes, in that order. -/
namespace Sys2Proof.Machine

/-! ### Packet words -/

/-- Word i of the packet (i ≥ 4); a word beyond the payload reads 0. -/
def pw (p : Pkt) (i : Nat) : W32 := p.payload.getD (i - 4) 0
def pf (p : Pkt) (i lo n : Nat) : Nat := bits (pw p i) lo n
def pb (p : Pkt) (i k : Nat) : Bool := bit (pw p i) k
def pq (p : Pkt) (i : Nat) : W64 := w64 (pw p i) (pw p (i + 1))

/-- LENGTH of the catalogue (R105). -/
def catLen (op : Op) (p : Pkt) : Nat :=
  match op with
  | .nop | .ctxClose | .ctxReset | .prgStart | .fwSchedule | .fwCancel => 4
  | .segWrite | .segRead | .vocConfig | .clkSync | .tmuRun => 12
  | .pchLoad => 24
  | .scnDefine => 4 * ceilDiv (5 + pf p 4 0 10) 4
  | _ => 8

/-- The bits each payload word may carry, from w4; words not listed are reserved. -/
def masks (op : Op) (p : Pkt) : List Nat :=
  let all := 0xFFFFFFFF
  match op with
  | .nop | .ctxClose | .ctxReset | .prgStart | .fwSchedule | .fwCancel | .unknown _ => []
  | .ping => [all]
  | .getInfo => [0xF, all, all, all]
  | .timeSet => [all, all]
  | .schedCancel => [0xFFFFF]
  | .ctxOpen => [0x103FF]
  | .ctxBind => [0x10F]
  | .ctxClaim | .ctxRelease => [0xFFFF000F]
  | .ctxStatus | .calSave | .fwStatus | .calRestore => [0, all, all, all]
  | .segAlloc => [all, 0x7F33]
  | .segWrite | .segRead => [0xFFFFFF, all, all, 0, all, all]
  | .segFree => [0xFFFFFF]
  | .segPin => [0xFFFFFF, 0x1FF]
  | .segMirror => [0xFFFFFF, 1]
  | .prgLoad => [0xFFFF, all, all, all]
  | .prgCheck => [0xFFFF]
  | .prgArm => [0x3FFFF]
  | .prgStop => [1]
  | .jmpArm => [0x103, 0xFFFFFF, 0xFFFF]
  | .ctrSet => [7, all]
  | .scnDefine => 0x3FF :: List.replicate (pf p 4 0 10) 0xFF03FF
  | .scnStartAt | .scnAbort | .scnDelete => [0xFF]
  | .fchConfig => [0x11F, 0x7FF]
  | .fchMode => [0x31F, all]
  | .pchConfig => [0x1D7F, 0xFFFFF, 0xFFFFF, 0xFFFFFF]
  | .pchLoad => 0xFFFF :: (List.range 16).map (fun n => if pb p 4 n then 0xFFFFF else 0)
  | .pchStrobe => [0xF, all, all]
  | .pchQueue => [0xF, all, all, all]
  | .vocConfig => [0xFF, 0x37F33, all, all, 0x3FFFFF, 0x1FFF, all, all]
  | .clkConfig => [0xFFFF000F, all]
  | .clkStep => [all]
  | .clkSync => [3, all, all, all, all]
  | .tmuConfig => [0x30F, 0xFF, 0xFFFF, 0xFFFF]
  | .tmuRun => [0x370F, 0xFFFFFF, 0x1FFFFFF, 0, all, all]
  | .tmuRead => [0xF, all, all, all]
  | .calRun => [0x103, all]
  | .aocCtrl => [0x31F]
  | .evtRoute => [0x1FF, 0xFFFF, 0x8000FFFF]
  | .evtLut => [0x11F, 0xFFFF, all, 0xFF]
  | .evtFire => [0xFF, all, all]
  | .bnkPower => [0x137F]
  | .bnkHandover => [0x7F, 0xFFF]
  | .fwStage => [0xF, all, all, all]
  | .logRead => [0xFFF, 0x1FFF, all, all]
  | .faultAck => [0xFFF]
  | .memDiag => [0x33F, all, all, all]

/-- No payload word carries a bit outside its mask. -/
def maskedOk : List W32 → List Nat → Bool
  | [], _ => true
  | w :: ws, [] => decide (w = 0) && maskedOk ws []
  | w :: ws, m :: ms => decide (w &&& ~~~ (word m) = 0) && maskedOk ws ms

/-- Source codes of Table 14.2 that name no source. -/
def badSource (k : Nat) : Bool := decide (0x60 ≤ k) && decide (k ≤ 0xBF) || decide (k = 0xFF)

/-- Reserved codes in fields otherwise in use (R9). -/
def codesOk (op : Op) (p : Pkt) : Bool :=
  match op with
  | .segAlloc => decide (pf p 5 0 2 ≠ 3)
  | .vocConfig => decide (pf p 5 0 2 < 2)
  | .clkConfig => decide (pf p 4 1 2 ≠ 3)
  | .bnkPower => decide (pf p 4 8 2 ≠ 3)
  | .fwStage => decide (pf p 4 0 4 < 8)
  | .ctxClaim | .ctxRelease => decide (pf p 4 0 4 < 9)
  | .tmuRun => !badSource (pf p 5 0 8) && !badSource (pf p 5 8 8)
  | _ => true

/-- Host addresses (R106): reply buffers 16 bytes, data buffers 32. -/
def alignedOk (op : Op) (p : Pkt) : Bool :=
  match op with
  | .getInfo | .ctxStatus | .tmuRead | .calSave | .fwStatus | .logRead | .memDiag => decide ((pw p 6).toNat % 16 = 0)
  | .segWrite | .segRead => decide ((pw p 8).toNat % 32 = 0)
  | .prgLoad | .pchQueue | .calRestore | .fwStage => decide ((pw p 6).toNat % 32 = 0)
  | _ => true

/-- Opcodes marked T, and P, in the catalogue. -/
def mayBeTimed : Op → Bool
  | .timeSet | .prgStart | .prgStop | .ctrSet | .scnStartAt | .scnAbort | .fchConfig | .pchConfig | .pchLoad | .pchStrobe
  | .vocConfig | .clkStep | .tmuRun | .aocCtrl | .evtFire | .bnkPower | .fwSchedule => true
  | _ => false
def mustBeTimed : Op → Bool
  | .scnStartAt | .fwSchedule => true
  | _ => false
def pf0Only : Op → Bool
  | .timeSet | .clkConfig | .clkStep | .clkSync | .calRun | .calRestore | .fwStage | .fwSchedule | .fwStatus | .fwCancel
  | .memDiag => true
  | _ => false

/-- PERIOD of the packets that carry one (R114). -/
def periodic : Op → Bool
  | .pchStrobe | .evtFire => true
  | _ => false
def periodOf (op : Op) (p : Pkt) : Nat := if periodic op then (pw p 5).toNat else 0
def repeatOf (op : Op) (p : Pkt) : Nat := if periodic op then (pw p 6).toNat else 1

/-- LATE values that the opcode and its PERIOD allow (R111, R112). -/
def lateOk (op : Op) (p : Pkt) : Bool :=
  decide (p.late ≠ 3) && (decide (p.late ≠ 2) || (periodic op && decide (periodOf op p ≠ 0))) &&
  (decide (op ≠ .fwSchedule) || decide (p.late = 0))

/-- The timing rules of R110 at the count `now` of acceptance. -/
def timingOk (op : Op) (p : Pkt) (now : W64) : Bool :=
  if p.act = 0 then !mustBeTimed op
  else mayBeTimed op && decide (p.act.toNat ≤ now.toNat + 2 ^ 44)

/-- An opcode of the catalogue. -/
def known : Op → Bool
  | .unknown _ => false
  | _ => true

/-- Step 1 of R491: the form. DESIGN CHOICE, log entry 71: the CONTEXT field of an opcode that names no context, which Table 4.16 has as 0,
is not looked at. -/
def formCheck (op : Op) (p : Pkt) (now : W64) : Option (Status × Nat) :=
  if !known op then some (.badOpcode, 0)
  else if p.length.toNat = catLen op p && decide (p.tag ≠ 0xFFFF) && decide (p.resv = 0) &&
      (!p.force || decide (op = .prgArm)) && maskedOk p.payload (masks op p) && codesOk op p && alignedOk op p &&
      lateOk op p && timingOk op p now
  then none else some (.badParam, 0)

/-- Step 2 of R491: the state of the device (R119). -/
def deviceCheck (op : Op) (s : State) : Option (Status × Nat) :=
  let early := decide (op = .nop) || decide (op = .ping) || decide (op = .getInfo) || decide (op = .logRead) || decide (op = .fwStatus)
  if s.sys.recovery && !(early || decide (op = .fwStage)) then some (.unsupportedInRecovery, 0)
  else if !s.sys.ready && !early then some (.busy, 0) else none

/-- Opcodes that act on the packet's CONTEXT. -/
def usesCtx : Op → Bool
  | .ctxClose | .ctxReset | .ctxBind | .ctxClaim | .ctxRelease | .ctxStatus | .segAlloc | .segWrite | .segFree | .segPin
  | .segRead | .segMirror | .prgLoad | .prgCheck | .prgArm | .prgStart | .prgStop | .jmpArm | .ctrSet | .fchConfig | .fchMode
  | .pchConfig | .pchLoad | .pchStrobe | .pchQueue | .vocConfig | .tmuRun | .tmuRead | .aocCtrl | .evtRoute | .evtLut
  | .evtFire => true
  | _ => false

/-! ### What a packet names (R92, R115) -/

/-- The holder of an instance of a kind of CTX_CLAIM (Table 4.19). -/
def State.holder (s : State) (kind i : Nat) : Option Nat :=
  match kind with
  | 0 => (s.fch i).owner | 1 => (s.voice i).owner | 2 => (s.pch i).owner | 3 => (s.ev i).owner
  | 4 => if i < 0x400 then (s.con i).owner else (s.eo (i - 0x400)).owner
  | 5 => (s.cell i).owner | 6 => if (s.bank i).owner < 1024 then some (s.bank i).owner else none
  | 7 => (s.group i).owner | _ => (s.slot i).owner

/-- What a packet acts on: (0, context), (1, segment slot), (2 + k, instance) for a unit of CTX_CLAIM's KIND k (Table 4.19),
(11, input), (12, scene), (13, clock), (14, image), (15, pc). -/
def namesOwn (op : Op) (p : Pkt) (s : State) : List (Nat × Nat) :=
  let c := if usesCtx op then [(0, p.ctx.val)] else []
  let sg := fun (w : Nat) => [(1, pf p w 0 16), (0, (s.seg (pf p w 0 16)).ctx)]
  match op with
  | .ctxOpen => if pb p 4 16 then [] else [(0, pf p 4 0 10)]
  | .ctxClaim | .ctxRelease => c ++ [(2 + pf p 4 0 4, pf p 4 16 16)]
  | .segAlloc => if pb p 5 4 then c ++ [(8, pf p 5 8 7)] else c
  | .segPin => if pb p 5 7 || pb p 5 8 then c ++ sg 4 else c ++ sg 4 ++ [(8, pf p 5 0 7)]
  | .segWrite | .segRead | .segFree | .segMirror => c ++ sg 4
  | .jmpArm => c ++ sg 5
  | .scnDefine => (List.range (pf p 4 0 10)).map (fun i => (0, pf p (5 + i) 0 10))
  | .fchConfig | .fchMode | .aocCtrl => c ++ [(2, pf p 4 0 5)]
  | .vocConfig => c ++ [(3, pf p 4 0 8)]
  | .pchConfig => c ++ [(4, pf p 4 0 4)] ++ (if pb p 4 8 then [(9, pf p 4 10 2)] else [])
  | .pchLoad => c ++ ((List.range 16).filter (fun n => pb p 4 n)).map (fun n => (4, n))
  | .pchQueue => c ++ [(4, pf p 4 0 4)]
  | .evtRoute => c ++ [(5, pf p 4 0 8), (6, pf p 6 0 16)]
  | .evtFire => c ++ [(5, pf p 4 0 8)]
  | .evtLut => c ++ [(7, pf p 4 0 5)]
  | .bnkPower | .bnkHandover => [(0, p.ctx.val), (8, pf p 4 0 7)]
  | .pchStrobe => c ++ ((List.range 4).filter (fun g => pb p 4 g)).map (fun g => (9, g))
  | .tmuRun | .tmuRead => c ++ [(10, pf p 4 0 4)]
  | .tmuConfig => [(11, pf p 4 0 4)]
  | .scnStartAt | .scnAbort | .scnDelete => [(12, pf p 4 0 8)]
  | .clkConfig | .clkStep => [(13, 0)]
  | .clkSync => if pb p 4 0 then [(13, 1)] else []
  | .fwStage => [(14, pf p 4 0 4)]
  | .memDiag => [(15, pf p 4 0 6)]
  | _ => c

/-- How many instances a kind has. -/
def kindCount (kind : Nat) : Nat :=
  match kind with
  | 0 => 32 | 1 => 256 | 2 => 16 | 3 => 256 | 4 => 1024 | 5 => 32 | 6 => 128 | 7 => 4 | _ => 16

/-- An instance number of the kind; event outputs are named as consumers 0x400 to 0x40F (Table 13.2). -/
def instOk (kind i : Nat) : Bool := decide (i < kindCount kind) || (decide (kind = 4) && decide (0x400 ≤ i) && decide (i < 0x410))

/-- What an event source names (Table 13.1): a TMU slot, a context, a marker's channel, a logic cell. -/
def sourceNames (v : Nat) : List (Nat × Nat) :=
  match v / 4096 with
  | 2 => [(10, v % 4096)] | 3 => [(0, v % 1024)] | 4 => [(2, v % 64 / 2)] | 6 => [(7, v % 4096)]
  | 7 => if v % 4096 / 1024 = 0 then [(0, v % 1024)] else []
  | _ => []

/-- What a TMU source code names (Table 14.2): an input, a marker's channel, an event channel. -/
def tmuNames (k : Nat) : List (Nat × Nat) :=
  if k < 0x20 then [(11, k % 16)] else if k < 0x60 then [(2, (k - 0x20) / 2)] else if 0xC0 ≤ k then [(5, k - 0xC0)] else []

/-- What a packet names besides what it acts on: sources, inputs, followed slots, and a bank's new owner. -/
def namesAlso (op : Op) (p : Pkt) : List (Nat × Nat) :=
  match op with
  | .evtRoute => if pb p 6 31 then [] else sourceNames (pf p 5 0 16)
  | .evtLut => ((List.range 4).filter (fun i => pf p 6 (8 * i) 8 ≠ 0)).map (fun i => (5, pf p 6 (8 * i) 8))
  | .tmuRun => tmuNames (pf p 5 0 8) ++ (if pf p 4 8 3 = 0 then tmuNames (pf p 5 8 8) else [])
  | .vocConfig => if pb p 5 4 then [(10, pf p 5 8 4)] else []
  | .bnkHandover => [(0, pf p 5 0 12)]
  | _ => []

/-- What a packet names (R92, R115). -/
def names (op : Op) (p : Pkt) (s : State) : List (Nat × Nat) := namesOwn op p s ++ namesAlso op p

/-- A segment, scene or unit that is held for another function than `f` (R92). -/
def State.foreign (s : State) (f : Nat) (e : Nat × Nat) : Bool :=
  let other := fun (c : Nat) => decide ((s.ctx c).st ≠ .free) && decide ((s.ctx c).fn ≠ f)
  if e.1 = 1 then (s.seg e.2).used && other (s.seg e.2).ctx
  else if e.1 = 12 then (s.scene e.2).used && decide ((s.scene e.2).fn ≠ f)
  else if 2 ≤ e.1 && e.1 ≤ 10 then (match s.holder (e.1 - 2) e.2 with | some c => other c | none => false)
  else false

/-- A unit of CTX_CLAIM's kinds that no context holds, or a scene that is not defined: the sending function owns it as little. -/
def State.unheld (s : State) (e : Nat × Nat) : Bool :=
  if e.1 = 12 then !(s.scene e.2).used
  else decide (2 ≤ e.1) && decide (e.1 ≤ 10) && instOk (e.1 - 2) e.2 && (s.holder (e.1 - 2) e.2).isNone

/-- The resources whose holder step 3 of R491 judges; what EVT_ROUTE names besides its channel has its place in R360's own order. -/
def resources (op : Op) (p : Pkt) (s : State) : List (Nat × Nat) :=
  if op = .evtRoute then (namesOwn op p s).filter (fun e => decide (e.1 ≠ 6)) else names op p s

/-- A member of a SCN_DEFINE belongs to another function than the sender, which is not PF0 (R93, R185). -/
def State.foreignMember (s : State) (f : Nat) (e : Nat × Nat) : Bool :=
  decide (f ≠ 0) && decide (e.1 = 0) && decide ((s.ctx e.2).st ≠ .free) && decide ((s.ctx e.2).fn ≠ f)

/-- Opcodes that name the packet's CONTEXT. -/
def namesCtx (op : Op) : Bool := usesCtx op || decide (op = .bnkPower) || decide (op = .bnkHandover)

/-- Step 3 of R491: permission (R92, R93). A FREE context belongs to no function: the opcode's own check answers (R149,
R493); CTX_STATUS of one is refused. CTX_CLAIM's instance is R493's, and SEG_PIN may name a bank that is unowned (R154). -/
def permCheck (op : Op) (p : Pkt) (s : State) : Option (Status × Nat) :=
  if pf0Only op && decide (p.fn ≠ 0) then some (.notOwner, 0)
  else if namesCtx op && decide ((s.ctx p.ctx).st ≠ .free) && decide ((s.ctx p.ctx).fn ≠ p.fn.val) then some (.notOwner, 0)
  else if decide (op = .ctxStatus) && decide ((s.ctx p.ctx).st = .free) then some (.notOwner, 0)
  else if decide (op ≠ .ctxClaim) && (resources op p s).any (fun e => s.foreign p.fn e || (decide (op ≠ .segPin) && s.unheld e)) then some (.notOwner, 0)
  else if decide (op = .scnDefine) && (resources op p s).any (s.foreignMember p.fn) then some (.notOwner, 0)
  else none

/-- The first check that fails decides. -/
def orElse (a : Option (Status × Nat)) (b : Option (Status × Nat)) : Option (Status × Nat) :=
  match a with
  | some x => some x
  | none => b

/-- Steps 1 to 3 of R491, made at acceptance. -/
def preChecks (r : Run) (s : State) : Option (Status × Nat) :=
  orElse (formCheck r.op r.p s.tb) (orElse (deviceCheck r.op s) (permCheck r.op r.p s))

/-- A check list: the first condition that holds gives its status. -/
def firstOf : List (Bool × Status × Nat) → Option (Status × Nat)
  | [] => none
  | (c, st, res) :: t => if c then some (st, res) else firstOf t

/-! ### What each opcode does: its own checks and its effect -/

/-- `accept`: the checks its chapter makes at acceptance; `check`: the others, made when the action takes effect;
`act`: the effect; `fail`: what a refusal at the effect does besides its completion. -/
structure Meaning where
  accept : Run → State → Option (Status × Nat) := fun _ _ => none
  check : Run → State → Option (Status × Nat) := fun _ _ => none
  act : Run → State → State
  fail : Run → Status → State → State := fun _ _ s => s
  /-- What acceptance as a timed packet does besides being held. -/
  hold : Run → State → State := fun _ s => s

/-! ### Ordering (R115) -/

def meets (a b : List (Nat × Nat)) : Bool := a.any (fun x => b.contains x)

/-- The earlier packets of the ring that have neither completed nor been accepted: a packet has completed once its final completion is
written (log entry 62). A CLK_CONFIG supersedes one that waits for its lock or slew and does not wait for it (R495). -/
def earlier (r : Run) (s : State) : List (Op × Pkt) :=
  let seq := r.seq
  let here := fun (p : Pkt) => decide (p.fn = r.p.fn) && decide (p.ring = r.p.ring)
  ((s.waiting.filter (fun r => here r.p && decide (r.seq < seq))).map (fun r => (r.op, r.p))) ++
  ((s.jobs.filter (fun j => here j.run.p && !j.run.timed && decide (j.run.seq < seq) && !(decide (r.op = .clkConfig) && decide (j.run.op = .clkConfig)))).map (fun j => (j.run.op, j.run.p))) ++
  ((s.sched.filter (fun t => here t.run.p && !t.run.timed && decide (t.run.seq < seq))).map (fun t => (t.run.op, t.run.p))) ++
  ((s.held.filter (fun c => here c.p && !c.interim && c.untimed && decide (c.seq < seq))).map (fun c => (c.op, c.p)))

/-- CLK_SYNC with MODE DISARM. -/
def syncDisarm (r : Run) : Bool := decide (r.op = .clkSync) && !pb r.p 4 0

/-- A packet waits for an earlier one of its ring that names what it names; with FENCE, for every earlier one. A DISARM is never held
behind an earlier CLK_SYNC (R79). -/
def blocked (r : Run) (s : State) : Bool :=
  let es := (earlier r s).filter (fun e => !(syncDisarm r && decide (e.1 = .clkSync)))
  (r.p.fence && !es.isEmpty) || es.any (fun e => meets (names r.op r.p s) (names e.1 e.2 s))

/-! ### Running a packet -/

def State.countSched (s : State) (p : Timed → Bool) : Nat := (s.sched.filter p).length

/-- Held by the hardware scheduler (R17, R113), with the interim completion ACCEPTED. -/
def holdTimed (m : Meaning) (r : Run) (act : W64) (reps k : Nat) (s : State) : State :=
  if 4096 ≤ s.countSched (fun t => t.run.timed) ||
      1024 ≤ s.countSched (fun t => t.run.timed && decide (t.run.p.fn = r.p.fn)) then s.complete r .noResource 0
  else
    let r := { r with timed := true, skipped := k, seq := s.seq }
    let s : State := { s with seq := s.seq + 1, sched := s.sched ++ [{ run := r, act := act, period := periodOf r.op r.p, reps := reps }] }
    m.hold r (s.interim r .accepted)

/-- The repetition of a periodic packet that has taken effect was its last: it completes (R114). -/
def finishRep (r : Run) (act : W64) (period reps : Nat) (s : State) : State :=
  if reps ≤ 1 then s.complete r .ok r.skipped
  else { s with sched := s.sched ++ [{ run := r, act := act + BitVec.ofNat 64 period, period := period, reps := reps - 1 }] }

/-- PERIOD and REPEAT (R114). -/
def periodCheck (op : Op) (p : Pkt) : Option (Status × Nat) :=
  if !periodic op then none
  else
    let t := periodOf op p
    let n := repeatOf op p
    let lo := if op = .pchStrobe then 1600 else 2
    if t = 0 then (if n = 1 then none else some (.badParam, 0))
    else if lo ≤ t && 1 ≤ n then none else some (.badParam, 0)

/-- The effect, in the present lane cycle. -/
def perform (m : Meaning) (r : Run) (reps : Nat) (act : W64) (s : State) : State :=
  match orElse (periodCheck r.op r.p) (m.check r s) with
  | some (st, res) => m.fail r st (s.complete r st res)
  | none => if periodic r.op then finishRep r act (periodOf r.op r.p) reps (m.act r s) else m.act r s

/-- The lead below which a timed packet is late (R110, R460). -/
def leadOf (op : Op) : Nat := if op = .fwSchedule then 1600000 else 64

/-- A late outcome is logged (R111). -/
def logLate (r : Run) (st : Status) (res : Nat) (s : State) : State :=
  s.fault 0x901 0 (.f r.p.fn) (if usesCtx r.op then some r.p.ctx.val else none) r.p.ring.val (detQ r st res 0)

/-- A late packet: one that fails a check of its opcode too has that check's status and is not counted as late (R491); any
other goes as its LATE field directs (R111). -/
def late (m : Meaning) (r : Run) (s : State) : State :=
  match orElse (periodCheck r.op r.p) (m.check r s) with
  | some (st, res) => m.fail r st (s.complete r st res)
  | none =>
    if r.p.late = 1 then perform m { r with ranLate := true } (repeatOf r.op r.p) s.tb (logLate r .ok 1 s)
    else if r.p.late = 2 then
      let t := periodOf r.op r.p
      let k := ceilDiv (s.tb.toNat + 64 - r.p.act.toNat) t
      if k < repeatOf r.op r.p then
        holdTimed m r (r.p.act + BitVec.ofNat 64 (k * t)) (repeatOf r.op r.p - k) k (logLate r .ok k s)
      else (logLate r .late 0 s).complete r .late 0
    else (logLate r .late 0 s).complete r .late 0

/-- A packet starts: the checks of R491 in their order, then its effect or its place in the scheduler. -/
def launch (m : Meaning) (r : Run) (s : State) : State :=
  match orElse (preChecks r s) (m.accept r s) with
  | some (st, res) => s.complete r st res
  | none =>
    if r.p.act = 0 then perform m r (repeatOf r.op r.p) s.tb s
    else if r.p.act.toNat < s.tb.toNat + leadOf r.op then late m r s
    else holdTimed m r r.p.act (repeatOf r.op r.p) 0 s

/-- The packet as it begins. -/
def newRun (op : Op) (p : Pkt) (s : State) : Run :=
  { op := op, p := p, gen := (s.ctx p.ctx).gen, born := s.lc, seq := s.seq }

/-- A fetched packet is considered for starting (R115); none is fetched while the management processor is not running (R431). -/
def submit (op : Op) (m : Meaning) (p : Pkt) (s : State) : State :=
  let r := newRun op p s
  let s := { s with seq := s.seq + 1 }
  if !s.power.pwrgd then s
  else if !s.mgmtUp || blocked r s then { s with waiting := s.waiting ++ [r] } else launch m r s

/-! ### Step words (Tables 6.1 to 6.11) -/

def sw (w : List W32) (i : Nat) : W32 := w.getD i 0
def sf (w : List W32) (i lo n : Nat) : Nat := bits (sw w i) lo n
def sb (w : List W32) (i k : Nat) : Bool := bit (sw w i) k
def sop (w : List W32) : Nat := sf w 0 0 8
/-- The 48-bit counts of waits and event steps. -/
def s48 (w : List W32) (i : Nat) : Nat := (sw w i).toNat + 2 ^ 32 * sf w (i + 1) 0 16
/-- A VERNIER within R197's range. -/
def vernOk (v : Int) : Bool := decide (-2097152 ≤ v) && decide (v ≤ 2097151)

/-- The bits each word of a step may carry, by opcode; [] for an undefined opcode. -/
def stepMasks (w : List W32) : List Nat :=
  let all := 0xFFFFFFFF
  match sop w with
  | 0x01 => [0xFFFFF, 0xFFFFFF, all, all, all, 0xFFFFFF03, 0xFFFFFF03]
  | 0x02 => [0x3FFFF, all, all, 0xFFFF, 0xFFFF]
  | 0x03 => if sf w 0 16 2 = 0 then [0x1FFF, 0xFFFFFF03, 0xFFFFFF03]
            else if sf w 0 16 2 = 1 then [0xF1FFF, 0, 0, 0xFFFFFF] else [0xF1FFF]
  | 0x04 => [0xFF, all, 0xFFFF]
  | 0x05 => [0xFFF00FF, all, 0xFFFF]
  | 0x06 => [0x7FF00FF, 0xFF1F]
  | 0x07 => [0x7FFF, 0xFFFF, all]
  | 0x08 => [0x7FF00FF, 0xFFFF, all, 0xFFFF]
  | 0x09 => [0x70FF, 0xFFFF]
  | 0x0A => [0x73FF, 0, all]
  | 0x0B => [0xFF, 0xFFFF]
  | 0x0C => [0xFF]
  | 0x0D => [0xFFF00FF]
  | 0x0E => [0xFF]
  | _ => []

/-- The form of a step (R157, first check): defined opcode, reserved fields zero, fields in range, TARGET loaded. -/
def stepForm (loaded : Nat → Bool) (w : List W32) : Bool :=
  let m := stepMasks w
  !m.isEmpty && maskedOk w m &&
  match sop w with
  | 0x01 => decide (sf w 0 17 2 < 2) && decide (1 ≤ sf w 2 0 16) && vernOk (signed (sw w 4)) &&
            (!sb w 0 16 || decide (sf w 0 8 8 = 0))
  | 0x02 => !sb w 0 16 || decide (sf w 0 8 8 = 0)
  | 0x03 => decide (sf w 0 16 2 ≠ 3) && (decide (sf w 0 16 2 = 0) || decide (sf w 0 18 2 ≠ 0)) &&
            (decide (sf w 0 16 2 ≠ 1) || decide (2 ≤ sf w 3 0 24))
  | 0x04 => decide (1 ≤ s48 w 1)
  | 0x06 => decide (sf w 1 8 8 ≠ 0)
  | 0x07 => decide (sf w 0 8 4 ≤ 6) && loaded (sf w 1 0 16)
  | 0x08 => loaded (sf w 1 0 16)
  | 0x09 => loaded (sf w 1 0 16)
  | 0x0A => decide (sf w 0 8 2 ≤ 1)
  | 0x0B => loaded (sf w 1 0 16)
  | 0x0D => decide (sf w 0 16 4 &&& sf w 0 20 4 = 0)
  | _ => true

/-- The voices of a TRIG group. -/
def trigGroup (w : List W32) : List Nat := ((List.range 8).filter (fun v => sb w 1 (8 + v))).map (fun v => 8 * sf w 1 0 5 + v)

/-- The resources a step names, as CTX_CLAIM's KIND and INSTANCE (R133, R134). The triggered voice is none of them. -/
def stepRes (w : List W32) : List (Nat × Nat) :=
  match sop w with
  | 0x01 =>
    if sb w 0 16 then []
    else (1, sf w 0 8 8) :: (if sb w 5 0 || sb w 6 0 then [(0, sf w 0 8 8 / 8)] else [])
  | 0x02 => if sb w 0 16 then [] else [(1, sf w 0 8 8)]
  | 0x03 => [(0, sf w 0 8 5)]
  | 0x05 | 0x08 => [(4, sf w 0 16 10)]
  | 0x06 => (4, sf w 0 16 10) :: (trigGroup w).map (fun v => (1, v))
  | _ => []

end Sys2Proof.Machine
end

