-- ==== Sys2Proof/Machine/Lifecycle.lean ====
section
/-! DEFINITION. The shared operations on units in use: stopping voices, channels and contexts, releasing what a context
holds, resetting it (Table 5.5), and withdrawing what others wait for. -/
namespace Sys2Proof.Machine

/-! ### What the state of the device forbids -/

/-- From the arming of a restart to the completion of FW_SCHEDULE (R462). -/
def State.fwArmed (s : State) : Bool := decide (2 ≤ s.fw.sched)
/-- The device level is LIMIT or above (R443). -/
def State.hot (s : State) : Bool := decide (2 ≤ s.tmp.level)
/-- Starts and enables complete with BUSY (R409, R443, R462). -/
def State.noStart (s : State) : Bool := s.fwArmed || s.hot || s.selfRuns
def State.anyFchEnabled (s : State) : Bool := Tbl.anyEntry (fun _ f => f.enabled) s.fchs
/-- A timed action is pending (R78, R84). -/
def State.timedPending (s : State) : Bool := s.sched.any (fun t => t.run.timed)

/-- A packet reaches its command timeout: the fault is logged and the packet completes with TIMEOUT (R120). -/
def State.timeoutRun (s : State) (r : Run) (res : Nat) : State :=
  (s.fault 0x902 0 (.f r.p.fn) (if usesCtx r.op then some r.p.ctx.val else none) r.p.ring.val (detQ r .timeout res 0)).complete r .timeout res

/-- Every FW_ field that a set leaves behind as it becomes the running set or PREFERRED: its STAGED bits (R458). -/
def State.unstage (s : State) (set : Nat) : State :=
  s.each (List.range 8) (fun t s => s.updImg set t (fun i => { i with staged := false }))

/-- The next spare row of a DRAM bank that has not failed the memory test. -/
def DBank.nextSpare (k : DBank) : Option Nat := firstFrom (fun i => !k.badSpares.contains i) k.sparesUsed (48 - k.sparesUsed)

/-- A row is redirected to the next spare. -/
def DBank.retire (k : DBank) (row : Nat) : DBank :=
  match k.nextSpare with
  | some i => { k with redirect := k.redirect ++ [(row, 16336 + i)], sparesUsed := i + 1, open_ := none }
  | none => k

/-- The rows of the MRAM copy are retired again after the memory test (R335, R439). -/
def State.applyRows (s : State) : State :=
  s.log.mramRows.foldl (fun s x =>
    (s.updDBank x.1 x.2.1 (fun k => k.retire x.2.2)).updPc x.1 (fun p => { p with retired := p.retired + 1, spares := p.spares - 1 })) s

/-! ### The single allocator (R118, R146) -/

/-- The resource pools: contexts, thread slots, waveform memory, banks, scenes, the budget; 10 + k for the units of CTX_CLAIM's KIND k. -/
def poolCtx : Nat := 0
def poolThread : Nat := 1
def poolMem : Nat := 2
def poolBank : Nat := 3
def poolScene : Nat := 4
def poolBudget : Nat := 5
def poolUnit (kind : Nat) : Nat := if kind = 6 then poolBank else 10 + kind

/-- A decision for requester `c`: at most one of a pool in each lane cycle, a second one in the next; the pointer moves one past the
requester. -/
def State.allocTurn (s : State) (pool c : Nat) : State :=
  let s := if Tbl.get 0 s.allocLast pool = s.lc + 1 then s.advanceTo (s.lc + 1) else s
  { s with allocPtr := (c + 1) % 1024, allocLast := Tbl.set 0 s.allocLast pool (s.lc + 1) }

/-! ### Claims (Table 5.4) -/

/-- A unit on its way back to the allocator: its release has been asked and its ramp runs (R236, R254, Table 5.5). -/
def State.leaving (s : State) (kind i : Nat) : Bool :=
  match kind with
  | 0 => (s.fch i).releasing | 1 => (s.voice i).releasing | 2 => (s.pch i).releasing | _ => false

def State.holds (s : State) (c kind i : Nat) : Bool := decide (s.holder kind i = some c) && !s.leaving kind i

/-- Members of a scene, as context numbers. -/
def State.members (s : State) (k : Nat) : List Nat := ((s.scene k).members).map (fun m => m.1)

/-! ### The phase accumulators (R203 to R206) -/

def State.runVoice (s : State) (v n : Nat) : State :=
  s.updVoice v (fun x => x.runNco (s.ncoOff (s.voiceMode v).rate) n)

/-- The hops of the samples before the present lane cycle have taken effect. -/
def State.pastNco (s : State) (v : Nat) : State := if s.lc = 0 then s else s.runVoice v ((s.voiceMode v).rate * s.lc - 1)

/-- Before the count changes, every hop whose sample has passed takes effect under the old count. -/
def State.flushNco (s : State) : State := s.each (Tbl.keysWhere (fun _ v => !v.hops.isEmpty) s.voices) (fun v s => s.pastNco v)

/-- The channel's mode changes: its voices' accumulators go on from the same lane cycle at the new rate, and hops still queued keep their
lane cycles. DESIGN CHOICE, log entry 61: the spec says neither. -/
def State.reRate (s : State) (c : Nat) (m : Mode) : State :=
  s.each ((List.range 8).map (fun k => 8 * c + k)) (fun v s =>
    let r := (s.fch c).mode.rate
    let s := s.pastNco v
    s.updVoice v (fun x => { x with
      acc := x.accAt (r * s.lc), ncoAt := m.rate * s.lc, hops := x.hops.map (fun h => { h with at_ := m.rate * (h.at_ / r) }) }))

/-! ### The timebase and LANE as the TMU sees them (Table 14.5) -/

/-- A load of the timebase: blocks in progress start afresh, and so do the timeouts of their packets. -/
def State.tmuLoad (s : State) : State :=
  let s := s.each (Tbl.keysWhere (fun _ k => decide (k.st ≠ 0)) s.slots) (fun k s => s.updSlot k (fun x => { x with blk := { from_ := 65536 * s.lc }, discards := sat 255 (x.discards + 1) }))
  { s with jobs := s.jobs.map (fun j => match j.kind with | .tmuRun _ => { j with run := { j.run with born := s.lc } } | _ => j) }

/-- LANE switches source: the measurement under way is discarded, unwrapping starts afresh, and a set timebase becomes SUSPECT (R63, R86). -/
def State.laneSwitch (s : State) (dco : Bool) : State :=
  if s.clk.laneDco = dco then s else
  let s := s.updClk (fun k => { k with laneDco := dco, tbState := if k.tbState = .set ∨ k.tbState = .synced then .suspect else k.tbState })
  s.each (Tbl.keysWhere (fun _ k => decide (k.st ≠ 0)) s.slots) (fun k s => s.updSlot k (fun x =>
    let open_ := (x.measure (s.tbOff)).1.start.isSome
    { x with blk := { x.blk with evs := insertEv { t := 65536 * s.lc, cut := true } x.blk.evs }, discards := if open_ then sat 255 (x.discards + 1) else x.discards }))

/-! ### Tags (R286) -/

/-- A request as the tag it will hold. -/
def Req.asTag (r : Req) : Tag :=
  { port := r.port, ctx := r.ctx, gen := r.gen, voice := r.voice, seg := r.seg, segGen := r.segGen, dpa := r.dpa, deadline := r.deadline,
    first := r.first, unit := r.unit, pos := r.pos, bulk := r.bulk }

/-- A fetch of a step: on port STEP, or its retry. -/
def Tag.isStep (t : Tag) : Bool := decide (t.seg = stepSeg)

/-- Tags that satisfy `p` are abandoned: landed ones are freed at once, the others await their return. -/
def State.abandonTags (s : State) (p : Tag → Bool) : State :=
  s.updSql (fun q => { q with
    tags := Tbl.mapVals {} (fun _ t => if p t then (if t.landed then {} else { t with abandoned := true }) else t) q.tags
    stream := q.stream.filter (fun r => !p r.asTag)
    urgent := q.urgent.filter (fun r => !p r.asTag) })

/-- The wait of a context ends or begins: heads are kept only for the plays listed, and where a voice is reading one (R290). -/
def State.keepHeads (s : State) (c : Nat) (l : List (Nat × Nat)) : State := (s.updCtx c (fun x => { x with heads := l })).swept

/-- Orphans of a generation of a context are outstanding (R137). -/
def State.orphansOf (s : State) (c g : Nat) : Bool :=
  Tbl.anyEntry (fun _ t => t.abandoned && decide (t.ctx = c) && decide (t.gen = g)) s.sql.tags

/-! ### Markers (R163, R165) -/

def State.dropEdges (s : State) (m : Nat) (p : Edge → Bool) : State :=
  s.updMarker m (fun k => { k with edges := k.edges.filter (fun e => !p e) })
/-- Both markers of a channel. -/
def State.dropChEdges (s : State) (c : Nat) (p : Edge → Bool) : State := (s.dropEdges (2 * c) p).dropEdges (2 * c + 1) p
def State.dropAllEdges (s : State) (p : Edge → Bool) : State := s.each (Tbl.keysWhere (fun _ _ => true) s.markers) (fun m s => s.dropEdges m p)
/-- The markers of a channel that is not running drive logic 0 in EDGE mode; what is placed for later stays (R161). -/
def State.markersLow (s : State) (c : Nat) : State :=
  s.each [2 * c, 2 * c + 1] (fun m s => s.updMarker m (fun k => { k with level := false, divider := false, period := 0 }))

/-! ### Voices (R132, R195, R210) -/

/-- Detail form V (Table 16.7). -/
def detV (seg : Nat) (segGen idx : Nat) (pos : W64) (n x : Nat) : List W32 :=
  [word (seg + 65536 * segGen), word idx, lo32 pos, hi32 pos, word n, word x]

/-- The one UNDERRUN record of a voice's fills while pseudo-channels were out of service, of those p picks (R330). -/
def State.tellFrozen (s : State) (v : Nat) (p : Nat → Bool) : State :=
  let hits := (s.voice v).frozen.filter (fun e => p e.pc)
  let s := hits.foldl (fun s e => s.faultAt 0x201 0 .c (s.voice v).owner v e.time (detV e.seg e.segGen e.first e.time e.count 0)) s
  s.updVoice v (fun x => { x with frozen := x.frozen.filter (fun e => !p e.pc) })

/-- A voice returns to the record of all zeros and to no holder (R195); its counts stay until the next claim (R226). -/
def State.freeVoice (s : State) (v : Nat) : State :=
  ((s.tellFrozen v (fun _ => true)).abandonTags (fun t => decide (t.voice = some v))).updVoice v
    (fun x => { underruns := x.underruns, poisoned := x.poisoned, filled := x.filled })

/-- VERNIER_LIMIT for an action, by so many units (R197, R200). -/
def State.vernLimit (s : State) (v : Nat) (a : Action) (t : W64) (units : Nat) : State :=
  s.faultAt 0x203 0 .c (s.voice v).owner v t (detV a.seg a.segGen 0 (s.tbAt a.pos) 0 units)

/-- The lane cycle in which a sum that follows F from lane cycle fAt left the range of R197. -/
def Voice.leftRange (x : Voice) (f : Int) : Nat :=
  x.fAt + ceilDiv (if 2097151 < x.own + f then (2097152 - (x.own + x.f)).toNat else (x.own + x.f + 2097153).toNat) (max x.vrec.followSlew 1)

/-- The follow term is carried to the present lane cycle. An action whose sum it has pushed out of range is held to the limit, and
VERNIER_LIMIT is raised once, dated where the sum left the range (R197, R218). -/
def State.carryF (s : State) (v : Nat) : State :=
  let x := s.voice v
  let f := x.fNow s.lc
  let s := s.updVoice v (fun x => { x with f := f, fAt := s.lc })
  match x.cur with
  | some a =>
    if !x.limited && decide (x.own + f ≠ heldDelay (x.own + f)) then
      let l := x.leftRange f
      (s.updVoice v (fun x => { x with limited := true })).vernLimit v a (s.tbAt l) (x.own + x.fNow l - heldDelay (x.own + x.fNow l)).natAbs
    else s
  | none => s

/-- The first sample from n up to m that the voice can take. -/
def State.resumesAt (s : State) (v n m : Nat) : Option Nat :=
  firstFrom (fun k => match s.material v k with | some (some _) => true | _ => false) n (m - n)

/-- The one record of an episode of fill, dated at its first sample (R208, R209, R349). -/
def State.tellFill (s : State) (v : Nat) (a : Action) (e : FillEp) (count : Nat) : State :=
  let t := s.tbAt (a.pos + e.first / (s.voiceMode v).rate)
  let d := fun (x : Nat) => detV a.seg a.segGen (e.first % max (s.seg a.seg).samples 1) t count x
  match e.cause with
  | .data => s.faultAt 0x201 0 .c (s.voice v).owner v t (d 0)
  | .poison => s.faultAt 0x202 5 .c (s.voice v).owner v t (d 0)
  | .bankNotOn => s.faultAt 0x205 0 .c (s.voice v).owner v t (d (o2n a.bank))

/-- The samples of a fill join the episode of the freeze that caused it. -/
def addFrozen (n : FreezeEp) : List FreezeEp → List FreezeEp
  | [] => [n]
  | e :: es => if e.pc = n.pc then { e with count := e.count + n.count } :: es else e :: addFrozen n es

/-- A pseudo-channel is out of normal service: frozen, in TRAIN or in RECOVERY (R325). -/
def Pc.out (p : Pc) : Bool := p.frozen.isSome || decide (p.phase = .train) || decide (p.phase = .recovery)

/-- What the context is told at the end of an episode of n samples. -/
def State.tellEnd (s : State) (v : Nat) (a : Action) (e : FillEp) (n : Nat) : State :=
  match e.pc with
  | none => s.tellFill v a e n
  | some k =>
    let f : FreezeEp := { pc := k, seg := a.seg, segGen := a.segGen, first := e.first % max (s.seg a.seg).samples 1
                          time := s.tbAt (a.pos + e.first / (s.voiceMode v).rate), count := n }
    let s := s.updVoice v (fun x => { x with frozen := addFrozen f x.frozen })
    if (s.pc k).out then s else s.tellFrozen v (fun x => decide (x = k))

/-- An episode of fill ends before sample m: the samples filled are counted and the context is told; of the fills of a freeze it is told
once, at the unfreeze (R330). -/
def State.closeFill (s : State) (v m : Nat) : State :=
  match (s.voice v).fillEp, (s.voice v).cur with
  | some e, some a =>
    let n := m - e.from_
    (s.updVoice v (fun x => { x with
      filled := sat (2 ^ 32 - 1) (x.filled + n), fillEp := some { e with until_ := some m }, st := if x.st = .fill then .playing else x.st })).tellEnd v a e n
  | _, _ => s

/-- An episode still open ends at the first sample the voice can take, looked for up to sample m; where there is none it goes on, or
ends at m when the voice's action ends (`last`). -/
def State.endFill (s : State) (v m : Nat) (last : Bool) : State :=
  match (s.voice v).fillEp with
  | some e =>
    if e.until_.isSome then s else
    match s.resumesAt v e.from_ m with
    | some n => s.closeFill v n
    | none => if last then s.closeFill v m else s
  | none => s

/-- Queued actions after the current one are discarded with the edges they carry, the tags that serve them and the hops not yet in
effect. -/
def State.clearQueue (s : State) (v : Nat) : State :=
  let s := s.pastNco v
  let n := (s.voiceMode v).rate * s.lc
  let kept := ((s.voice v).before_.toList.map (fun x => x.1) ++ (s.voice v).cur.toList).map (fun a => a.pos)
  let s := s.abandonTags (fun t => decide (t.voice = some v) && !kept.contains t.pos)
  let ps := (s.voice v).queue.map (fun a => a.pos)
  let s := s.dropChEdges (v / 8) (fun e => decide (e.src = v) && ps.contains e.step && !kept.contains e.step)
  s.updVoice v (fun x => { x with queue := [], hops := x.hops.filter (fun h => h.due n) })

/-- A stop: the queue is discarded, and the output of a voice that plays, fill included, ramps to zero over its channel's RAMP_LC. -/
def State.stopVoice (s : State) (v : Nat) : State :=
  let s := s.clearQueue v
  match (s.voice v).st with
  | .idle => s.updVoice v (fun x => { x with cur := none })
  | .ramping => s
  | _ => s.updVoice v (fun x => { x with st := .ramping, rampFrom := s.lc, rampLen := (s.fch (v / 8)).rampLc })

/-- The generation of a unit's holder. -/
def State.ownGen (s : State) (o : Option Nat) : Nat := (s.ctx (o.getD 0)).gen

def State.voicesOf (s : State) (c : Nat) : List Nat := Tbl.keysWhere (fun _ v => decide (v.owner = some c)) s.voices

/-- Released once its ramp has ended. -/
def State.releaseVoice (s : State) (v : Nat) : State :=
  let s := s.stopVoice v
  if (s.voice v).st = .idle then s.freeVoice v
  else if (s.voice v).releasing then s else s.updVoice v (fun x => { x with releasing := true, relGen := s.ownGen x.owner })

/-! ### Fast channels (R235 to R238) -/

def State.chCtx (s : State) (c : Nat) : Option Nat := (s.fch c).owner
def orBits {n : Nat} (e : BitVec n) (k : Nat) : BitVec n := e ||| (1#n <<< k)

/-- The waiting enable of a channel completes with BUSY, RESULT [1] set, where it is withdrawn (R235). -/
def State.withdrawStart (s : State) (c : Nat) : State :=
  s.endKind (fun k => match k with | .fchStart x _ _ => decide (x = c) | _ => false) .busy 2

/-- Where a start is withdrawn the channel mutes, or finishes the stop ramp still in progress (Table 8.5). -/
def State.unstart (s : State) (c : Nat) : State :=
  (s.withdrawStart c).updFch c (fun f => { f with st := if f.rampEnd.isSome then .stopping else .muted })

/-- A ramp to zero over `len` lane cycles from lane cycle l, from the factor in force there (R236, R237). -/
def Fch.rampOver (f : Fch) (l len : Nat) : Fch :=
  { f with rampTop := f.factor (32 * l), rampFrom := l, rampLen := len, rampEnd := some (l + len) }

/-- A hardware stop of a ramp in progress: over 16 LC from its present value, or the ramp itself where it ends sooner (Table 8.5). -/
def Fch.hwRamp (f : Fch) (l : Nat) : Fch :=
  match f.rampEnd with
  | some e => if e ≤ l + 16 then f else f.rampOver l 16
  | none => f

/-- The stop of R236 with the channel's stored RAMP_LC. -/
def State.stopFch (s : State) (c : Nat) : State :=
  match (s.fch c).st with
  | .running => (s.dropChEdges c (fun _ => true)).updFch c (fun f => { f.rampOver s.lc f.rampLc with st := .stopping })
  | .starting => s.unstart c
  | _ => s

/-- The hardware stop of R237, a 16 LC ramp from the present value beginning in lane cycle l; counted. -/
def State.hwStopAt (s : State) (c l : Nat) : State :=
  match (s.fch c).st with
  | .running => (s.dropChEdges c (fun _ => true)).updFch c (fun f => { f.rampOver l 16 with st := .stopping, hwStops := sat 65535 (f.hwStops + 1) })
  | .stopping => s.updFch c (fun f => { f.hwRamp l with hwStops := sat 65535 (f.hwStops + 1) })
  | .starting => (s.unstart c).updFch c (fun f => f.hwRamp l)
  | _ => s

def State.hwStopFch (s : State) (c : Nat) : State := s.hwStopAt c s.lc

/-- A timed COMMIT of the channel is withdrawn with BUSY (R403). -/
def State.dropCommit (s : State) (c : Nat) : State :=
  let hit := fun (t : Timed) => decide (t.run.op = .aocCtrl) && decide (pf t.run.p 4 0 5 = c) && decide (pf t.run.p 4 8 2 = 3)
  let ts := s.sched.filter hit
  let s := { s with sched := s.sched.filter (fun t => !hit t) }
  let s := ts.foldl (fun s t => s.complete t.run .busy 0) s
  if ts.isEmpty then s else s.updAoc c (fun a => { a with pending := if a.pending = 2 then 1 else a.pending })

/-- The channel returns to the allocator; mode, centre, verdict and correction are kept (R247, R405). -/
def State.freeFch (s : State) (c : Nat) : State :=
  (s.dropCommit c).updFch c (fun f => { f with owner := none, releasing := false })

def State.releaseFch (s : State) (c : Nat) : State :=
  let s := s.stopFch c
  if (s.fch c).st = .stopping then (if (s.fch c).releasing then s else s.updFch c (fun f => { f with releasing := true, relGen := s.ownGen f.owner })) else s.freeFch c

/-- A channel has muted (R236). -/
def State.muteFch (s : State) (c : Nat) : State :=
  let f := s.fch c
  let s := (s.markersLow c).updFch c (fun f => { f with
    rampEnd := none,
    st := (if f.failing then .failed else if f.st = .stopping then .muted else f.st), failing := false, ilimit := false })
  let over_ := f.st = .stopping ∨ f.st = .cleared
  let s := if f.releasing ∧ over_ then s.freeFch c else s
  if over_ then s.endKind (fun k => match k with | .fchRelease x => decide (x = c) | _ => false) .ok 0 else s

/-- A channel enters FAILED with CHANNEL_FAILED (R242, R243, R428). -/
def State.failFch (s : State) (c : Nat) : State :=
  if (s.fch c).st = .failed then s else
  let s := s.hwStopFch c
  let s := s.updFch c (fun f => { f with events := orBits f.events 7 })
  let s := if (s.fch c).st = .stopping then s.updFch c (fun f => { f with failing := true })
           else (s.markersLow c).updFch c (fun f => { f with st := .failed })
  s.fault 0x303 5 .cp (s.chCtx c) c [word (s.fch c).ratio.toNat]

/-! ### Precision channels (R253, R255) -/

/-- The readback of the quantity a channel regulates, as w8 of detail form U carries it (Table 16.7). -/
def Pch.reading (p : Pch) : W32 := word ((if p.range < 3 then p.rbSense else p.rbCurrent).toNat % 65536)

/-- The end of an underrun episode: its one record, dated at the first tick missed (R258, R435). -/
def State.endUnder (s : State) (n : Nat) : State :=
  match (s.pch n).under with
  | none => s
  | some (t, k) =>
    let s := s.updPch n (fun p => { p with under := none, events := orBits p.events 5, underruns := sat 65535 (p.underruns + 1) })
    if (s.pch n).owner.isSome then s.faultAt 0x401 0 .c (s.pch n).owner n t [(s.pch n).reading, 0, lo32 t, hi32 t, word k] else s

/-- What a channel that leaves ENABLED loses: its queue, its holding register, a hold in progress, its load verdict. -/
def Pch.discard (p : Pch) : Pch :=
  { p with queue := [], holdFresh := false, shadow := none, hold := none, holdDue := none, tookNoLast := false, load := 0, comparator := false }

/-- The disable ramp of R253: 64 µs from the present code to the clear code. -/
def State.rampPch (s : State) (n : Nat) : State :=
  if (s.pch n).st = .enabled then
    (s.endUnder n).updPch n (fun p => { p.discard with
      st := .ramping, force := p.clear, ramp := some (p.forceNow s.lc, p.clear, s.lc, s.lc + 102400) })
  else s

/-- A released channel keeps its range and clear code (R255). -/
def State.freePch (s : State) (n : Nat) : State :=
  s.updPch n (fun p => { p.discard with owner := none, releasing := false, done := false })

def State.releasePch (s : State) (n : Nat) : State :=
  let s := s.rampPch n
  if (s.pch n).st = .ramping ∨ (s.pch n).st = .switching then
    s.updPch n (fun p => { p with releasing := true, relGen := if p.releasing then p.relGen else s.ownGen p.owner, swEnable := false })
  else s.freePch n

/-! ### The event fabric (R372) -/

/-- A consumer loses its channel (Table 13.2 codes). -/
def State.unattach (s : State) (code : Nat) : State :=
  if code < 0x400 then s.updCon code (fun c => { c with channel := none })
  else if code < 0x410 then s.updEo (code - 0x400) (fun e => { e with channel := none })
  else if code < 0x504 then s.updGroup (code - 0x500) (fun g => { g with channel := none })
  else s.updJump ((code - 0x1000) / 4) ((code - 0x1000) % 4) (fun j => { j with channel := none })

def State.attach (s : State) (code k : Nat) : State :=
  if code < 0x400 then s.updCon code (fun c => { c with channel := some k })
  else if code < 0x410 then s.updEo (code - 0x400) (fun e => { e with channel := some k })
  else if code < 0x504 then s.updGroup (code - 0x500) (fun g => { g with channel := some k })
  else s.updJump ((code - 0x1000) / 4) ((code - 0x1000) % 4) (fun j => { j with channel := some k })

/-- The context that holds a consumer, and the channel it is attached to. -/
def State.consOwner (s : State) (code : Nat) : Option Nat :=
  if code < 0x400 then (s.con code).owner
  else if code < 0x410 then (s.eo (code - 0x400)).owner
  else if code < 0x504 then (s.group (code - 0x500)).owner
  else if (s.ctx ((code - 0x1000) / 4)).st = .free then none else some ((code - 0x1000) / 4)
def State.consChannel (s : State) (code : Nat) : Option Nat :=
  if code < 0x400 then (s.con code).channel
  else if code < 0x410 then (s.eo (code - 0x400)).channel
  else if code < 0x504 then (s.group (code - 0x500)).channel
  else ((s.ctx ((code - 0x1000) / 4)).jump ((code - 0x1000) % 4)).channel

/-- A consumer that is released leaves the events already registered too (R372). -/
def State.forgetCons (s : State) (code : Nat) : State :=
  { s with regs := s.regs.map (fun r => { r with snap := r.snap.map (fun l => l.filter (fun x => decide (x ≠ code))) }) }

def State.detach (s : State) (code : Nat) : State :=
  let s := s.forgetCons code
  match s.consChannel code with
  | some k => (s.updEv k (fun e => { e with cons := e.cons.filter (fun x => decide (x ≠ code)) })).unattach code
  | none => s

/-- A TMU slot's run ends and its block in progress is discarded; its positions return (R382, R391). -/
def State.stopSlot (s : State) (k : Nat) : State :=
  let x := s.slot k
  let s := if x.st = 0 then s else s.updSlot k (fun x => { x with st := 0, discards := sat 255 (x.discards + 1), blk := {} })
  s.each (s.sourced (fun _ => true)) (fun c s => s.updEv c (fun e => { e with tmus := e.tmus.filter (fun p => decide (p / 2 ≠ k)) }))

/-- The voices that follow a slot: of the slot's own holder. -/
def State.followers (s : State) (k : Nat) : List Nat :=
  Tbl.keysWhere (fun _ v => v.vrec.followEn && !v.followHeld && decide (v.vrec.followSlot = k) && v.owner.isSome && decide (v.owner = (s.slot k).owner)) s.voices

/-- A slot released: the voices that followed it hold T and F (R219). -/
def State.freeSlot (s : State) (k : Nat) : State :=
  let s := (s.followers k).foldl (fun s v => (s.carryF v).updVoice v (fun x => { x with followHeld := true })) s
  (s.stopSlot k).updSlot k (fun x => { x with owner := none, toVoice := [] })

/-- A channel released: source NONE, every consumer detached, ROUTE_LOST to those of other contexts. -/
def State.freeEv (s : State) (k : Nat) : State :=
  let e := s.ev k
  let lost := (e.cons.filterMap (fun c => s.consOwner c) ++
    e.cells.filterMap (fun p => (s.cell (p / 4)).owner) ++ e.tmus.filterMap (fun p => (s.slot (p / 2)).owner)).filter (fun c => decide (some c ≠ e.owner))
  let s := e.cons.foldl (fun s c => s.unattach c) s
  let s := s.updEv k (fun _ => { events := e.events, coalesced := e.coalesced })
  let s : State := { s with regs := s.regs.filter (fun r => decide (r.ch ≠ k)) }
  (lost.eraseDups).foldl (fun s c => s.fault 0x701 0 .c (some c) k []) s

def State.freeCon (s : State) (n : Nat) : State :=
  let s := s.detach n
  s.updCon n (fun c => { c with owner := none, pending := none, discards := if c.pending.isSome then sat 65535 (c.discards + 1) else c.discards })
def State.freeEo (s : State) (n : Nat) : State := (s.detach (0x400 + n)).updEo n (fun e => { e with owner := none })

/-- A logic cell's inputs return their positions. -/
def State.freeInputs (s : State) (l : Nat) : State :=
  s.each (s.sourced (fun _ => true)) (fun c s => s.updEv c (fun e => { e with cells := e.cells.filter (fun p => decide (p / 4 ≠ l)) }))

/-- A cell released: each channel with it as source is set to source NONE. -/
def State.freeCell (s : State) (l : Nat) : State :=
  let s := s.freeInputs l
  let s := s.each (s.sourced (srcIs 6 l)) (fun c s => s.updEv c (fun e => { e with source := 0, direct := false }))
  s.updCell l (fun _ => {})

def State.freeGroup (s : State) (g : Nat) : State :=
  (s.detach (0x500 + g)).updGroup g (fun k => { k with owner := none, deferred := none, due := none, linkWait := none })

/-! ### Segments and banks (R139, R149) -/

/-- Throttles on a segment lift when it is pinned, freed or placed anew (R319). -/
def State.liftSeg (s : State) (k : Nat) : State :=
  s.updMem (fun m => { m with pcs := Tbl.mapVals {} (fun _ p => { p with throttles := p.throttles.filter (fun t => decide (t.req.seg ≠ some k)) }) m.pcs })

/-- A segment's space is returned for zeroing, its slot's generation increments, and the slot becomes the youngest free one. -/
def State.freeSeg (s : State) (k : Nat) : State :=
  let g := s.seg k
  let s := s.freeExtents g.ext g.nExt
  let s := match g.newExt with | some (e, n) => s.freeExtents e n | none => s
  let s := match g.bank with | some (b, o) => s.freeBank b o g.bytes | none => s
  let s := match g.pin with | some (b, o, _) => s.freeBank b o g.bytes | none => s
  let s := (s.liftSeg k).abandonTags (fun t => decide (t.seg = k) && decide (t.segGen = g.gen))
  { s.updSeg k (fun _ => { gen := (g.gen + 1) % 256 }) with segFree := s.segFree ++ [k] }

/-- The pending handover of a bank is withdrawn: the packet that asked completes with BUSY, RESULT 1 (R352). -/
def State.withdrawHandover (s : State) (b : Nat) : State :=
  (s.endKind (fun k => decide (k = .handover b)) .busy 1).updBank b (fun k => { k with handover := none })

/-- A released bank in no transition is dealt with by its power state: one that is OFF is unowned at once, one in HIBERNATE is
woken to be zeroed, one that is ON is zeroed (R139). -/
def State.freeByState (s : State) (b : Nat) : State :=
  match (s.bank b).st with
  | .off => (s.setOwner b 0x7FF).updBank b (fun k => { k with releasing := false, used := [], zeroing := [] })
  | .hibernate => s.updBank b (fun k => { k with releasing := true, used := [], zeroing := [], trans := some (.on, false) })
  | .on => s.updBank b (fun k => { k with releasing := true, used := [], zeroing := [(0, 2 ^ 20)] })

/-- A bank leaves its owner (R139). A transition under way ends first, and a request that waits behind it is replaced (R348). -/
def State.releaseBank (s : State) (b : Nat) : State :=
  let s := ((s.withdrawHandover b).endKind (fun k => decide (k = .bnkPower b true)) .busy 0).updBank b (fun k => { k with waiting := none })
  if (s.bank b).trans.isSome then s.updBank b (fun k => { k with releasing := true, used := [], zeroing := [] })
  else s.freeByState b

def State.banksOf (s : State) (c : Nat) : List Nat := Tbl.keysWhere (fun _ b => decide (b.owner = c)) s.banks
def State.segsOf (s : State) (c : Nat) : List Nat := Tbl.keysWhere (fun _ g => g.used && decide (g.ctx = c)) s.segs

/-! ### Jump slots (R175, R177) -/

/-- A slot disarms: its copy's space returns. What JMPEN steps have set for it stays (R177). -/
def State.disarm (s : State) (c j : Nat) : State :=
  let x := (s.ctx c).jump j
  let s := match x.copy with | some (b, o) => s.freeBank b o 16384 | none => s
  s.updJump c j (fun x => { x with st := 0, seg := 0, segGen := 0, entry := 0, copy := none })

/-! ### Stopping a context (R132, R184) -/

/-- An overrun of a general consumer (R368). -/
def State.overrunCon (s : State) (n : Nat) : State := s.updCon n (fun c => { c with overrun := true, overruns := sat 65535 (c.overruns + 1) })

/-- A trigger queued under QUEUE1 is dropped and counted as an overrun (R174). The trigger consumer is the one its TRIG named. -/
def State.dropTrig (s : State) (c : Nat) : State :=
  match (s.ctx c).queuedTrig with
  | some n => (if s.lc < n.2 then s.overrunCon n.1 else s).updCtx c (fun x => { x with queuedTrig := none })
  | none => s

/-- The start whose pre-run is stopped completes with BUSY and RESULT 1: an untimed one waits as a job, a timed one is still in the
scheduler, due at the start instant (R184, R190). -/
def State.withdrawProgram (s : State) (c : Nat) : State :=
  let s := s.endKind (fun k => decide (k = .start c)) .busy 1
  let hit := fun (t : Timed) => decide (t.run.op = .prgStart) && decide (t.run.p.ctx.val = c) && decide (s.lcAt t.act = (s.ctx c).startS)
  let ts := s.sched.filter hit
  ts.foldl (fun s t => s.complete t.run .busy 1) { s with sched := s.sched.filter (fun t => !hit t) }

/-- What every stop of a thread does: the thread stops, voices ramp, queued actions and later MARK edges go. -/
def State.haltThread (s : State) (c : Nat) : State :=
  let s := (s.dropTrig c).updCtx c (fun x => { x with waiting := .none, fetching := false, triggered := false, spin := 0, stalls := 0, onCubStall := none, preRun := false, stopAfter := false, placedAt := none })
  let s := (s.each (s.voicesOf c) (fun v s => s.stopVoice v)).keepHeads c []
  let s := s.dropAllEdges (fun e => decide (e.ctx = c) && decide (e.src = 256) && decide (s.lc < e.step))
  s.each [0, 1, 2, 3] (fun j s => s.updJump c j (fun x => { x with responding := false, changes := [], hit := none }))

/-- A stop that enters STOPPING ends the ticks of the context's queues too (R258). -/
def State.haltCtx (s : State) (c : Nat) : State :=
  let s := s.haltThread c
  s.each (Tbl.keysWhere (fun _ p => decide (p.owner = some c)) s.pchs) (fun n s => (s.endUnder n).updPch n (fun p => { p with ticksOff := true }))

/-- A start whose pre-run is discarded: its context is ARMED again (R184). -/
def State.discardPreRun (s : State) (c : Nat) : State :=
  if (s.ctx c).preRun then (s.haltThread c).updCtx c (fun x => { x with st := .armed }) else s

/-- The context enters STOPPING; a stop in the pre-run discards everything and returns to ARMED. -/
def State.stopCtx (s : State) (c : Nat) : State :=
  if (s.ctx c).st ≠ .running then s
  else if (s.ctx c).preRun then (s.withdrawProgram c).discardPreRun c
  else ((s.haltCtx c).fireSrc (srcIs 3 (c + 1024)) s.lc).updCtx c (fun x => { x with st := .stopping })

/-- A fault of detail form S at the thread's present step. -/
def State.faultS (s : State) (c code : Nat) (v : Int) : State :=
  let x := s.ctx c
  s.fault code 0 .c (some c) (o2n x.engine) (detS x.pc v ((x.pos : Int) - x.startS))

/-- The same, stopping the context as in R132. -/
def State.faultStop (s : State) (c code : Nat) (v : Int) : State := (s.faultS c code v).stopCtx c

/-! ### Resetting a context (R138, Table 5.5) -/

/-- Timed actions of the context are cancelled with STALE_GEN; so are its packets in execution. -/
def State.stalePackets (s : State) (c : Nat) : State :=
  let hit := fun (r : Run) => namesCtx r.op && decide (r.p.ctx.val = c)
  let ts := s.sched.filter (fun t => hit t.run)
  let s := { s with sched := s.sched.filter (fun t => !hit t.run) }
  let s := ts.foldl (fun s t => s.complete t.run .staleGen 0) s
  s.endJobs (fun j => hit j.run && decide (j.run.op ≠ .ctxReset) && decide (j.run.op ≠ .ctxClose)) .staleGen 0

/-- Everything Table 5.5 does in the lane cycle of the reset. -/
def State.resetCtx (s : State) (c : Nat) : State :=
  let s := s.dropTrig c
  let s := s.each (s.voicesOf c) (fun v s => s.releaseVoice v)
  let s := s.dropAllEdges (fun e => decide (e.ctx = c))
  let s := s.each (Tbl.keysWhere (fun _ f => decide (f.owner = some c)) s.fchs) (fun k s => s.releaseFch k)
  let s := s.each (Tbl.keysWhere (fun _ p => decide (p.owner = some c)) s.pchs) (fun n s => s.releasePch n)
  let s := s.each (Tbl.keysWhere (fun _ g => decide (g.owner = some c)) s.groups) (fun g s => s.freeGroup g)
  let s := s.each (Tbl.keysWhere (fun _ k => decide (k.owner = some c)) s.slots) (fun k s => s.freeSlot k)
  let s := s.each (Tbl.keysWhere (fun _ k => decide (k.owner = some c)) s.cells) (fun l s => s.freeCell l)
  let s := s.each (Tbl.keysWhere (fun _ k => decide (k.owner = some c)) s.evch) (fun k s => s.freeEv k)
  let s := s.each (Tbl.keysWhere (fun _ k => decide (k.owner = some c)) s.cons) (fun n s => s.freeCon n)
  let s := s.each (Tbl.keysWhere (fun _ k => decide (k.owner = some c)) s.eos) (fun n s => s.freeEo n)
  let s := s.each [0, 1, 2, 3] (fun j s => ((s.detach (0x1000 + 4 * c + j)).disarm c j).updJump c j (fun x => { x with responding := false, aligned := false, changes := [], lastAt := none, hit := none }))
  let s := s.stalePackets c
  let s := s.abandonTags (fun t => decide (t.ctx = c))
  let s := s.each (s.segsOf c) (fun k s => s.freeSeg k)
  let s := s.each (s.banksOf c) (fun b s => s.releaseBank b)
  let s := (s.ctx c).pages.foldl (fun s p => s.freeExtents p.2 8) s
  let s := s.updMem (fun m => { m with pcs := Tbl.mapVals {} (fun _ p => { p with throttles := p.throttles.filter (fun t => decide (t.req.ctx ≠ c) || decide (4 < t.req.port)) }) m.pcs })
  s.updCtx c (fun x => { x with
    st := if (x.engine.map (fun e => decide ((s.eng e).st = 2))).getD true then .opened else .bound
    engine := if (x.engine.map (fun e => decide ((s.eng e).st = 2))).getD true then none else x.engine
    pages := [], steps := [], pc := 0, stack := [], ctrs := [0, 0, 0, 0, 0, 0, 0, 0], ctrHeld := [], waiting := .none, fetching := false
    cache := [], pos := 0, startS := 0, preRun := false, entry := 0, policy := .ignore, forced := false, charges := []
    landing := 0, committed := false, triggered := false, inst := 0, tvoice := 0, queuedTrig := none, spin := 0, stalls := 0
    onCubStall := none, genDue := 0, heads := [], placedAt := none, stopAfter := false })

/-- The generation that would come next has orphans outstanding (R137). -/
def State.genWaits (s : State) (c : Nat) : Bool := s.orphansOf c (((s.ctx c).gen + 1) % 256)

/-- The generation increments, modulo 256 (R136). -/
def State.nextGen (s : State) (c : Nat) : State := s.updCtx c (fun x => { x with gen := (x.gen + 1) % 256 })

/-- A reset by the device at rung 4: the fault that caused it is in the record (R138, R141). -/
def State.deviceReset (s : State) (c cause idx : Nat) : State :=
  let x := s.ctx c
  let s := s.fault 0x106 4 .c (some c) (o2n x.engine) [word cause, word idx, word x.pc]
  if s.genWaits c then s.updCtx c (fun x => { x with genDue := 1 }) else (s.resetCtx c).nextGen c

/-- Everything the reset that ended a generation waits for has finished: no unit it released is still ramping. -/
def State.resetDone (s : State) (c : Nat) (p : Nat → Bool) : Bool :=
  !(Tbl.anyEntry (fun _ v => decide (v.owner = some c) && v.releasing && p v.relGen) s.voices ||
    Tbl.anyEntry (fun _ f => decide (f.owner = some c) && f.releasing && p f.relGen) s.fchs ||
    Tbl.anyEntry (fun _ k => decide (k.owner = some c) && k.releasing && p k.relGen) s.pchs)

/-! ### Functions (R97, R98) -/

/-- Timed actions of a function are cancelled with no completion; so are its completions and packets. -/
def State.dropFn (s : State) (f : Nat) : State :=
  let coms := s.sched.filter (fun t => decide (t.run.p.fn.val = f) && decide (t.run.op = .aocCtrl) && decide (pf t.run.p 4 8 2 = 3))
  let s := coms.foldl (fun s t => s.updAoc (pf t.run.p 4 0 5) (fun a => { a with pending := if a.pending = 2 then 1 else a.pending })) s
  { s with
    sched := s.sched.filter (fun t => decide (t.run.p.fn.val ≠ f))
    waiting := s.waiting.filter (fun r => decide (r.p.fn.val ≠ f))
    jobs := s.jobs.filter (fun j => decide (j.run.p.fn.val ≠ f))
    held := s.held.filter (fun c => decide (c.fn ≠ f)) }

/-- Every context of the function is reset and closed; a generation whose orphans are outstanding waits for them (R137). -/
def State.closeCtxs (s : State) (f : Nat) : State :=
  s.each (s.ctxsWhere (fun c => decide (c.st ≠ .free) && decide (c.st ≠ .closing) && decide (c.fn = f)))
    (fun c s =>
      let s := (s.resetCtx c).updCtx c (fun x => { x with st := .closing, engine := none, slot := 0 })
      if s.genWaits c then s.updCtx c (fun x => { x with genDue := 2 }) else s.nextGen c)

/-- The effects of R97 on one function. -/
def State.flr (s : State) (f : Nat) : State :=
  let s := s.dropFn f
  let s := s.closeCtxs f
  let s := s.each (Tbl.keysWhere (fun _ x => x.used && decide (x.fn = f)) s.scenes) (fun k s => s.updScene k (fun _ => {}))
  s.updFn f (fun _ => {})

end Sys2Proof.Machine
end

