-- ==== Sys2Proof/Machine/Clock.lean ====
section
/-! DEFINITION. The clock family: CLK_CONFIG, CLK_STEP, CLK_SYNC, TIME_SET and what happens to the ADPLL, the reference and
the timebase (spec/03_clocking_timebase.md). -/
namespace Sys2Proof.Machine

abbrev Ans := Host.Outcome State Fault Refusal

/-! ### Shared -/

/-- SLEWING (Table 3.9): a ramp, an offset slew or a return in progress. -/
def State.fixSlew (s : State) : State :=
  s.updClk (fun k => { k with slewing := k.rampEnd.isSome || k.slewEnd.isSome || decide (k.align = .returning) })

def State.clkEvent (s : State) (k : Nat) : State := s.updClk (fun c => { c with events := orBits c.events k })

/-- Locked to REFCLK, in holdover or returning: the DCO follows the declared ratio. -/
def Clk.following (k : Clk) : Bool :=
  k.locked && (decide (k.align = .locked) || decide (k.align = .aligned) || decide (k.align = .lost) || decide (k.align = .returning))

/-- The denominator Q of the ratio (R56). -/
def ratioQ (hz : Nat) : Nat := hz / Nat.gcd 1600000000 hz

/-- The shortest path between two offsets, in 2^-16 LC, at 10 ppm takes this many LC (R55). -/
def slewLc (a b : BitVec 16) : Nat :=
  let d := (b - a).toNat
  ceilDiv (min d (65536 - d) * 100000) 65536

/-- The offset of the lane grid at a lane cycle, on its way while a slew is in progress: 10 ppm along the shortest path (R55). -/
def Clk.offsetNow (k : Clk) (lc : Nat) : BitVec 16 :=
  if k.slewEnd.isNone then k.phaseOffset
  else
    let d := (k.phaseOffset - k.slewFrom).toNat
    let n := min ((lc - k.slewAt) * 65536 / 100000) (min d (65536 - d))
    if d ≤ 32768 then k.slewFrom + BitVec.ofNat 16 n else k.slewFrom - BitVec.ofNat 16 n

/-- A TRACE that has not yet passed its checks loses the reference (Table 15.5, check 0x08). -/
def State.traceLost (s : State) : State :=
  s.updCal (fun c => { c with batch := c.batch.map (fun b => if b.kind = 1 ∧ b.vals.isNone then { b with refBad := true } else b) })

/-- The DCO unlocks and the reference is released. -/
def State.unlock (s : State) : State :=
  (s.traceLost.laneSwitch false).updClk (fun k => { k with locked := false, refSrc := 0, band := 0, slewEnd := none, rangeWarn := false })

/-- 500 ppm in units of 2^-40. -/
def ppm500 : Int := 549755813

/-! ### CLK_CONFIG (R53 to R55, R494, R495) -/

def clkOn (p : Pkt) : Bool := pb p 4 0

def clkChanges (p : Pkt) (k : Clk) : Bool :=
  decide (k.enable ≠ clkOn p) || (clkOn p && (decide (k.refHz ≠ (pw p 5).toNat) || decide (k.bw.toNat ≠ pf p 4 1 2)))

/-- The return to REFCLK starts (R73). -/
def State.startReturn (s : State) : State := (s.updClk (fun k => { k with align := .returning, refSrc := 1 })).fixSlew

def actClkConfig (r : Run) (s : State) : State :=
  let p := r.p
  let s := s.endKind (fun k => decide (k = .clkLock) || decide (k = .clkSlew)) .busy 1
  if !clkOn p then
    let s := if s.clk.selfHold then s else (s.unlock.updClk (fun k => { k with align := .free })).fixSlew
    (s.updClk (fun k => { k with enable := false, q := 0, qualified := false })).complete r .ok 0
  else
    let off := BitVec.ofNat 16 (pf p 4 16 16)
    let hz := (pw p 5).toNat
    if s.clk.following && !clkChanges p s.clk then
      let old := s.clk.offsetNow s.lc
      let s := (s.updClk (fun k => { k with retHost := pb p 4 3, phaseOffset := off, slewEnd := none })).fixSlew
      let s := if s.clk.align = .lost ∧ s.clk.qualified = true then s.startReturn else s
      if old = off then s.complete r .ok 0
      else ((s.updClk (fun k => { k with slewEnd := some (s.lc + slewLc old off), slewFrom := old, slewAt := s.lc })).fixSlew).addJob r .clkSlew
    else
      let s := s.unlock
      let s := s.updClk (fun k => { k with
        enable := true, refHz := hz, bw := BitVec.ofNat 2 (pf p 4 1 2), retHost := pb p 4 3, phaseOffset := off
        q := ratioQ hz, align := .acquiring, refSrc := 1, offset := 0, qualified := false })
      s.fixSlew.addJob r .clkLock

def mClkConfig : Meaning where
  check r s := firstOf [
    (clkOn r.p && !(decide (10000000 ≤ (pw r.p 5).toNat) && decide ((pw r.p 5).toNat ≤ 500000000)), .badParam, 0),
    (clkOn r.p && decide ((s.cal.batch.map (fun b => b.kind)) = some 0), .busy, 0),
    (s.clk.following && clkChanges r.p s.clk && s.anyFchEnabled, .busy, 0)]
  act := actClkConfig

def execClkConfig (p : Pkt) (s : State) : Ans := .next (submit .clkConfig mClkConfig p s)

/-! ### CLK_STEP (R66 to R69) -/

def stepDelta (p : Pkt) : Int := signed (pw p 4)

/-- The cumulative offset plus the measured deviation stays within ±500 ppm. -/
def stepFits (s : State) (d : Int) : Bool :=
  let x := s.clk.offset + s.clk.freqErr + d
  decide (-ppm500 ≤ x) && decide (x ≤ ppm500)

def endsPhase (a : Align) : Align := if a = .aligned then .locked else a

/-- The ramp of a packet's DELTA starts in the present lane cycle. It ends the deterministic phase (R69), of an alignment held through a
holdover too (DEDUCED, log entry 65). -/
def State.beginRamp (s : State) (d : Int) (seq : Nat) : State :=
  (s.updClk (fun k => { k with
    rampEnd := some (s.lc + 16000), rampDelta := d, rampSeq := seq, align := endsPhase k.align, before := endsPhase k.before })).fixSlew

def actClkStep (r : Run) (s : State) : State :=
  if s.clk.rampEnd.isSome then s.addJob r (.clkStep (stepDelta r.p) 0)
  else (s.beginRamp (stepDelta r.p) r.seq).addJob r (.clkStep (stepDelta r.p) s.lc)

def mClkStep : Meaning where
  check r s := firstOf [
    (decide (21990232 < (stepDelta r.p).natAbs), .badParam, 0),
    (s.clk.rampEnd.isNone && !stepFits s (stepDelta r.p), .badParam, 0),
    (!s.clk.locked, .busy, 0)]
  act := actClkStep

def execClkStep (p : Pkt) (s : State) : Ans := .next (submit .clkStep mClkStep p s)

/-- The ramps that waited: the first that still passes its tests starts, those before it complete (R68). -/
def nextRamp : List Job → State → State
  | [], s => s
  | j :: js, s =>
    match j.kind with
    | .clkStep d _ =>
      if !stepFits s d then nextRamp js ((s.dropJobs (fun x => decide (x = j))).complete j.run .badParam 0)
      else if !s.clk.locked then nextRamp js ((s.dropJobs (fun x => decide (x = j))).complete j.run .busy 0)
      else s.beginRamp d j.run.seq
    | _ => nextRamp js s

def isStep : JobKind → Bool
  | .clkStep _ _ => true
  | _ => false

/-- The ramp ends: its DELTA joins the cumulative offset, whatever has become of its packet (R67, R83). -/
def execClkStepRampEnd (s : State) : Ans :=
  match s.clk.rampEnd with
  | none => .next s
  | some e =>
    let s := (((s.advanceTo e).updClk (fun k => { k with rampEnd := none, offset := k.offset + k.rampDelta })).clkEvent 7).fixSlew
    let s := s.endJobs (fun j => isStep j.kind && decide (j.run.seq = s.clk.rampSeq)) .ok 0
    .next (nextRamp (s.jobs.filter (fun j => isStep j.kind)) s)

def execPhaseSlewEnd (s : State) : Ans :=
  match s.clk.slewEnd with
  | none => .next s
  | some e =>
    let s := ((s.advanceTo e).updClk (fun k => { k with slewEnd := none })).fixSlew
    .next (s.endKind (fun k => decide (k = .clkSlew)) .ok 0)

/-! ### CLK_SYNC (R78 to R81) -/

def syncArms (p : Pkt) : Bool := pb p 4 0
def syncWait (p : Pkt) : Nat := (pq p 7).toNat

def actClkSync (r : Run) (s : State) : State :=
  if syncArms r.p then
    (s.updClk (fun k => { k with arm := some { loadTb := pb r.p 4 1, tbValue := pq r.p 5, waitLc := syncWait r.p, armedAt := s.lc } })).addJob r .sync
  else
    match s.clk.arm with
    | some a =>
      if a.mark.isSome then s.complete r .ok 0
      else (((s.updClk (fun k => { k with arm := none })).endKind (fun k => decide (k = .sync)) .busy 1)).complete r .ok 1
    | none => s.complete r .ok 0

def mClkSync : Meaning where
  check r s :=
    if syncArms r.p then firstOf [
      (decide (syncWait r.p = 0) || decide (2 ^ 40 < syncWait r.p), .badParam, 0),
      (!(decide (s.clk.align = .locked) || decide (s.clk.align = .aligned)) || s.anyFchEnabled || s.anyRunning || s.timedPending ||
        s.clk.arm.isSome || s.fwArmed, .busy, 0)]
    else firstOf [
      (pb r.p 4 1 || decide (pq r.p 5 ≠ 0) || decide (pq r.p 7 ≠ 0), .badParam, 0),
      (s.fwArmed, .busy, 0)]
  act := actClkSync

def execClkSync (p : Pkt) (s : State) : Ans := .next (submit .clkSync mClkSync p s)

/-- SYNC sampled high at E, a fraction `frac` (2^-16 LC) into the present lane cycle: B lies 128 LC after the lane boundary at
E + PHASE_OFFSET (R80, R81). With Q above 1 the grid is moved so that B is a boundary. -/
def execSyncMark (marginPs frac : BitVec 16) (s : State) : Ans :=
  match s.clk.arm with
  | none => .next s
  | some a =>
    if a.mark.isSome then .next s else
    let x := frac.toNat + s.clk.phaseOffset.toNat
    let b := s.lc + 128 + (if s.clk.q ≤ 1 then (x + 32768) / 65536 else x / 65536)
    let s := s.updClk (fun k => { k with arm := some { a with mark := some b }, syncMargin := marginPs })
    .next (if marginPs.toInt < 250 then s.clkEvent 6 else s)

/-- B (Table 3.8). DESIGN CHOICE, log entry 65: a SYNC whose mark is taken runs to B, and one without stays armed, whatever the DCO or the
reference does meanwhile. -/
def execSyncLoad (s : State) : Ans :=
  match s.clk.arm with
  | some { loadTb := ld, tbValue := v, mark := some b, .. } =>
    let s := s.advanceTo b
    let s := if ld then ({ s.flushNco with tb := v } : State).tmuLoad else s
    let s := (s.updClk (fun k => { k with arm := none, align := .aligned, tbState := if ld then .synced else k.tbState })).clkEvent 5
    let s := { s with divAt := s.lc }
    .next (s.endKind (fun k => decide (k = .sync)) .ok 0)
  | _ => .next s

def execClkSyncWaitExpiry (s : State) : Ans :=
  match s.clk.arm with
  | some { armedAt := t, waitLc := w, mark := none, .. } =>
    let s := (s.advanceTo (t + w)).updClk (fun k => { k with arm := none })
    let js := s.jobs.filter (fun j => decide (j.kind = .sync))
    .next (js.foldl (fun s j => s.timeoutRun j.run 0) (s.dropJobs (fun j => decide (j.kind = .sync))))
  | _ => .next s

/-! ### TIME_SET (R84) -/

def actTimeSet (r : Run) (s : State) : State :=
  let s := s.flushNco
  let old := s.tb
  let new := pq r.p 4
  let s := ({ s with tb := new } : State).updClk (fun k => { k with tbState := .set })
  let s := s.tmuLoad.fault 0x503 0 .p none 0 [lo32 old, hi32 old, lo32 new, hi32 new]
  s.complete r .ok 0

def mTimeSet : Meaning where
  accept r s := firstOf [
    (decide (r.p.act ≠ 0) && (s.clk.arm.isSome || s.sched.any (fun t => decide (t.run.op = .timeSet))), .busy, 0)]
  check r s := firstOf [(s.anyRunning || s.clk.arm.isSome || s.timedPending || (r.timed && decide (s.actAt = some s.lc)), .busy, 0)]
  act := actTimeSet

def execTimeSet (p : Pkt) (s : State) : Ans := .next (submit .timeSet mTimeSet p s)

/-! ### The ADPLL (R54, R60, R74) -/

/-- The lock sequence completes (Table 3.3): with Q = 1 the phase is guaranteed (R76, R77). -/
def execAdpllLock (band : BitVec 8) (tune : BitVec 16) (s : State) : Ans :=
  if s.clk.enable ∧ s.clk.align = .acquiring then
    let s := (s.laneSwitch true).updClk (fun k => { k with
      locked := true, refSrc := 1, align := if k.q = 1 then .aligned else .locked
      band := band, tuning := some (band, tune), locks := sat 65535 (k.locks + 1), offset := 0 })
    .next ((s.clkEvent 0).endKind (fun k => decide (k = .clkLock)) .ok 0)
  else .next s

def execRequalify (ok : Bool) (s : State) : Ans :=
  if s.clk.enable = true ∧ s.clk.locked = false then
    .next (s.updClk (fun k => { k with align := if ok then .acquiring else .free, refSrc := if ok then 1 else 0 }))
  else .next s

/-- The contexts that own a channel loss of lock stops, or a marker of one: a marker is claimed with its channel (Table 4.19). -/
def State.mutedOwners (s : State) : List Nat :=
  ((Tbl.keysWhere (fun _ f => decide (f.st = .running) || decide (f.st = .starting) || decide (f.st = .stopping)) s.fchs).filterMap (fun c => (s.fch c).owner)).eraseDups

/-- The mute request reaches a channel in the first lane cycle: its ramp runs from 1 to 17 LC (Table 3.6). -/
def stopForLock (c : Nat) (s : State) : State :=
  match (s.fch c).st with
  | .running | .starting | .stopping => (s.hwStopAt c (s.lc + 1)).updFch c (fun f => { f with events := orBits f.events 4 })
  | _ => s

/-- The DCO a SELF has locked to the on-module oscillator is released (R407). -/
def State.releaseDco (s : State) : State :=
  if s.clk.selfHold then (s.laneSwitch false).updClk (fun k => { k with locked := false, refSrc := 0, band := 0, selfHold := false }) else s

/-- The power-up SELF has tested the rows: memory enters service but for the pseudo-channels that failed training (Table 11.2). -/
def State.serveMem (s : State) : State :=
  (s.each (List.range 64) (fun k s => s.updPc k (fun p => { p with phase := if p.phase = .failed then .failed else .service }))).updMem (fun m => { m with trained := true })

/-- What the end of any batch does: the sampler's rotation resumes and the DCO is released after a SELF; after the power-up SELF
the device is ready and background element calibration starts (R398, R407, R417, R423). -/
def State.closeBatch (s : State) : State :=
  match s.cal.batch with
  | none => s
  | some b =>
    let s := s.updCal (fun c => { c with batch := none })
    let s := if b.kind = 0 then ({ s with mon := { s.mon with samplerRun := true, samplerCh := 0 } } : State).releaseDco else s
    if b.boot then ((s.updCal (fun c => { c with bgRun := true })).updSys (fun y => { y with ready := true })).serveMem.applyRows else s

/-- A batch fails a check: it is discarded whole, recorded and logged, and its packet completes (R411, R419). -/
def State.rejectBatch (s : State) (code : Nat) : State :=
  match s.cal.batch with
  | none => s
  | some b =>
    let s := s.closeBatch.updRec b.kind (fun r => { r with status := 0x32, result := BitVec.ofNat 24 code })
    (s.fault 0x801 0 .p none 0 [word code]).endKind (fun k => decide (k = .cal) || decide (k = .calRestoreCommit)) .calImplausible code

/-- A SELF or TRACE stops with check 0x41 and its INSTANCE (R412); a restart, INSTANCE 3, leaves the records unchanged (R424). -/
def State.abandonBatch (s : State) (inst : Nat) : State :=
  if !s.selfRuns then s
  else if inst = 3 then (s.rejectBatch 0x341).updCal (fun c => { c with recs := s.cal.recs })
  else s.rejectBatch (0x41 + 256 * inst)

/-- The reference was lost in the 1 µs window that now ends: that loss decides, and the lock is kept (R72). DEDUCED, log entry 65: the
window is the 1,600 LC up to the command. -/
def State.refDecides (s : State) : Bool :=
  decide (s.clk.align = .lost) && (match s.clk.refLostAt with | some t => decide (s.lc < t + 1600) | none => false)

/-- Table 3.6, in one step. DESIGN CHOICE, log entry 65: a CLK_STEP ramp in progress runs on to its end, and a CLK_CONFIG that waits for
its slew waits until it is superseded or times out. -/
def execLossOfLock (s : State) : Ans :=
  if !s.clk.locked || s.refDecides then .next s else
  let owners := s.mutedOwners
  let s := s.each (Tbl.keysWhere (fun _ _ => true) s.fchs) stopForLock
  let held := s.clk.selfHold
  let s := (s.laneSwitch false).updClk (fun k => { k with
    locked := false, refSrc := if k.selfHold then 0 else 1, align := if k.selfHold then .free else .acquiring, losses := sat 65535 (k.losses + 1)
    selfHold := false, slewEnd := none, offset := 0, rangeWarn := false })
  let s := ((s.clkEvent 1).fixSlew).abandonBatch 2
  let s := if held then s.updClk (fun k => { k with band := 0 }) else s
  let s := if owners.isEmpty then s.fault 0x501 2 .p none 0 []
           else owners.foldl (fun s c => s.fault 0x501 2 .cAndP (some c) 0 []) s
  .next (s.fireSrc (srcIs 7 2048) s.lc)

/-! ### The reference (R66, R70 to R73) -/

/-- Holdover (R70, R71). -/
def State.loseRef (s : State) : State :=
  let k := s.clk
  if k.align = .locked ∨ k.align = .aligned ∨ k.align = .returning then
    let s := s.traceLost.updClk (fun k => { k with
      before := if k.align = .returning then k.before else k.align
      align := .lost, refSrc := 2, rangeWarn := false, qualified := false, losses := sat 65535 (k.losses + 1), refLostAt := some s.lc })
    let s := ((s.clkEvent 2).fixSlew).fault 0x502 3 .a none 0 []
    s.fireSrc (srcIs 7 3072) s.lc
  else s

def execLossOfReference (s : State) : Ans := .next s.loseRef

def execRefReturned (s : State) : Ans :=
  if s.clk.align = .lost then
    let s := (s.updClk (fun k => { k with qualified := true })).clkEvent 3
    .next (if s.clk.retHost then s else s.startReturn)
  else .next s

def suspect (t : TbState) : TbState := if t = .set ∨ t = .synced then .suspect else t

/-- Table 3.5: gap in picoseconds, change in 10^-9. -/
def execReturnEnd (gapPs changePpb : Nat) (s : State) : Ans :=
  if s.clk.align = .returning then
    let inside := decide (gapPs * s.clk.q ≤ 150000000) && decide (changePpb ≤ 50)
    let s := if inside then (s.updClk (fun k => { k with align := k.before })).clkEvent 4
      else s.updClk (fun k => { k with
        align := if k.q = 1 ∧ k.offset = 0 then .aligned else .locked, tbState := suspect k.tbState })
    .next s.fixSlew
  else .next s

/-- CLK_FREQ_ERR and RANGE_WARN (R66): 500 and 550 ppm in units of 2^-40. Beyond 550 ppm the reference is lost. -/
def execRefDeviationMeasure (dev : BitVec 32) (s : State) : Ans :=
  if s.clk.refSrc = 1 then
    let d := dev.toInt
    let s := (s.updClk (fun k => { k with
      freqErr := d, rangeWarn := decide (ppm500 < d.natAbs) && decide (d.natAbs ≤ 604731395)
      phaseErr := (Config.freeWord s.fresh).setWidth 16 })).bump
    .next (if 604731395 < d.natAbs then s.loseRef else s)
  else .next s

/-! ### Reads and ticks -/

/-- A read of the low half latches the upper half (R85). -/
def execClkTbLoRead (win : Option (Fin 64)) (s : State) : Ans :=
  match win with
  | none => .next ((s.updClk (fun k => { k with tbHi := hi32 s.tb })).emit (.readAnswer (BitVec.setWidth 64 (lo32 s.tb))))
  | some f => .next ((s.updFn f (fun w => { w with tbHi := hi32 s.tb })).emit (.readAnswer (BitVec.setWidth 64 (lo32 s.tb))))

/-- The next lane cycle, from the present one, whose count is a multiple of 2^k. -/
def nextTick (s : State) (k : Nat) : Nat := s.lc + (2 ^ k - s.tb.toNat % 2 ^ k) % 2 ^ k

def execTimerTick (k : Fin 41) (s : State) : Ans :=
  let s := s.advanceTo (nextTick s k)
  .next (s.fireSrc (srcIs 5 k) s.lc)

end Sys2Proof.Machine
end

