-- ==== Sys2Proof/Machine/Fetch.lean ====
section
/-! DEFINITION. What packets and events share of the squirrel and the memory controllers: addresses and their owners, poison, DRAM pages
and row counters, which copy is read, tags, write queues, BULK reads, and the owl's order of work (spec/10_waveform_memory_fetch.md
R278 to R297, spec/11_dram_controller_integrity.md R305 to R309, R322 to R330). -/
namespace Sys2Proof.Machine

/-! ### Naming a segment (Table 4.19, R92) -/

/-- The slot and generation of a SEG value. -/
def slotOf (w : W32) : Nat := bits w 0 16
def segGenOf (w : W32) : Nat := bits w 16 8
def segValue (s : State) (k : Nat) : Nat := k + 65536 * (s.seg k).gen

/-- The segment named exists. -/
def State.segLive (s : State) (w : W32) : Bool := (s.seg (slotOf w)).used && decide ((s.seg (slotOf w)).gen = segGenOf w)

/-! ### Whose address it is (R278 to R281, R328) -/

/-- The segment placed at a device address. -/
def State.segAt (s : State) (d : Nat) : Option Nat :=
  (Tbl.keysWhere (fun _ g => g.used && decide (g.ext ≤ d / 16384) && decide (d / 16384 < g.ext + g.nExt)) s.segs).head?

/-- The context whose program area holds a device address, with the page. -/
def State.pageAt (s : State) (d : Nat) : Option (Nat × Nat × Nat) :=
  (Tbl.keysWhere (fun _ x => x.pages.any (fun p => decide (p.2 ≤ d / 16384) && decide (d / 16384 < p.2 + 8))) s.ctxs).head?.bind
    (fun c => ((s.ctx c).pages.find? (fun p => decide (p.2 ≤ d / 16384) && decide (d / 16384 < p.2 + 8))).map (fun p => (c, p)))

/-- The context that owns a device address. -/
def State.ownerOf (s : State) (d : Nat) : Option Nat :=
  match s.segAt d with
  | some k => some (s.seg k).ctx
  | none => (s.pageAt d).map (fun x => x.1)

/-- The word has a partner copy: a mirrored segment, a program area, or the reserved area's device structures. -/
def State.mirroredAt (s : State) (d : Nat) : Bool :=
  match s.segAt d with
  | some k => (s.seg k).mirrored
  | none => (s.pageAt d).isSome || decide (2088960 ≤ d / 16384)

/-- The other copy: the neighbouring unit of the pair (R280). -/
def otherCopy (d : Nat) : Nat := if d / 256 % 2 = 0 then d + 256 else d - 256

/-- The samples of a segment that a 32-byte word holds: the first and how many. -/
def State.samplesAt (s : State) (k d : Nat) : Nat × Nat :=
  let g := s.seg k
  let u := (d - 16384 * g.ext) / 256
  let o := 256 * (if g.mirrored then u / 2 else u) + d % 256 / 32 * 32
  let a := 8 * o / g.fmt.bits
  (a, min ((8 * (o + 32) - 1) / g.fmt.bits + 1) g.samples - a)

/-- Detail form M (Table 16.7). -/
def detM (d seg first n : Nat) (voice : Option Nat) (how us : Nat) : List W32 :=
  let a := unitOf (d / 256)
  [word d, pack [(0, d / 2 ^ 32), (3, dbankOf a), (8, rowOf a)], word seg, word first, word n,
   pack [(0, o2n voice), (8, b2n voice.isSome)], word how, word us]

/-- The detail of a word, with the segment and samples it holds. -/
def State.wordDet (s : State) (d : Nat) (how us : Nat) : List W32 :=
  match s.segAt d with
  | some k => detM d (segValue s k) (s.samplesAt k d).1 (s.samplesAt k d).2 none how us
  | none => detM d 0 0 0 none how us

/-! ### Poison and repair (R323, R324, R327) -/

/-- A word poisoned: it holds zeros; a step whose copies are both poisoned reads as zeros. -/
def State.poisonWord (s : State) (d : Nat) : State :=
  let w := d / 32
  let s := s.updMem (fun m => { m with poison := insertNat w m.poison, poisonedCount := sat 65535 (m.poisonedCount + 1) })
  let s := s.updSql (fun q => { q with dram := Memory.writeMany q.dram (32 * w) (List.replicate 32 0) })
  match s.pageAt d with
  | some (c, p) =>
    if s.mem.poison.contains (otherCopy d / 32) then
      let u := (d - 16384 * p.2) / 512
      s.updCtx c (fun x => { x with steps := Tbl.clear x.steps (2048 * p.1 + 8 * u + d % 256 / 32) 1 })
    else s
  | none => s

/-- POISON_FOUND to the owning context, of a segment or of a program area (R327); free and reserved space has none. -/
def State.poisonFound (s : State) (d : Nat) : State :=
  match s.ownerOf d with
  | some c => s.fault 0x604 5 .c (some c) (pcOf (d / 256)) (s.wordDet d 0 0)
  | none => s

/-- An uncorrectable word treated as the scrub treats it. -/
def State.scrubBad (s : State) (d : Nat) : State :=
  if s.mem.poison.contains (d / 32) then s
  else if s.mirroredAt d then
    (if s.badByte (otherCopy d) || s.mem.repair.contains (otherCopy d / 32 * 32) then
      ((s.poisonWord d).poisonWord (otherCopy d)).poisonFound d
     else s.updMem (fun m => { m with repair := m.repair ++ [d / 32 * 32] }))
  else (s.poisonWord d).poisonFound d

/-- A word rewritten from its partner. -/
def State.copyBack (s : State) (d : Nat) : State :=
  let w := d / 32 * 32
  let src := Memory.readMany s.sql.dram (otherCopy w) 32
  (s.updSql (fun q => { q with dram := Memory.writeMany q.dram w src })).updMem (fun m => { m with
    repairs := sat 65535 (m.repairs + 1), poison := m.poison.filter (fun x => decide (x ≠ w / 32)) })

/-! ### Pages and row counters (R309, R310, R317 to R319) -/

/-- The set bits of a bank's history. -/
def ones (h : BitVec 4) : Nat := ((List.range 4).filter (fun i => h.getLsbD i)).length

/-- The row a bank opens for a row: its spare where it is retired (R334). -/
def DBank.target (b : DBank) (row : Nat) : Nat := ((b.redirect.find? (fun x => decide (x.1 = row))).map (fun x => x.2)).getD row

/-- An activation is counted: the row's own entry, a free one, or the one with the smallest count. DESIGN CHOICE, log entry 72: of equals,
the first. -/
def bumpRow (row : Nat) (r : Asker) (l : List RowCtr) : List RowCtr :=
  if l.any (fun e => decide (e.row = row)) then l.map (fun e => if e.row = row then { e with count := e.count + 1, req := r } else e)
  else if l.length < 256 then l ++ [{ row := row, count := 1, req := r }]
  else
    let m := l.foldl (fun m e => min m e.count) (l.headD {}).count
    match l.find? (fun e => decide (e.count = m)) with
    | some e => (l.erase e) ++ [{ row := row, count := m + 1, req := r }]
    | none => l

/-- One access of a DRAM bank: the history, the page left open or closed, and the row counter of an activation. -/
def DBank.access (b : DBank) (row : Nat) (r : Asker) (lc : Nat) : DBank :=
  let t := b.target row
  let hit := decide (b.open_ = some t)
  let h := (b.hist <<< 1) ||| (if hit then 1#4 else 0#4)
  { b with
    hist := h, accesses := sat 64 (b.accesses + 1), lastUse := lc
    open_ := if decide (64 ≤ b.accesses) && decide (2 ≤ ones h) then some t else none
    rows := if hit then b.rows else bumpRow t r b.rows }

/-- The access of a unit by a requester. -/
def State.access (s : State) (d : Nat) (r : Asker) : State :=
  let k := pcOf (d / 256)
  let a := unitOf (d / 256)
  let s := s.updDBank k (dbankOf a) (fun b => b.access (rowOf a) r s.lc)
  s.updPc k (fun p => { p with throttles := p.throttles.map (fun t =>
    if t.req = r then { t with last := s.lc, quiet := t.quiet && !(decide (t.bank = dbankOf a) && decide (t.row = rowOf a)) } else t) })

/-! ### Which pseudo-channels serve (R325, R330, R336, R337) -/

/-- Requests are served. -/
def Pc.serves (p : Pc) : Bool := !p.out && decide (p.phase ≠ .failed)

/-- The copy a fetch reads: its own, else the other where that one serves (R280). -/
def State.copyFor (s : State) (d : Nat) : Option Nat :=
  if (s.pc (pcOf (d / 256))).serves then some d
  else if s.mirroredAt d && (s.pc (pcOf (otherCopy d / 256))).serves then some (otherCopy d)
  else none

/-! ### Tags (R284, R297) -/

/-- The lowest free tag of a landing bank among tags 16 lo + bank up to 16 hi. -/
def State.freeTag (s : State) (bank lo hi : Nat) : Option Nat :=
  (firstFrom (fun k => !(Tbl.get {} s.sql.tags (16 * k + bank)).held) lo (hi - lo)).map (fun k => 16 * k + bank)

def State.bankTags (s : State) (bank : Nat) : Nat := tagCount s (fun t _ => decide (t % 16 = bank))

/-- The tag granted from a pool: of the free ones, the lowest whose landing bank has the most free slots. -/
def State.pickTag (s : State) (lo hi : Nat) : Option Nat :=
  (List.range 16).foldl (fun best b =>
    match s.freeTag b lo hi, best with
    | some t, some u => if s.bankTags (t % 16) < s.bankTags (u % 16) ∨ (s.bankTags (t % 16) = s.bankTags (u % 16) ∧ t < u) then some t else some u
    | some t, none => some t
    | none, u => u) none

def State.generalTag (s : State) : Option Nat := s.pickTag 128 4096
/-- The reserve first, then the general pool. -/
def State.urgentTag (s : State) : Option Nat := match s.pickTag 0 128 with | some t => some t | none => s.generalTag

/-- A tag is granted: its sequence number increments. -/
def State.grantTag (s : State) (t : Nat) (r : Req) (native : Bool) : State :=
  let n := Tbl.get 0 s.sql.seqs t + 1
  s.updSql (fun q => { q with
    seqs := Tbl.set 0 q.seqs t n
    tags := Tbl.set {} q.tags t { r.asTag with held := true, issued := s.lc, seq := n, native := native, retry := r.retry } })

def State.freeTagNo (s : State) (t : Nat) : State := s.updSql (fun q => { q with tags := Tbl.set {} q.tags t {} })

/-- Who a request or a tag comes from. -/
def Tag.asker (t : Tag) : Asker := { ctx := t.ctx, gen := t.gen, port := t.port, voice := t.voice, seg := if t.isStep then none else some t.seg
                                     unit := if t.isStep then some (t.dpa / 256) else none }

/-! ### Deadlines and urgency (Table 10.2, R293) -/

/-- The latency target of a port in LC. -/
def portTarget (port : Nat) : Nat := if port < 2 then 384 else if port = 2 then 6400 else if port = 6 then 320000 else 32000

/-- The urgency of a request by its slack: 0 above four targets, 3 at most one. -/
def urgency (port deadline lc : Nat) : Nat :=
  let t := portTarget port
  if lc + 4 * t < deadline then 0 else if lc + 2 * t < deadline then 1 else if lc + t < deadline then 2 else 3

/-! ### Write queues (R307, R308) -/

/-- The unit at in-PC address a of a pseudo-channel, as its device address (R278). -/
def dpaOf (k a : Nat) : Nat := 256 * (64 * a + 2 * ((k % 32 + 32 - a % 32) % 32) + k / 32)

/-- A queued write is issued: the longest issue-to-completion time of its port is kept (Table 10.21). -/
def State.issueWrite (s : State) (k : Nat) (x : QWrite) : State :=
  (s.updDBank k (dbankOf x.unit) (fun b => b.access (rowOf x.unit) { port := x.port, unit := some (dpaOf k x.unit / 256) } s.lc)).updSql (fun q => { q with
    portLat := Tbl.set 0 q.portLat x.port (sat (2 ^ 20 - 1) (max (Tbl.get 0 q.portLat x.port) (s.lc - x.since))) })

/-- A read that finds a write of its unit queued waits for that write, which is issued next (R308). -/
def State.drainUnit (s : State) (d : Nat) : State :=
  let k := pcOf (d / 256)
  let a := unitOf (d / 256)
  match (s.pc k).wq.find? (fun x => decide (x.unit = a)) with
  | some x => (s.updPc k (fun p => { p with wq := p.wq.filter (fun y => decide (y.unit ≠ a)) })).issueWrite k x
  | none => s

/-- One pseudo-channel's write queue takes a unit: coalesced, or in a free entry; with a full queue in service the oldest is issued. -/
def State.enqueue (s : State) (k a port : Nat) : State :=
  let p := s.pc k
  let w : QWrite := { unit := a, port := port, since := s.lc }
  if p.wq.any (fun x => decide (x.unit = a)) then s
  else if p.wq.length < 64 then s.updPc k (fun p => { p with wq := p.wq ++ [w] })
  else if p.serves then
    match p.wq with
    | x :: xs => (s.updPc k (fun p => { p with wq := xs ++ [w] })).issueWrite k x
    | [] => s
  else s

/-- A read of the unit waits on the pseudo-channel. -/
def State.readWaits (s : State) (k a : Nat) : Bool :=
  Tbl.anyEntry (fun _ t => t.held && !t.landed && decide (pcOf (t.dpa / 256) = k) && decide (unitOf (t.dpa / 256) = a)) s.sql.tags

/-- A write of a unit enters the queue of each copy's pseudo-channel, a FAILED copy excepted (R307, R324); a read of it that waits there
makes it issue next (R308). -/
def State.enqueueUnit (s : State) (port d : Nat) : State :=
  let ks := if s.mirroredAt d then [pcOf (d / 256), partner (pcOf (d / 256))] else [pcOf (d / 256)]
  let a := unitOf (d / 256)
  (ks.filter (fun k => decide ((s.pc k).phase ≠ .failed))).foldl (fun s k =>
    let s := s.enqueue k a port
    if s.readWaits k a && (s.pc k).serves then s.drainUnit (dpaOf k a) else s) s

/-- Writes of the units that bytes [o, o + n) of a DRAM segment touch. -/
def State.enqueueRange (s : State) (g : Seg) (port o n : Nat) : State :=
  (List.range (ceilDiv (o % 256 + n) 256)).foldl (fun s i => s.enqueueUnit port ((g.unitDpas (o / 256 + i)).headD 0)) s

/-! ### The owl's order of work (R322, R324, R328) -/

/-- A waiting repair: the bad copy is rewritten from the good one. -/
def State.repairWord (s : State) (d : Nat) : State :=
  let s := ((s.copyBack d).updMem (fun m => { m with repair := m.repair.filter (fun x => decide (x ≠ d)) })).enqueueUnit 6 d
  s.fault 0x605 3 .cp (s.ownerOf d) (pcOf (d / 256)) (s.wordDet d 0 0)

/-- The repairs and write-backs that can be served: their pseudo-channels serve. -/
def State.served (s : State) (l : List Nat) : List Nat := l.filter (fun d => (s.pc (pcOf (d / 256))).serves)

/-- Corrected units written back. -/
def State.writeBacks (s : State) : State :=
  let l := s.served s.mem.writeBack
  (l.foldl (fun s d => s.enqueueUnit 6 d) s).updMem (fun m => { m with writeBack := m.writeBack.filter (fun d => !l.contains d) })

/-- Before zeroing and scrubbing the owl repairs mirrored copies and then writes corrected units back. -/
def State.owlAhead (s : State) : State := ((s.served s.mem.repair).foldl (fun s d => s.repairWord d) s).writeBacks

/-- The scrub is behind its hourly schedule: 2^27 units in 5,760,000,000,000 LC from power-up. -/
def State.scrubBehind (s : State) : Bool :=
  decide ((s.mem.passes * 2 ^ 27 + s.mem.scrubUnit + 1) * 5760000000000 ≤ s.lc * 2 ^ 27)

/-! ### BULK reads (R285, R292, R330) -/

/-- A BULK read of n units from unit `first` on begins; records of packets that have ended go. -/
def State.addBulk (s : State) (r : Run) (goal : BulkFor) (port k first n : Nat) : State :=
  s.updSql (fun q => { q with bulk := q.bulk.filter (fun b => s.jobs.any (fun j => decide (j.run.seq = b.id))) ++ [
    { id := r.seq, goal := goal, port := port, ctx := r.p.ctx, gen := (s.ctx r.p.ctx).gen, seg := k, segGen := (s.seg k).gen, next := first
      last := first + n, since := s.lc }] })

/-- The packet of a BULK read is still in execution. -/
def State.bulkLive (s : State) (id : Nat) : Bool := s.jobs.any (fun j => decide (j.run.seq = id))

/-- The unit a BULK read asks for next. -/
def Bulk.unit? (b : Bulk) : Option Nat :=
  match b.again with
  | u :: _ => some u
  | [] => if b.next < b.last then some b.next else none

/-- It has been asked for. -/
def Bulk.took (b : Bulk) (lc : Nat) : Bulk :=
  match b.again with
  | _ :: l => { b with again := l, since := lc }
  | [] => { b with next := b.next + 1, since := lc }

def State.updBulk (s : State) (id : Nat) (f : Bulk → Bulk) : State :=
  s.updSql (fun q => { q with bulk := q.bulk.map (fun b => if b.id = id then f b else b) })

/-- A unit whose read failed is asked for once more. -/
def State.askAgain (s : State) (id u : Nat) : State := s.updBulk id (fun b => { b with again := b.again ++ [u] })

/-- Bytes of the first 4,096 samples of a segment. -/
def Seg.headBytes (g : Seg) : Nat := min g.bytes (64 * g.fmt.unit64)

/-- The units that hold them. -/
def Seg.copyUnits (g : Seg) : Nat := ceilDiv g.headBytes 256

/-- A unit of a segment that SEG_MIRROR places anew, written to the new placement. -/
def State.moveMirror (s : State) (k o : Nat) (d : List Byte) : State :=
  match (s.seg k).newExt with
  | some (e, n) => s.writeDram { s.seg k with ext := e, nExt := n, mirrored := !(s.seg k).mirrored } o d
  | none => s

/-- The data of a unit is moved on into the copy it is for; what goes to the host is written by the end of the transfer. -/
def State.moveUnit (s : State) (b : Bulk) (u : Nat) : State :=
  let g := s.seg b.seg
  let d := s.readDram g (256 * u) (min 256 (g.bytes - 256 * u))
  match b.goal with
  | .host => s
  | .pin => match g.pin with | some (k, o, _) => s.writeBank k (o + 256 * u) d | none => s
  | .mirror => s.moveMirror b.seg (256 * u) d
  | .jump c j => match ((s.ctx c).jump j).copy with | some (k, o) => s.writeBank k (o + 256 * u) (d.take (g.headBytes - 256 * u)) | none => s

/-- The packet of a BULK read ends: its record goes, and its tags are freed, or abandoned where their data is outstanding. -/
def State.endBulk (s : State) (id : Nat) : State :=
  (s.updSql (fun q => { q with bulk := q.bulk.filter (fun b => decide (b.id ≠ id)) })).abandonTags (fun t => decide (t.bulk = some id))

/-- A unit without a mirror lies on a pseudo-channel out of normal service, where reads on ports 3 and 4 and writes wait (R330). -/
def State.unitWaits (s : State) (g : Seg) (u : Nat) : Bool :=
  g.bank.isNone && !g.mirrored && (s.pc (pcOf ((g.fetchDpa u) / 256))).out

/-- The units of a packet that move through DRAM without a mirror: what SEG_WRITE writes, what a BULK read still asks for. -/
def State.unitsOf (s : State) (r : Run) : List (Seg × Nat) :=
  let k := pf r.p 4 0 16
  let g := s.seg k
  match r.op with
  | .segWrite =>
    let o := (pw r.p 5).toNat * g.fmt.unit64
    let n := (pw r.p 6).toNat * g.fmt.unit64
    (List.range (min 64 (ceilDiv (o % 256 + n) 256))).map (fun i => (g, o / 256 + i))
  | _ => (s.sql.bulk.filter (fun b => decide (b.id = r.seq))).flatMap (fun b =>
      (b.again ++ (List.range (min 64 (b.last - b.next))).map (fun i => b.next + i)).map (fun u => (s.seg b.seg, u)))

/-- A transfer or a copy waits for a pseudo-channel to return. -/
def State.heldUp (s : State) (r : Run) : Bool := (s.unitsOf r).any (fun x => s.unitWaits x.1 x.2)

/-- The pseudo-channel k has returned: the command timeouts of the packets that waited for it go on (R330). -/
def State.resumeTimeouts (s : State) (k : Nat) : State :=
  let t := (s.pc k).outAt
  { s with jobs := s.jobs.map (fun j =>
      if (s.unitsOf j.run).any (fun x => x.1.bank.isNone && !x.1.mirrored && decide (pcOf ((x.1.fetchDpa x.2) / 256) = k))
      then { j with run := { j.run with born := j.run.born + (s.lc - max t j.run.born) } } else j) }

end Sys2Proof.Machine
end

