-- ==== Sys2Proof/Machine/Context.lean ====
section
/-! DEFINITION. The context family: opening, binding, claiming, releasing, resetting and closing a context, and the ends of
the drains these begin (spec/05_contexts_engines.md). -/
namespace Sys2Proof.Machine

/-! ### The allocator's turn (R146) -/

/-- A request that cannot be granted is a decision too; it completes at once. -/
def allocFail (pool c : Nat) (st : Status) (s : State) : State :=
  if st = .noResource then { s with allocPtr := (c + 1) % 1024, allocLast := Tbl.set 0 s.allocLast pool (s.lc + 1) } else s

/-- FREE or CLOSING. -/
def State.gone (s : State) (c : Nat) : Bool := decide ((s.ctx c).st = .free) || decide ((s.ctx c).st = .closing)

/-- A start of a scene that holds the context is pending (R186). -/
def State.scenePending (s : State) (c : Nat) : Bool :=
  s.sched.any (fun t => decide (t.run.op = .scnStartAt) && ((s.scene (pf t.run.p 4 0 8)).members.any (fun m => decide (m.1 = c)))) ||
  s.jobs.any (fun j => match j.kind with | .sceneStart k => (s.scene k).members.any (fun m => decide (m.1 = c)) | _ => false)

/-! ### CTX_OPEN (R492, R136, R137) -/

def openAny (p : Pkt) : Bool := pb p 4 16

/-- An open of the context waits for its orphans. -/
def State.openWaits (s : State) (c : Nat) : Bool := s.jobs.any (fun j => decide (j.kind = .ctxOpenWait c))

/-- The lowest-numbered FREE context. -/
def State.freeCtx (s : State) : Option Nat := firstBelow 1024 (fun c => decide ((s.ctx c).st = .free) && !s.openWaits c)

def openTarget (p : Pkt) (s : State) : Option Nat := if openAny p then s.freeCtx else some (pf p 4 0 10)

/-- The context opens with the next generation; its fault counters, FAULTED and its jump slots' overruns start at 0. -/
def State.openCtx (s : State) (c fn : Nat) : State :=
  s.updCtx c (fun x => { st := .opened, fn := fn, gen := (x.gen + 1) % 256, minLead := x.minLead, genDue := 0 })

def genResult (s : State) (c : Nat) : Nat := (s.ctx c).gen * 65536

def actCtxOpen (r : Run) (s : State) : State :=
  match openTarget r.p s with
  | none => s.complete r .noResource 0
  | some c =>
    let s := s.allocTurn poolCtx (if openAny r.p then r.p.fn.val else c)
    if s.genWaits c then s.addJob r (.ctxOpenWait c)
    else
      let s := s.openCtx c r.p.fn.val
      s.complete r .ok (c + genResult s c)

def mCtxOpen : Meaning where
  check r s :=
    let c := pf r.p 4 0 10
    if openAny r.p then firstOf [(decide (c ≠ 0), .badParam, 0), (decide (s.freeCtx = none), .noResource, 0)]
    else firstOf [
      (!(decide ((s.ctx c).st = .free) && !s.openWaits c || decide ((s.ctx c).st = .closing) && decide ((s.ctx c).fn = r.p.fn.val)), .busy, 0)]
  act := actCtxOpen
  fail r st s := allocFail poolCtx r.p.fn.val st s

def execCtxOpen (p : Pkt) (s : State) : Ans := .next (submit .ctxOpen mCtxOpen p s)

/-! ### CTX_RESET (R136 to R138) -/

/-- The reset is done at once; its packet completes when every ramp has ended. -/
def State.doReset (s : State) (r : Run) (c : Nat) : State := ((s.resetCtx c).nextGen c).addJob r (.ctxReset c (s.ctx c).gen)

def actCtxReset (r : Run) (s : State) : State :=
  let c := r.p.ctx.val
  if s.genWaits c then s.addJob r (.ctxOpenWait c) else s.doReset r c

def mCtxReset : Meaning where
  check r s := firstOf [(s.gone r.p.ctx, .busy, 0)]
  act := actCtxReset

def execCtxReset (p : Pkt) (s : State) : Ans := .next (submit .ctxReset mCtxReset p s)

/-- Everything the reset waited for has ended: RESULT is the generation it began. -/
def State.endReset (s : State) (c : Nat) (j : Job) : State :=
  match j.kind with
  | .ctxReset d g => if d = c ∧ s.resetDone c (fun h => decide (h = g)) = true then (s.dropJobs (fun x => decide (x = j))).complete j.run .ok ((g + 1) % 256 * 65536) else s
  | _ => s

def execResetComplete (c : Fin 1024) (s : State) : Ans := .next (s.jobs.foldl (fun s j => s.endReset c j) s)

/-- The orphans of the next generation are reclaimed: what waited goes on (R137). -/
def execOrphansReclaimed (c : Fin 1024) (s : State) : Ans :=
  if s.genWaits c then .next s
  else if (s.ctx c).genDue = 1 then .next ((s.resetCtx c).nextGen c)
  else if (s.ctx c).genDue = 2 then .next ((s.updCtx c (fun x => { x with genDue := 0 })).nextGen c)
  else match s.findJob (fun k => decide (k = .ctxOpenWait c)) with
  | none => .next s
  | some j =>
    let s := s.dropJobs (fun x => decide (x = j))
    if j.run.op = .ctxOpen then
      let s := s.openCtx c j.run.p.fn.val
      .next (s.complete j.run .ok (c.val + genResult s c))
    else .next (s.doReset j.run c)

/-! ### CTX_CLOSE (R136, R138) -/

def mCtxClose : Meaning where
  check r s := firstOf [(s.gone r.p.ctx, .busy, 0)]
  act r s :=
    let c := r.p.ctx.val
    let s := (s.resetCtx c).updCtx c (fun x => { x with st := .closing, engine := none, slot := 0 })
    s.addJob r (.ctxClose c (s.ctx c).gen)

def execCtxClose (p : Pkt) (s : State) : Ans := .next (submit .ctxClose mCtxClose p s)

/-- Every orphan of the context, of the generations p, is reclaimed. -/
def State.noOrphans (s : State) (c : Nat) (p : Nat → Bool) : Bool := !Tbl.anyEntry (fun _ t => t.abandoned && decide (t.ctx = c) && p t.gen) s.sql.tags

/-- The drain of a generation of the context has finished. -/
def State.drained (s : State) (c : Nat) (p : Nat → Bool) : Bool := s.resetDone c p && s.noOrphans c p

/-- A close completes when the drain of the generation it ended has finished (R136). -/
def State.endClose (s : State) (c : Nat) (j : Job) : State :=
  match j.kind with
  | .ctxClose d g => if d = c ∧ s.drained c (fun h => decide (h = g)) = true then (s.dropJobs (fun x => decide (x = j))).complete j.run .ok 0 else s
  | _ => s

/-- The drain of a close has finished: its packet completes, and a context still CLOSING, with nothing left to drain, is FREE. -/
def execCloseDrainEnd (c : Fin 1024) (s : State) : Ans :=
  let s := s.jobs.foldl (fun s j => s.endClose c j) s
  .next (if (s.ctx c).st = .closing ∧ (s.ctx c).genDue = 0 ∧ s.drained c (fun _ => true) = true then s.updCtx c (fun x => { x with st := .free, fn := 0 }) else s)

/-! ### CTX_BIND (R135) -/

def State.slotFree (s : State) (k : Nat) : Bool := decide ((s.eng (k / 4)).st ≠ 2) && !s.slotUsed (k / 4) (k % 4)

/-- The lowest free thread slot of a sett's 64, numbered 4 × engine + slot. -/
def State.settSlot (s : State) (sett : Nat) : Option Nat := firstFrom s.slotFree (64 * sett) 64
def State.settFree (s : State) (sett : Nat) : Nat := ((List.range 64).filter (fun k => s.slotFree (64 * sett + k))).length
/-- The sett with the most free slots, the lowest-numbered of equals. -/
def State.roomiest (s : State) : Nat := (List.range 16).foldl (fun b k => if s.settFree b < s.settFree k then k else b) 0

def bindTarget (p : Pkt) (s : State) : Option Nat := s.settSlot (if pb p 4 8 then s.roomiest else pf p 4 0 4)

/-- The steps pinned by the jump slots: the 16 from each ENTRY (R130). -/
def Ctx.pinned (x : Ctx) : List Nat :=
  (Tbl.keysWhere (fun _ j => decide (j.st ≠ 0)) x.jumps).flatMap (fun j => (List.range 16).map (fun k => (x.jump j).entry + k))

def mCtxBind : Meaning where
  check r s :=
    let st := (s.ctx r.p.ctx).st
    firstOf [
      (decide (st ≠ .opened ∧ st ≠ .bound) || s.scenePending r.p.ctx, .busy, 0),
      (decide (bindTarget r.p s = none), .noResource, 0)]
  act r s :=
    let c := r.p.ctx.val
    match bindTarget r.p s with
    | none => s.complete r .noResource 0
    | some k =>
      ((s.allocTurn poolThread c).updCtx c (fun x => { x with st := .bound, engine := some (k / 4), slot := k % 4, cache := x.pinned })).complete r .ok
        (k / 4 + 256 * (k % 4))
  fail r st s := allocFail poolThread r.p.ctx st s

def execCtxBind (p : Pkt) (s : State) : Ans := .next (submit .ctxBind mCtxBind p s)

/-! ### CTX_CLAIM (R343, R493) -/

def kindOf (p : Pkt) : Nat := pf p 4 0 4
def instOf (p : Pkt) : Nat := pf p 4 16 16

def State.instFree (s : State) (kind i : Nat) : Bool :=
  if kind = 6 then decide ((s.bank i).owner = 0x7FF) else decide (s.holder kind i = none)

/-- An unowned bank: of the sett of a bound context's engine first (R343). -/
def State.anyBank (s : State) (c : Nat) : Option Nat :=
  let own := if decide ((s.ctx c).st = .bound) || decide ((s.ctx c).st = .armed) || decide ((s.ctx c).st = .running) then
      (match (s.ctx c).engine with | some e => firstFrom (s.instFree 6) (8 * (e / 16)) 8 | none => none) else none
  match own with
  | some b => some b
  | none => firstBelow 128 (s.instFree 6)

def claimTarget (p : Pkt) (s : State) : Option Nat :=
  let k := kindOf p
  let i := instOf p
  if i = 0xFFFF then (if k = 6 then s.anyBank p.ctx else firstBelow (kindCount k) (s.instFree k))
  else if s.instFree k i || s.holds p.ctx k i then some i else none

/-- The instance is granted: counters and settings that a claim resets take their reset values (R195, R226, R247, R357,
R368, R393). -/
def State.grant (s : State) (c kind i : Nat) : State :=
  match kind with
  | 0 => s.updFch i (fun f => { f with owner := some c, rampLc := 64 })
  | 1 => s.updVoice i (fun _ => { owner := some c })
  | 2 => s.updPch i (fun p => { p with owner := some c })
  | 3 => s.updEv i (fun _ => { owner := some c })
  | 4 => if i < 0x400 then s.updCon i (fun _ => { owner := some c })
         else s.updEo (i - 0x400) (fun e => { owner := some c, high := e.high, lastAt := e.lastAt, dues := e.dues, endAt := e.endAt })
  | 5 => s.updCell i (fun _ => { owner := some c })
  | 6 => s.setOwner i c
  | 7 => s.updGroup i (fun g => { g with owner := some c })
  | _ => s.updSlot i (fun _ => { owner := some c })

def mCtxClaim : Meaning where
  check r s :=
    let k := kindOf r.p
    let i := instOf r.p
    firstOf [
      (decide (i ≠ 0xFFFF) && !instOk k i, .badParam, 0),
      (decide (k = 6) && decide (i ≠ 0xFFFF) && decide ((s.bank i).owner = 0x400), .notOwner, 0),
      (s.gone r.p.ctx, .busy, 0),
      (decide (claimTarget r.p s = none), .noResource, 0)]
  act r s :=
    let c := r.p.ctx.val
    match claimTarget r.p s with
    | none => s.complete r .noResource 0
    | some i => if s.holds c (kindOf r.p) i then s.complete r .ok i
                else ((s.allocTurn (poolUnit (kindOf r.p)) c).grant c (kindOf r.p) i).complete r .ok i
  fail r st s := allocFail (poolUnit (kindOf r.p)) r.p.ctx st s

def execCtxClaim (p : Pkt) (s : State) : Ans := .next (submit .ctxClaim mCtxClaim p s)

/-! ### CTX_RELEASE (R493, R372, R391) -/

/-- A PLAY on the triggered voice places marker edges. -/
def tvEdges (w : List W32) : Bool := decide (sop w = 1) && sb w 0 16 && (sb w 5 0 || sb w 6 0)

/-- A running program of the context uses the instance: a step names it, or it is the channel of a trigger group whose plays place
edges. -/
def State.inUse (s : State) (c kind i : Nat) : Bool :=
  let steps := (s.ctx c).steps
  decide ((s.ctx c).st = .running) && (Tbl.anyEntry (fun _ w => (stepRes w).contains (kind, i)) steps ||
    (decide (kind = 0) && Tbl.anyEntry (fun _ w => tvEdges w) steps && Tbl.anyEntry (fun _ w => decide (sop w = 6) && decide (sf w 1 0 5 = i)) steps))

/-- The bank holds a segment, a copy or a pending handover. -/
def State.bankBusy (s : State) (b : Nat) : Bool := !(s.bank b).used.isEmpty || (s.bank b).handover.isSome || (s.bank b).releasing

def State.tmuBusy (s : State) (k : Nat) : Bool := s.jobs.any (fun j => decide (j.kind = .tmuRun k))

def actCtxRelease (r : Run) (s : State) : State :=
  let i := instOf r.p
  match kindOf r.p with
  | 0 =>
    let s := s.releaseFch i
    if (s.fch i).releasing then s.addJob r (.fchRelease i) else s.complete r .ok 0
  | 1 => (s.releaseVoice i).complete r .ok 0
  | 2 =>
    let s := s.releasePch i
    if (s.pch i).releasing then s.addJob r (.pchRelease i) else s.complete r .ok 0
  | 3 => (s.freeEv i).complete r .ok 0
  | 4 => (if i < 0x400 then s.freeCon i else s.freeEo (i - 0x400)).complete r .ok 0
  | 5 => (s.freeCell i).complete r .ok 0
  | 6 => (s.releaseBank i).complete r .ok 0
  | 7 => (s.freeGroup i).complete r .ok 0
  | _ => (s.freeSlot i).complete r .ok 0

def mCtxRelease : Meaning where
  check r s :=
    let c := r.p.ctx.val
    let k := kindOf r.p
    let i := instOf r.p
    firstOf [
      (!instOk k i, .badParam, 0),
      (s.gone c, .busy, 0),
      (!s.holds c k i, .notOwner, 0),
      (s.inUse c k i || (decide (k = 6) && s.bankBusy i) || (decide (k = 8) && s.tmuBusy i), .busy, 0)]
  act := actCtxRelease

def execCtxRelease (p : Pkt) (s : State) : Ans := .next (submit .ctxRelease mCtxRelease p s)

/-! ### CTX_STATUS (R475) -/

/-- CTX_SUMMARY, then the selected view from 0x8004 to 0x803C. -/
def ctxReply (s : State) (c : Nat) : List Byte :=
  bytesOf (ctxSummary s c) ++ viewBytes (viewSel s c) 0x8004 15

def mCtxStatus : Meaning where
  act r s := s.reply r (pw r.p 5).toNat (pq r.p 6) (ctxReply s r.p.ctx)

def execCtxStatus (p : Pkt) (s : State) : Ans := .next (submit .ctxStatus mCtxStatus p s)

/-- A BAR0 read of CTX_LEAD returns MIN_LEAD of the selected context and sets it to 0xFFFF (Table 5.14). -/
def execCtxLeadRead (s : State) : Ans :=
  let v := viewSel s s.ctxSel 0x8014
  .next ((s.updCtx s.ctxSel (fun x => { x with minLead := 65535 })).emit (.readAnswer (v.setWidth 64)))

/-! ### The end of a stop (Table 5.3, R132) -/

/-- No voice of the context plays and no channel of it ramps. -/
def State.stopDone (s : State) (c : Nat) : Bool :=
  !(Tbl.anyEntry (fun _ v => decide (v.owner = some c) && decide (v.st ≠ .idle)) s.voices ||
    Tbl.anyEntry (fun _ f => decide (f.owner = some c) && decide (f.st = .stopping)) s.fchs ||
    Tbl.anyEntry (fun _ p => decide (p.owner = some c) && decide (p.st = .ramping)) s.pchs)

def execStopDrainEnd (c : Fin 1024) (s : State) : Ans :=
  if (s.ctx c).st = .stopping ∧ s.stopDone c = true then .next (s.updCtx c (fun x => { x with st := .armed })) else .next s

/-! ### Space returned (R139, R328, R344) -/

/-- The ranges without [e, e + n), which lies within one of them. -/
def dropRange (l : List (Nat × Nat)) (e n : Nat) : List (Nat × Nat) :=
  l.flatMap (fun x =>
    if x.1 ≤ e ∧ e + n ≤ x.1 + x.2 then [(x.1, e - x.1), (e + n, x.1 + x.2 - (e + n))].filter (fun y => decide (y.2 ≠ 0)) else [x])

def inRange (l : List (Nat × Nat)) (e n : Nat) : Bool := decide (0 < n) && l.any (fun x => decide (x.1 ≤ e) && decide (e + n ≤ x.1 + x.2))

/-- Orphan transfers into extents are outstanding. -/
def State.orphansInto (s : State) (e n : Nat) : Bool :=
  Tbl.anyEntry (fun _ t => t.abandoned && decide (16384 * e ≤ t.dpa) && decide (t.dpa < 16384 * (e + n))) s.sql.tags

/-- Zeroed extents return to the allocator. -/
def State.returnExtents (s : State) (e n : Nat) : State :=
  let s := (s.zeroDram e n).updSql (fun q => { q with quarantine := dropRange q.quarantine e n })
  (List.range (64 * n)).foldl (fun s u => s.enqueueUnit 6 (16384 * e + 256 * u)) s

/-- Freed space has been overwritten with zeros and returns to the allocator, once the owl's repairs and write-backs are done (R328); a
bank wholly released is set to HIBERNATE and unowned. -/
def execZeroingComplete (z : ZeroDone) (s : State) : Ans :=
  match z with
  | .extents e n =>
    if inRange s.sql.quarantine e n && !s.orphansInto e n then
      .next (s.owlAhead.returnExtents e n)
    else .next s
  | .bankSpace b o n =>
    if inRange (s.bank b).zeroing o n && !(s.bank b).releasing then
      .next ((s.zeroBank b o n).updBank b (fun k => { k with zeroing := dropRange k.zeroing o n }))
    else .next s
  | .bank b =>
    if (s.bank b).releasing && (s.bank b).trans.isNone && decide ((s.bank b).st = .on) then
      .next (((s.zeroBank b 0 (2 ^ 20)).setOwner b 0x7FF).updBank b (fun k => { k with
        st := .hibernate, releasing := false, zeroing := [], used := [] }))
    else .next s

end Sys2Proof.Machine
end

