-- ==== Sys2Proof/Machine/Segment.lean ====
section
/-! DEFINITION. The segment family: allocation, transfer, freeing, pinning and mirroring of segments, and the ends of the
copies (spec/06_sequence_programs.md R148 to R155, spec/10_waveform_memory_fetch.md R279 to R282). -/
namespace Sys2Proof.Machine

/-! ### The checks of a named segment (R92, R118) -/

/-- The ownership and generation checks of a named segment. -/
def segChecks (s : State) (c : Nat) (w : W32) : List (Bool × Status × Nat) :=
  let g := s.seg (slotOf w)
  [((g.used && decide (g.ctx ≠ c)) || (!g.used && decide (g.gen = segGenOf w)), .notOwner, 0),
   (decide (g.gen ≠ segGenOf w) || !g.used, .staleGen, 0)]

/-- A PLAY step that names segment slot k at generation g. -/
def playsStep (k g : Nat) (w : List W32) : Bool :=
  decide (sop w = 1) && decide (slotOf (sw w 1) = k) && decide (segGenOf (sw w 1) = g)

/-- A program that is ARMED or RUNNING names the segment. -/
def State.named (s : State) (k : Nat) : Bool :=
  let x := s.ctx (s.seg k).ctx
  (decide (x.st = .armed) || decide (x.st = .running)) && Tbl.anyEntry (fun _ w => playsStep k (s.seg k).gen w) x.steps

/-- A jump slot of its context holds the segment, armed or ARMING (R181). -/
def State.slotHolds (s : State) (k : Nat) : Bool :=
  Tbl.anyEntry (fun _ j => decide (j.st ≠ 0) && decide (j.seg = k)) (s.ctx (s.seg k).ctx).jumps

/-- A voice plays the segment. -/
def State.playsSeg (s : State) (k : Nat) : Bool :=
  Tbl.anyEntry (fun _ v => decide (v.st ≠ .idle) && (match v.cur with | some a => decide (a.seg = k) && decide (a.segGen = (s.seg k).gen) | none => false)) s.voices

/-- The bank can take no placement: not ON (R349), or a handover is pending (R352). -/
def State.bankShut (s : State) (b : Nat) : Bool :=
  decide ((s.bank b).st ≠ .on) || (s.bank b).handover.isSome || (s.bank b).trans.isSome

/-! ### SEG_ALLOC (R149, R151, R279, R280) -/

def allocLen (p : Pkt) : Nat := (pw p 4).toNat
def allocFmt (p : Pkt) : Format := match pf p 5 0 2 with | 0 => .s16 | 1 => .s20 | _ => .iq16
def allocBank (p : Pkt) : Nat := pf p 5 8 7
def allocSeg (p : Pkt) : Seg := { len64 := allocLen p, fmt := allocFmt p, mirrored := pb p 5 5 }

/-- Extents a DRAM placement takes. -/
def Seg.extents (g : Seg) : Nat := (if g.mirrored then 2 else 1) * ceilDiv g.fetched 16384

/-- The free slot that has been free the longest: one never used, then the one freed first. -/
def State.freeSegSlot (s : State) : Option Nat :=
  match firstBelow 65536 (fun k => !(s.seg k).used && !s.segFree.contains k) with
  | some k => some k
  | none => s.segFree.head?

def actSegAlloc (r : Run) (s : State) : State :=
  let g := allocSeg r.p
  match s.freeSegSlot with
  | none => s.complete r .noResource 0
  | some k =>
    let put := fun (s : State) (h : Seg) =>
      let s : State := { (s.allocTurn (if pb r.p 5 4 then poolBank else poolMem) r.p.ctx.val).updSeg k (fun x => { h with used := true, gen := x.gen, ctx := r.p.ctx.val }) with segFree := s.segFree.filter (fun j => decide (j ≠ k)) }
      s.complete r .ok (segValue s k)
    if pb r.p 5 4 then
      match s.fitBank (allocBank r.p) g.bytes with
      | some o => put (s.takeBank (allocBank r.p) o g.bytes) { g with bank := some (allocBank r.p, o) }
      | none => s.complete r .noResource 0
    else
      match s.fitExtents g.extents with
      | some e => put (s.takeExtents e g.extents) { g with ext := e, nExt := g.extents }
      | none => s.complete r .noResource 0

def mSegAlloc : Meaning where
  check r s :=
    let p := r.p
    let b := allocBank p
    let place := pb p 5 4
    firstOf [
      (decide (allocLen p < 4) || decide (67108864 < allocLen p) || (!place && decide (b ≠ 0)) || (place && pb p 5 5), .badParam, 0),
      (place && decide ((s.bank b).owner ≠ p.ctx.val), .notOwner, 0),
      (s.gone p.ctx || (place && s.bankShut b), .busy, 0),
      (decide (s.freeSegSlot = none) ||
        (if place then decide (s.fitBank b (allocSeg p).bytes = none) else decide (s.fitExtents (allocSeg p).extents = none)), .noResource, 0)]
  act := actSegAlloc
  fail r st s := allocFail (if pb r.p 5 4 then poolBank else poolMem) r.p.ctx st s

def execSegAlloc (p : Pkt) (s : State) : Ans := .next (submit .segAlloc mSegAlloc p s)

/-! ### SEG_WRITE and SEG_READ (R152, R153) -/

def xferOff (p : Pkt) (g : Seg) : Nat := (pw p 5).toNat * g.fmt.unit64
def xferLen (p : Pkt) (g : Seg) : Nat := (pw p 6).toNat * g.fmt.unit64

/-- COUNT64 is at least 1 and the range lies within the segment. -/
def xferBad (p : Pkt) (s : State) : Bool :=
  decide ((pw p 6).toNat = 0) ||
  (s.segLive (pw p 4) && decide ((s.seg (slotOf (pw p 4))).len64 < (pw p 5).toNat + (pw p 6).toNat))

/-- The bank a transfer needs is not ON. -/
def xferShut (write : Bool) (p : Pkt) (s : State) : Bool :=
  let g := s.seg (slotOf (pw p 4))
  match g.bank with
  | some (b, _) => decide ((s.bank b).st ≠ .on) || (write && (s.bank b).handover.isSome)
  | none => match g.pin with | some (b, _, _) => write && decide ((s.bank b).st ≠ .on) | none => false

def xferCheck (write : Bool) (r : Run) (s : State) : Option (Status × Nat) :=
  firstOf ((xferBad r.p s, .badParam, 0) :: segChecks s r.p.ctx (pw r.p 4) ++ [(xferShut write r.p s, .busy, 0)])

def mSegWrite : Meaning where
  check := xferCheck true
  act r s := s.addJob r .transfer

def mSegRead : Meaning where
  check := xferCheck false
  act r s :=
    let k := slotOf (pw r.p 4)
    let g := s.seg k
    let s := s.addJob r .transfer
    if g.bank.isSome then s
    else s.addBulk r .host 3 k (xferOff r.p g / 256) (ceilDiv (xferOff r.p g % 256 + xferLen r.p g) 256)

def execSegWrite (p : Pkt) (s : State) : Ans := .next (submit .segWrite mSegWrite p s)
def execSegRead (p : Pkt) (s : State) : Ans := .next (submit .segRead mSegRead p s)

/-- The copies of a segment in banks, complete or still being made: its pinned copy, and the jump-slot copies of its head (R154, R181). -/
def State.copiesOf (s : State) (k : Nat) : List (Nat × Nat × Nat) :=
  let g := s.seg k
  (match g.pin with | some (b, o, _) => [(b, o, g.bytes)] | none => []) ++
  ((Tbl.keysWhere (fun _ j => decide (j.st ≠ 0) && decide (j.seg = k)) (s.ctx g.ctx).jumps).filterMap
    (fun j => (((s.ctx g.ctx).jump j).copy).map (fun c => (c.1, c.2, g.headBytes))))

/-- Clear the poison of the units of a segment that [o, o + n) touches. -/
def State.clearUnits (s : State) (g : Seg) (o n : Nat) : State :=
  ((List.range (ceilDiv (o % 256 + n) 256)).flatMap (fun i => g.unitDpas (o / 256 + i))).foldl (fun s d => s.clearPoison d 256) s

/-- Bytes arrive at offset o of a segment through port 3: every copy takes them, the placement SEG_MIRROR is making too. -/
def State.storeSeg (s : State) (k o : Nat) (d : List Byte) : State :=
  let g := s.seg k
  match g.bank with
  | some (b, x) => s.writeBank b (x + o) d
  | none =>
    let s := (((s.writeDram g o d).clearUnits g o d.length).moveMirror k o d).enqueueRange g 3 o d.length
    (s.copiesOf k).foldl (fun s c => if o < c.2.2 then s.writeBank c.1 (c.2.1 + o) (d.take (c.2.2 - o)) else s) s

/-- A word of the range reads as poisoned. -/
def State.poisonedIn (s : State) (g : Seg) (o n : Nat) : Bool :=
  g.bank.isNone && (List.range n).any (fun i => (g.dpasOf (o + i)).all (fun d => s.badByte d))

def State.loadSeg (s : State) (k o n : Nat) : List Byte :=
  let g := s.seg k
  match g.bank with
  | some (b, x) => s.readBank b (x + o) n
  | none => s.readDram g o n

/-- What has been read of a SEG_WRITE's buffer goes into the segment. -/
def takeSegWrite (r : Run) (d : List Byte) (s : State) : State :=
  let k := slotOf (pw r.p 4)
  s.storeSeg k (xferOff r.p (s.seg k)) (d.take (xferLen r.p (s.seg k)))

/-- A SEG_WRITE ends without its whole buffer: the target is undefined from the first byte not written (R120, R121). -/
def failSegWrite (r : Run) (d : List Byte) (s : State) : State :=
  let n := xferLen r.p (s.seg (slotOf (pw r.p 4)))
  (takeSegWrite r (d.take n ++ s.freeBytes (n - d.length)) s).bumpBy (n - d.length)

/-- The transfer of a SEG_READ has ended: poisoned words read as zeros and RESULT [0] says so (R323). -/
def endSegRead (r : Run) (s : State) : State :=
  let k := slotOf (pw r.p 4)
  let g := s.seg k
  let o := xferOff r.p g
  let n := xferLen r.p g
  (s.emit (.write r.p.fn.val (pq r.p 8) (s.loadSeg k o n))).complete r .ok (if s.poisonedIn g o n then 1 else 0)

/-! ### SEG_FREE (R149) -/

def mSegFree : Meaning where
  check r s := firstOf (segChecks s r.p.ctx (pw r.p 4) ++
    [(s.playsSeg (slotOf (pw r.p 4)) || s.slotHolds (slotOf (pw r.p 4)), .busy, 0)])
  act r s := (s.freeSeg (slotOf (pw r.p 4))).complete r .ok 0

def execSegFree (p : Pkt) (s : State) : Ans := .next (submit .segFree mSegFree p s)

/-! ### SEG_PIN (R154, R155) -/

def unpins (p : Pkt) : Bool := pb p 5 8

/-- The bank SEG_PIN chooses: BANK if held or unowned; with ANY, the lowest held one with room, else a free one. -/
def pinBank (p : Pkt) (s : State) (n : Nat) : Option Nat :=
  if pb p 5 7 then
    match (s.banksOf p.ctx).find? (fun b => decide (s.fitBank b n ≠ none)) with
    | some b => some b
    | none => s.anyBank p.ctx
  else some (pf p 5 0 7)

/-- A voice plays the bank copy of the segment. -/
def State.readsCopy (s : State) (k : Nat) : Bool :=
  match (s.seg k).pin with
  | some (b, _, _) => Tbl.anyEntry (fun _ v => decide (v.st ≠ .idle) && (match v.cur with
      | some a => decide (a.seg = k) && decide (a.segGen = (s.seg k).gen) && decide (a.bank = some b)
      | none => false)) s.voices
  | none => false

/-- The space of a copy that no action reads any more is released. -/
def State.dropPin (s : State) (k : Nat) : State :=
  match (s.seg k).pin with
  | some (b, o, _) =>
    if (s.seg k).unpinning && !s.readsCopy k then
      (s.freeBank b o (s.seg k).bytes).updSeg k (fun g => { g with pin := none, unpinning := false })
    else s
  | none => s

def actSegPin (r : Run) (s : State) : State :=
  let k := slotOf (pw r.p 4)
  let g := s.seg k
  if unpins r.p then
    match g.pin with
    | some (b, _, _) =>
      if g.unpinning then s.complete r .ok 0x80
      else ((s.updSeg k (fun x => { x with unpinning := true })).dropPin k).complete r .ok b
    | none => s.complete r .ok 0x80
  else
    match pinBank r.p s g.bytes with
    | none => s.complete r .noResource 0
    | some b =>
      let took := decide ((s.bank b).owner = 0x7FF)
      let s := s.allocTurn poolBank r.p.ctx.val
      let s := if took then s.setOwner b r.p.ctx.val else s
      match s.fitBank b g.bytes with
      | none => s.complete r .noResource 0
      | some o => (((s.takeBank b o g.bytes).updSeg k (fun x => { x with pin := some (b, o, false) })).addJob r (.pinCopy k took)).addBulk r .pin 4 k 0 g.units

def mSegPin : Meaning where
  check r s :=
    let p := r.p
    let k := slotOf (pw p 4)
    let g := s.seg k
    let live := s.segLive (pw p 4)
    let b := pinBank p s g.bytes
    if unpins p then
      firstOf ((live && g.bank.isSome, .badParam, 0) :: segChecks s p.ctx (pw p 4) ++
        [(s.named k || (match g.pin with | some (_, _, done) => !done | none => false), .busy, 0)])
    else
      firstOf ((live && (g.bank.isSome || g.pin.isSome || decide (2 ^ 20 < g.bytes)), .badParam, 0) ::
        (!pb p 5 7 && !(decide ((s.bank (pf p 5 0 7)).owner = p.ctx.val) || decide ((s.bank (pf p 5 0 7)).owner = 0x7FF)), .notOwner, 0) ::
        segChecks s p.ctx (pw p 4) ++
        [(match b with | some x => s.bankShut x | none => false, .busy, 0),
         (match b with | some x => decide (s.fitBank x g.bytes = none) | none => true, .noResource, 0)])
  act := actSegPin
  fail r st s := allocFail poolBank r.p.ctx st s

def execSegPin (p : Pkt) (s : State) : Ans := .next (submit .segPin mSegPin p s)

/-- The job of SEG_PIN for a segment. -/
def isPin (k : Nat) : JobKind → Bool
  | .pinCopy x _ => decide (x = k)
  | _ => false

/-- The copy is complete: later plays read it, and the hedgehog's throttles on the segment lift (R319). It cannot complete while a unit
of it waits for a pseudo-channel (R330). A segment freed meanwhile leaves its packet STALE_GEN. -/
def execPinCopyEnd (slot : BitVec 16) (s : State) : Ans :=
  let k := slot.toNat
  match s.findJob (isPin k) with
  | none => .next s
  | some j =>
    if s.heldUp j.run then .next s else
    let s := (s.dropJobs (fun x => decide (x = j))).endBulk j.run.seq
    match (s.seg k).pin with
    | some (b, o, false) =>
      let s := s.writeBank b o (s.loadSeg k 0 (s.seg k).bytes)
      .next (((s.updSeg k (fun g => { g with pin := some (b, o, true) })).liftSeg k).complete j.run .ok b)
    | _ => .next (s.complete j.run .staleGen 0)

/-! ### SEG_MIRROR (R282) -/

/-- The segment as SEG_MIRROR would place it. -/
def mirrorTarget (p : Pkt) (s : State) : Seg := { s.seg (slotOf (pw p 4)) with mirrored := pb p 5 0 }

def mSegMirror : Meaning where
  check r s :=
    let k := slotOf (pw r.p 4)
    let g := s.seg k
    let t := mirrorTarget r.p s
    firstOf ((s.segLive (pw r.p 4) && g.bank.isSome, .badParam, 0) :: segChecks s r.p.ctx (pw r.p 4) ++
      [(s.named k || s.slotHolds k || g.newExt.isSome, .busy, 0),
       (decide (g.mirrored ≠ t.mirrored) && decide (s.fitExtents t.extents = none), .noResource, 0)])
  act r s :=
    let k := slotOf (pw r.p 4)
    let t := mirrorTarget r.p s
    if (s.seg k).mirrored = t.mirrored then s.complete r .ok 0
    else
      match s.fitExtents t.extents with
      | none => s.complete r .noResource 0
      | some e =>
        let s := ((s.allocTurn poolMem r.p.ctx.val).takeExtents e t.extents).updSeg k (fun g => { g with newExt := some (e, t.extents) })
        (s.addJob r (.mirrorCopy k)).addBulk r .mirror 4 k 0 t.units
  fail r st s := allocFail poolMem r.p.ctx st s

def execSegMirror (p : Pkt) (s : State) : Ans := .next (submit .segMirror mSegMirror p s)

/-- The copy is complete: fetches use the new placement and the old space is freed. It cannot complete while a unit of it waits for a
pseudo-channel (R330). -/
def execMirrorCopyEnd (slot : BitVec 16) (s : State) : Ans :=
  let k := slot.toNat
  match s.findJob (fun j => decide (j = .mirrorCopy k)) with
  | none => .next s
  | some j =>
    if s.heldUp j.run then .next s else
    let s := (s.dropJobs (fun x => decide (x = j))).endBulk j.run.seq
    let g := s.seg k
    match g.newExt with
    | some (e, n) =>
      let d := s.readDram g 0 g.bytes
      let s := s.updSeg k (fun x => { x with ext := e, nExt := n, mirrored := !g.mirrored, newExt := none })
      let s := ((s.writeDram (s.seg k) 0 d).enqueueRange (s.seg k) 4 0 g.bytes).freeExtents g.ext g.nExt
      .next ((s.liftSeg k).complete j.run .ok 0)
    | none => .next (s.complete j.run .staleGen 0)

end Sys2Proof.Machine
end

