-- ==== Sys2Proof/Machine/Program.lean ====
section
/-! DEFINITION. The program family: loading, checking, arming, starting and stopping a context's program, its jump slots and
its counters (spec/05_contexts_engines.md R128 to R134, spec/06_sequence_programs.md R157, R169, R175 to R184,
spec/10_waveform_memory_fetch.md R298 to R302, spec/12_onchip_banks.md R353 to R355). -/
namespace Sys2Proof.Machine

def Ctx.step (x : Ctx) (k : Nat) : List W32 := Tbl.get [] x.steps k
def Ctx.loaded (x : Ctx) (k : Nat) : Bool := decide (x.step k ≠ [])

/-- Starts complete with BUSY: thermal LIMIT, a firmware activation, SELF or TRACE (R409, R443, R462), a maintenance window
(R316), an armed SYNC (R78). -/
def State.startBarred (s : State) : Bool := s.noStart || decide (s.mem.maint = 1) || s.clk.arm.isSome

/-! ### PRG_LOAD (R128, R129, R181) -/

def loadFirst (p : Pkt) : Nat := pf p 4 0 16
def loadCount (p : Pkt) : Nat := (pw p 5).toNat

/-- Pages the load needs and the context has not: one 64 KiB page for each 2,048 steps up to the highest loaded. -/
def newPages (p : Pkt) (x : Ctx) : List Nat :=
  (List.range ((loadFirst p + loadCount p - 1) / 2048 + 1)).filter (fun k => !(x.pages.any (fun e => decide (e.1 = k))))

/-- Allocate pages of 8 extents each; none if one cannot be found. -/
def State.takePages (s : State) (c : Nat) : List Nat → Option State
  | [] => some s
  | k :: ks =>
    match s.fitExtents 8 with
    | none => none
    | some e => ((s.takeExtents e 8).updCtx c (fun x => { x with pages := x.pages ++ [(k, e)] })).takePages c ks

/-- A JMP_ARM still waiting for the copy of a slot is withdrawn. DESIGN CHOICE, log entry 63: the spec gives it no completion; BUSY,
RESULT 0. -/
def State.dropArming (s : State) (c j : Nat) : State := s.endKind (fun k => decide (k = .jmpArm c j)) .busy 0

/-- A slot whose pinned steps the range touches is disarmed. -/
def State.unpinSteps (s : State) (c first count : Nat) : State :=
  s.each (Tbl.keysWhere (fun _ j => decide (j.st ≠ 0) && decide (first < j.entry + 16) && decide (j.entry < first + count)) (s.ctx c).jumps)
    (fun j s => (s.dropArming c j).disarm c j)

def actPrgLoad (r : Run) (s : State) : State :=
  let c := r.p.ctx.val
  match s.takePages c (newPages r.p (s.ctx c)) with
  | none => s.complete r .noResource 0
  | some s =>
    let s := (s.allocTurn poolMem c).updCtx c (fun x => { x with st := .bound, charges := [], landing := 0, committed := false, forced := false })
    (s.unpinSteps c (loadFirst r.p) (loadCount r.p)).addJob r .transfer

def mPrgLoad : Meaning where
  check r s :=
    let x := s.ctx r.p.ctx
    let bad := decide (loadCount r.p = 0) || decide (65536 < loadFirst r.p + loadCount r.p)
    firstOf [
      (bad, .badParam, 0),
      (!(decide (x.st = .bound) || decide (x.st = .armed)) || s.scenePending r.p.ctx, .busy, 0),
      (decide (s.takePages r.p.ctx (newPages r.p x) = none), .noResource, 0)]
  act := actPrgLoad
  fail r st s := allocFail poolMem r.p.ctx st s

def execPrgLoad (p : Pkt) (s : State) : Ans := .next (submit .prgLoad mPrgLoad p s)

/-- Whole steps of 32 bytes, stored from step k on. -/
def storeSteps (t : Tbl (List W32)) (k : Nat) : Nat → List Byte → Tbl (List W32)
  | 0, _ => t
  | n + 1, d => if d.length < 32 then t else storeSteps (Tbl.set [] t k (wordsOf (d.take 32))) (k + 1) n (d.drop 32)

/-- The device addresses of the units of a program area that hold n steps from step k on (R128). -/
def State.stepUnits (s : State) (c k n : Nat) : List Nat :=
  (List.range (ceilDiv (k % 8 + n) 8)).filterMap (fun i =>
    let u := k / 8 + i
    ((s.ctx c).pages.find? (fun p => decide (p.1 = u / 256))).map (fun p => 16384 * p.2 + 512 * (u % 256)))

/-- Writes of program units: they enter the queues and clear the poison of both copies (R307, R323). -/
def State.writeSteps (s : State) (c k n : Nat) : State :=
  (s.stepUnits c k n).foldl (fun s d => (s.enqueueUnit 3 d).clearPoison d 512) s

/-- The steps of a PRG_LOAD's buffer that have been read whole become loaded; the cache drops the old ones. -/
def takePrgLoad (r : Run) (d : List Byte) (s : State) : State :=
  (s.writeSteps r.p.ctx (loadFirst r.p) (min (loadCount r.p) (d.length / 32))).updCtx r.p.ctx (fun x => { x with
    steps := storeSteps x.steps (loadFirst r.p) (loadCount r.p) d
    cache := x.cache.filter (fun k => decide (k < loadFirst r.p) || decide (loadFirst r.p + loadCount r.p ≤ k)) })

/-- A PRG_LOAD ends without its whole buffer: from the first step not wholly read on its steps are not loaded (R129). -/
def failPrgLoad (r : Run) (d : List Byte) (s : State) : State :=
  let n := d.length / 32
  (takePrgLoad r d s).updCtx r.p.ctx (fun x => { x with steps := Tbl.clear x.steps (loadFirst r.p + n) (loadCount r.p - n) })

/-! ### The demand (R298, R299, R353) -/

/-- A segment as the demand counts it: the bank it is in or pinned in, else its bytes F per sample. -/
def Seg.inBank (g : Seg) : Option Nat := g.bankAt.map (fun x => x.1)

/-- The PLAY steps of a program that can play on voice v. -/
def playsOn (steps : Tbl (List W32)) (v : Nat) : List (List W32) :=
  let tv := Tbl.anyEntry (fun _ w => decide (sop w = 6) && (trigGroup w).contains v) steps
  (steps.map (fun e => e.2)).filter (fun w => decide (sop w = 1) && (if sb w 0 16 then tv else decide (sf w 0 8 8 = v)))

/-- The larger of two ratios. -/
def maxRat (a b : Nat × Nat) : Nat × Nat := if a.1 * b.2 < b.1 * a.2 then b else a

/-- What a voice is charged: the highest F × r ÷ L of its DRAM plays, and the banks of the others. -/
def State.charge (s : State) (steps : Tbl (List W32)) (v : Nat) : Charge :=
  let gs := (playsOn steps v).map (fun w => s.seg (slotOf (sw w 1)))
  let dram := gs.filter (fun g => g.inBank.isNone)
  let r := (dram.map (fun g => (g.fetched * (s.voiceMode v).rate, max g.samples 1))).foldl maxRat (0, 1)
  { voice := v, num := r.1, den := r.2, banks := (gs.filterMap Seg.inBank).eraseDups }

/-- The voices a program's PLAY steps can play on. -/
def progVoices (steps : Tbl (List W32)) : List Nat :=
  (steps.flatMap (fun e => if sop e.2 = 6 then trigGroup e.2 else if sop e.2 = 1 ∧ sb e.2 0 16 = false then [sf e.2 0 8 8] else [])).foldl
    (fun l v => insertNat v l) []

def State.chargesOf (s : State) (c : Nat) : List Charge := (progVoices (s.ctx c).steps).map (s.charge (s.ctx c).steps)

/-- The landing need of a DRAM voice. -/
def Charge.need (k : Charge) : Nat := if k.num = 0 then 0 else max 256 (ceilDiv (k.num * 6400) (k.den * 256))

/-- The machine with the context's present program committed. -/
def State.commitProgram (s : State) (c : Nat) : State :=
  let ks := s.chargesOf c
  s.updCtx c (fun x => { x with charges := ks, landing := ks.foldl (fun a k => a + k.need) 0, committed := true, forced := false })

/-- Causes of R299: 1 rate, 2 landing. -/
def State.dramCause (s : State) : Nat := (if 1250000 < s.committedRate then 1 else 0) + (if 62464 < s.committedLanding then 2 else 0)
def State.badBank (s : State) : Option Nat := firstBelow 128 (fun b => decide (128 < s.bankLoad b))
def State.badSett (s : State) : Option Nat := firstBelow 16 (fun k => decide (256 < s.spineLoad k))
def State.fits (s : State) : Bool := decide (s.dramCause = 0) && s.badBank.isNone && s.badSett.isNone

/-- The outcome is recorded in SQL_BUDGET.LAST_CAUSE and BNK_CHECK, as the machine `t` would stand. -/
def State.noteCheck (s t : State) : State :=
  let s := s.updSql (fun q => { q with lastCause := t.dramCause })
  { s with bnk := { s.bnk with checkBank := t.badBank, checkSett := t.badSett } }

/-! ### PRG_CHECK (R300) -/

def mPrgCheck : Meaning where
  check r s :=
    let x := s.ctx r.p.ctx
    firstOf [
      (!x.loaded (pf r.p 4 0 16), .badParam, 0),
      (!(decide (x.st = .bound) || decide (x.st = .armed)), .busy, 0)]
  act r s :=
    let t := s.commitProgram r.p.ctx
    (s.noteCheck t).complete r (if t.fits then .ok else .budget) t.committedRate

def execPrgCheck (p : Pkt) (s : State) : Ans := .next (submit .prgCheck mPrgCheck p s)

/-! ### PRG_ARM (R130, R134, R157, R169, R301, R354) -/

/-- The checks of one loaded step, in the order of R157. -/
def State.stepCheck (s : State) (c : Nat) (w : List W32) : Option Status :=
  let x := s.ctx c
  let g := s.seg (slotOf (sw w 1))
  let play := decide (sop w = 1)
  if !stepForm x.loaded w then some .badParam
  else if (stepRes w).any (fun e => !s.holds c e.1 e.2) || (play && ((g.used && decide (g.ctx ≠ c)) || (!g.used && decide (g.gen = segGenOf (sw w 1))))) then some .notOwner
  else if play && !s.segLive (sw w 1) then some .staleGen
  else if play && !sb w 0 16 && decide (g.fmt ≠ (s.voiceMode (sf w 0 8 8)).format) then some .badParam
  else none

/-- The lowest-numbered step that fails a check, and its status. -/
def State.firstBad (s : State) (c : Nat) : Tbl (List W32) → Option (Status × Nat)
  | [] => none
  | (k, w) :: t => match s.stepCheck c w with | some st => some (st, k) | none => s.firstBad c t

/-- The 64 steps from ENTRY and the pinned ones. -/
def Ctx.fillCache (x : Ctx) (entry : Nat) : List Nat := (List.range 64).map (fun k => entry + k) ++ x.pinned

def policyOf (n : Nat) : Policy := match n with | 0 => .ignore | 1 => .queue1 | 2 => .restart | _ => .overlap

def actPrgArm (r : Run) (s : State) : State :=
  let c := r.p.ctx.val
  let e := pf r.p 4 0 16
  let t := s.commitProgram c
  let s' := s.noteCheck t
  if t.fits || r.p.force then
    let past := !t.fits
    let s := ((s.allocTurn poolBudget c).noteCheck t).commitProgram c
    let s := s.updCtx c (fun x => { x with
      st := .armed, entry := e, policy := policyOf (pf r.p 4 16 2), forced := past, pc := e, stack := []
      ctrs := [0, 0, 0, 0, 0, 0, 0, 0], cache := x.fillCache e })
    let s := if past then s.updSql (fun q => { q with arms := sat 65535 (q.arms + 1) }) else s
    s.complete r .ok 0
  else (s'.allocTurn poolBudget c).complete r .budget 0

def mPrgArm : Meaning where
  check r s :=
    let x := s.ctx r.p.ctx
    let e := pf r.p 4 0 16
    orElse (firstOf [
      (!(decide (x.st = .bound) || decide (x.st = .armed)) || s.scenePending r.p.ctx, .busy, 0),
      (!x.loaded e, .badParam, e)]) (s.firstBad r.p.ctx x.steps)
  act := actPrgArm

def execPrgArm (p : Pkt) (s : State) : Ans := .next (submit .prgArm mPrgArm p s)

/-! ### PRG_START (R182 to R184) -/

/-- The pre-run of a start at lane cycle `at_` begins: the thread issues from ENTRY, every jump slot stops responding (R177). -/
def State.beginPreRun (s : State) (c at_ : Nat) : State :=
  let s := s.each [0, 1, 2, 3] (fun j s => s.updJump c j (fun x => { x with responding := false, aligned := false, changes := [] }))
  s.updCtx c (fun x => { x with
    st := .running, preRun := true, started := false, startS := at_, pos := at_, pc := x.entry, stack := [], waiting := .none, fetching := false
    triggered := false, inst := 0, spin := 0, stalls := 0, onCubStall := none, placedAt := none, stopAfter := false, queuedTrig := none })

/-- The context is in the pre-run of a start at this lane cycle that has not yet taken effect. -/
def State.ownPreRun (s : State) (c : Nat) : Bool := (s.ctx c).preRun && !(s.ctx c).started && decide ((s.ctx c).startS = s.lc)

/-- The context can start: ARMED, or already in the pre-run of this start. -/
def State.canStart (s : State) (c : Nat) : Bool := decide ((s.ctx c).st = .armed) || s.ownPreRun c

/-- A timed start takes effect at S, in the pre-run begun for it or with none. -/
def State.takeStart (s : State) (c : Nat) : State :=
  (if s.ownPreRun c then s else s.beginPreRun c s.lc).updCtx c (fun x => { x with started := true })

/-- At S a timed start completes; an untimed one starts its pre-run. -/
def actPrgStart (r : Run) (s : State) : State :=
  let c := r.p.ctx.val
  if r.timed then (s.takeStart c).complete r .ok 0
  else (s.beginPreRun c (s.lc + 8192)).addJob r (.start c)

def mPrgStart : Meaning where
  accept r s := firstOf [(decide (r.p.act ≠ 0) && (decide ((s.ctx r.p.ctx).st ≠ .armed) || s.scenePending r.p.ctx), .busy, 0)]
  check r s := firstOf [(!s.canStart r.p.ctx || s.scenePending r.p.ctx || s.startBarred, .busy, 0)]
  act := actPrgStart
  fail r _ s := if s.ownPreRun r.p.ctx then s.discardPreRun r.p.ctx else s

def execPrgStart (p : Pkt) (s : State) : Ans := .next (submit .prgStart mPrgStart p s)

/-! ### PRG_STOP (R132, R184) -/

/-- The thread waits for no event. -/
def Ctx.noWait (x : Ctx) : Bool := match x.waiting with | .none | .ended _ => true | _ => false

/-- MODE 0 lets a step fetch or a fox-jump decision in progress finish; a thread that waits is stopped at once under both modes. -/
def actPrgStop (r : Run) (s : State) : State :=
  let c := r.p.ctx.val
  let x := s.ctx c
  let begun := x.fetching || Tbl.anyEntry (fun _ j => j.hit.isSome) x.jumps
  let s := if pf r.p 4 0 1 = 0 ∧ begun = true ∧ x.noWait = true ∧ x.preRun = false then s.updCtx c (fun x => { x with stopAfter := true })
           else s.stopCtx c
  s.complete r .ok 0

def mPrgStop : Meaning where
  check r s := firstOf [(decide ((s.ctx r.p.ctx).st ≠ .running), .busy, 0)]
  act := actPrgStop

def execPrgStop (p : Pkt) (s : State) : Ans := .next (submit .prgStop mPrgStop p s)

/-! ### JMP_ARM (R175, R176, R355) -/

def jslot (p : Pkt) : Nat := pf p 4 0 2
def jentry (p : Pkt) : Nat := pf p 6 0 16
def disarms (p : Pkt) : Bool := pb p 4 8

/-- The load of a bank and of its sett's spine with the ENTRY voice added still fits (R353). -/
def State.bankTakes (s : State) (v b : Nat) : Bool :=
  let add := if (s.bankVoices b).contains v then 0 else (s.voiceMode v).halfBytes
  decide (s.bankLoad b + add ≤ 128) && (decide (v / 16 = b / 8) || decide (s.spineLoad (b / 8) + add ≤ 256))

def State.copyBank (s : State) (c v : Nat) : Option Nat :=
  let ok := fun b => decide (s.fitBank b 16384 ≠ none) && s.bankTakes v b
  match (s.banksOf c).find? (fun b => decide (b / 8 = v / 16) && ok b) with
  | some b => some b
  | none => (s.banksOf c).find? ok

/-- The slot's steps are pinned in the step cache. -/
def State.pinSteps (s : State) (c : Nat) : State := s.updCtx c (fun x => { x with cache := (x.cache ++ x.pinned).eraseDups })

def actJmpArm (r : Run) (s : State) : State :=
  let c := r.p.ctx.val
  let j := jslot r.p
  let k := slotOf (pw r.p 5)
  if disarms r.p then ((s.dropArming c j).disarm c j).complete r .ok 0
  else
    let v := sf ((s.ctx c).step (jentry r.p)) 0 8 8
    let dest := s.copyBank c v
    let s := (s.dropArming c j).disarm c j
    let put := fun (s : State) (st : Nat) (cp : Option (Nat × Nat)) =>
      (s.updJump c j (fun x => { x with st := st, seg := k, segGen := (s.seg k).gen, entry := jentry r.p, copy := cp })).pinSteps c
    if (s.seg k).inBank.isSome then (put s 2 none).complete r .ok 0
    else
      match dest with
      | none => s.complete r .noResource 0
      | some b =>
        match s.fitBank b 16384 with
        | none => s.complete r .noResource 0
        | some o => ((put ((s.allocTurn poolBank c).takeBank b o 16384) 1 (some (b, o))).addJob r (.jmpArm c j)).addBulk r (.jump c j) 4 k 0 (s.seg k).copyUnits

def mJmpArm : Meaning where
  check r s :=
    let p := r.p
    let c := p.ctx.val
    let x := s.ctx c
    let w := x.step (jentry p)
    let seg := pw p 5
    if disarms p then firstOf [(decide (seg ≠ 0) || decide (pw p 6 ≠ 0), .badParam, 0), (s.gone c, .busy, 0)]
    else
      let dest := s.copyBank c (sf w 0 8 8)
      let needs := (s.seg (slotOf seg)).inBank.isNone
      firstOf ((!(decide (sop w = 1) && !sb w 0 16 && decide (sf w 1 0 24 = bits seg 0 24) && s.holds c 1 (sf w 0 8 8)), .badParam, 0) ::
        segChecks s c seg ++
        [(!(decide (x.st = .bound) || decide (x.st = .armed) || decide (x.st = .running)), .busy, 0),
         (needs && (match dest with | some b => s.bankShut b | none => false), .busy, 0),
         (needs && decide (dest = none), .noResource, 0)])
  act := actJmpArm
  fail r st s := allocFail poolBank r.p.ctx st s

def execJmpArm (p : Pkt) (s : State) : Ans := .next (submit .jmpArm mJmpArm p s)

/-- The first min(4,096, L) samples have been copied: the slot is armed, unless it has been disarmed meanwhile. The copy cannot complete
while a unit of it waits for a pseudo-channel (R330). -/
def execJmpArmCopyEnd (c : Fin 1024) (slot : Fin 4) (s : State) : Ans :=
  match s.findJob (fun k => decide (k = .jmpArm c slot)) with
  | none => .next s
  | some j =>
    if s.heldUp j.run then .next s else
    let s := (s.dropJobs (fun x => decide (x = j))).endBulk j.run.seq
    let x := (s.ctx c).jump slot
    match x.copy with
    | some (b, o) =>
      let g := s.seg x.seg
      let s := s.writeBank b o (s.loadSeg x.seg 0 g.headBytes)
      .next ((s.updJump c slot (fun y => { y with st := 2 })).complete j.run .ok 0)
    | none => .next ((s.updJump c slot (fun y => { y with st := if y.st = 1 then 2 else y.st })).complete j.run .ok 0)

/-! ### CTR_SET (R169) -/

def setNth {α : Type} : List α → Nat → α → List α
  | [], _, _ => []
  | _ :: t, 0, v => v :: t
  | h :: t, n + 1, v => h :: setNth t n v

def State.setCtr (s : State) (c k : Nat) (v : W32) : State := s.updCtx c (fun x => { x with ctrs := setNth x.ctrs k v })

def mCtrSet : Meaning where
  check r s :=
    let st := (s.ctx r.p.ctx).st
    firstOf [(!(decide (st = .armed) || decide (st = .running) || decide (st = .stopping)), .busy, 0)]
  act r s := ((s.setCtr r.p.ctx (pf r.p 4 0 3) (pw r.p 5)).updCtx r.p.ctx (fun x => { x with
    ctrHeld := pf r.p 4 0 3 :: (if x.ctrLc = s.lc then x.ctrHeld else []), ctrLc := s.lc })).complete r .ok 0

def execCtrSet (p : Pkt) (s : State) : Ans := .next (submit .ctrSet mCtrSet p s)

end Sys2Proof.Machine
end

