-- ==== Sys2Proof/Machine/Scene.lean ====
section
/-! DEFINITION. The scene family: SCN_DEFINE, SCN_START_AT, SCN_ABORT, SCN_DELETE (spec/06_sequence_programs.md R185 to R191). -/
namespace Sys2Proof.Machine

def scnOf (p : Pkt) : Nat := pf p 4 0 8

/-- A scene of the sender's own (R92). -/
def State.scnOwned (s : State) (p : Pkt) : Bool := (s.scene (scnOf p)).used && decide ((s.scene (scnOf p)).fn = p.fn.val)

/-- A start of the scene is pending. -/
def State.scnPending (s : State) (k : Nat) : Bool :=
  s.sched.any (fun t => decide (t.run.op = .scnStartAt) && decide (scnOf t.run.p = k)) || s.jobs.any (fun j => decide (j.kind = .sceneStart k))

/-! ### SCN_DEFINE (R185) -/

def memberCount (p : Pkt) : Nat := pf p 4 0 10
def defMembers (p : Pkt) : List (Nat × Nat) := (List.range (memberCount p)).map (fun i => (pf p (5 + i) 0 10, pf p (5 + i) 16 8))

def State.freeScene (s : State) : Option Nat := firstBelow 256 (fun k => !(s.scene k).used)

/-- A context appears twice. -/
def twice : List Nat → Bool
  | [] => false
  | a :: t => t.contains a || twice t

def mScnDefine : Meaning where
  check r s :=
    let ms := defMembers r.p
    firstOf [
      (decide (ms = []) || decide (1016 < memberCount r.p) || twice (ms.map (fun m => m.1)), .badParam, 0),
      (decide (r.p.fn ≠ 0) && ms.any (fun m => decide ((s.ctx m.1).st ≠ .free) && decide ((s.ctx m.1).fn ≠ r.p.fn.val)), .notOwner, 0),
      (ms.any (fun m => decide ((s.ctx m.1).gen ≠ m.2)), .staleGen, 0),
      (ms.any (fun m => s.gone m.1), .busy, 0),
      (decide (s.freeScene = none), .noResource, 0)]
  act r s :=
    match s.freeScene with
    | none => s.complete r .noResource 0
    | some k => ((s.allocTurn poolScene r.p.fn.val).updScene k (fun _ => { used := true, fn := r.p.fn.val, members := defMembers r.p })).complete r .ok k
  fail r st s := allocFail poolScene r.p.fn.val st s

def execScnDefine (p : Pkt) (s : State) : Ans := .next (submit .scnDefine mScnDefine p s)

/-! ### SCN_START_AT (R186 to R189) -/

/-- A membership whose context has been reset or closed since: another generation, or no context any more (R136, R191). DESIGN CHOICE,
log entry 60. -/
def State.memberStale (s : State) (m : Nat × Nat) : Bool := decide ((s.ctx m.1).gen ≠ m.2) || s.gone m.1

/-- A member that is stale, else one that cannot start. -/
def State.staleMember (s : State) (k : Nat) : Option Nat := ((s.scene k).members.find? s.memberStale).map (fun m => m.1)
def State.lameMember (s : State) (k : Nat) : Option Nat := ((s.scene k).members.find? (fun m => !s.canStart m.1)).map (fun m => m.1)

/-- Why the start fails at its instant: STALE_GEN if a generation has changed, else BUSY. -/
def scnCheck (r : Run) (s : State) : Option (Status × Nat) :=
  firstOf [
    (!s.scnOwned r.p, .notOwner, 0),
    ((s.staleMember (scnOf r.p)).isSome, .staleGen, 0),
    ((s.lameMember (scnOf r.p)).isSome || s.startBarred, .busy, 0)]

def actScnStartAt (r : Run) (s : State) : State :=
  let k := scnOf r.p
  let ms := s.members k
  if r.timed then (ms.foldl (fun s c => s.takeStart c) s).complete r .ok 0
  else (ms.foldl (fun s c => s.beginPreRun c (s.lc + 8192)) s).addJob r (.sceneStart k)

/-- No member starts; the context that failed is logged with SCENE_FAILED. -/
def failScnStartAt (r : Run) (st : Status) (s : State) : State :=
  let k := scnOf r.p
  let bad := match s.staleMember k with | some c => some c | none => s.lameMember k
  let s := match bad with
    | some c => s.fault 0x110 0 (.f r.p.fn) (some c) (o2n (s.ctx c).engine) (detQ r st 0 0)
    | none => s
  (s.members k).foldl (fun s c => if s.ownPreRun c then s.discardPreRun c else s) s

def mScnStartAt : Meaning where
  accept := scnCheck
  check := scnCheck
  act := actScnStartAt
  fail := failScnStartAt

def execScnStartAt (p : Pkt) (s : State) : Ans := .next (submit .scnStartAt mScnStartAt p s)

/-! ### SCN_ABORT (R190) -/

/-- A pending start of the scene is cancelled: its packet completes with BUSY and RESULT 1. -/
def State.cancelScene (s : State) (k : Nat) : State :=
  let hit := fun (t : Timed) => decide (t.run.op = .scnStartAt) && decide (scnOf t.run.p = k)
  let ts := s.sched.filter hit
  let s := ts.foldl (fun s t => s.complete t.run .busy 1) { s with sched := s.sched.filter (fun t => !hit t) }
  s.endKind (fun j => decide (j = .sceneStart k)) .busy 1

def mScnAbort : Meaning where
  accept r s := firstOf [(!s.scnOwned r.p, .notOwner, 0)]
  check r s := firstOf [(!s.scnOwned r.p, .notOwner, 0)]
  act r s := (((s.scene (scnOf r.p)).members.filter (fun m => !s.memberStale m)).foldl (fun s m => s.stopCtx m.1) (s.cancelScene (scnOf r.p))).complete r .ok 0

def execScnAbort (p : Pkt) (s : State) : Ans := .next (submit .scnAbort mScnAbort p s)

/-! ### SCN_DELETE (R191) -/

def mScnDelete : Meaning where
  check r s := firstOf [(!s.scnOwned r.p, .notOwner, 0), (s.scnPending (scnOf r.p), .busy, 0)]
  act r s := (s.updScene (scnOf r.p) (fun _ => {})).complete r .ok 0

def execScnDelete (p : Pkt) (s : State) : Ans := .next (submit .scnDelete mScnDelete p s)

end Sys2Proof.Machine
end

