-- ==== Sys2Proof/Machine/FastCh.lean ====
section
/-! DEFINITION. The fast-channel family: FCH_CONFIG, FCH_MODE, the ends of starts and ramps, the sample links, the load sense
and the unit elements (spec/08_fast_converters.md). The monitor sampler's window is in Calib.lean, CLRn in PrecCh.lean. -/
namespace Sys2Proof.Machine

/-! ### FCH_CONFIG (R234 to R238, R429) -/

def fchOf (p : Pkt) : Nat := pf p 4 0 5
def fchOn (p : Pkt) : Bool := pb p 4 8
def fchRamp (p : Pkt) : Nat := pf p 5 0 11

/-- The converter controller of the channel's die is not running. -/
def State.convDown (s : State) (c : Nat) : Bool := decide ((s.proc (3 + c / 8)).st ≠ 0)
def Fch.dead (f : Fch) : Bool := decide (f.st = .failed) || f.failing

/-- An enable is refused with BUSY. -/
def State.enableBarred (s : State) (c : Nat) : Bool :=
  !s.clk.locked || decide ((s.fch c).st = .cleared) || (s.fch c).dead || s.clk.arm.isSome || s.noStart || s.convDown c

/-- The start boundary: the smallest count that is a multiple of 64, at least 64 LC away and later than any stop ramp's end. -/
def State.startCount (s : State) (c : Nat) : W64 :=
  let x := match (s.fch c).rampEnd with | some e => max (s.tb.toNat + 64) ((s.tbAt e).toNat + 1) | none => s.tb.toNat + 64
  up64 (BitVec.ofNat 64 x)

/-- The channel enters STARTING; its packet waits for the boundary. -/
def State.startFch (s : State) (r : Run) (c : Nat) : State :=
  let b := s.startCount c
  (s.updFch c (fun f => { f with st := .starting, boundary := b })).addJob r (.fchStart c (s.lcAt b) (s.fch c).rampEnd.isSome)

def actFchConfig (r : Run) (s : State) : State :=
  let c := fchOf r.p
  let s := s.updFch c (fun f => { f with rampLc := fchRamp r.p })
  if fchOn r.p then
    (if (s.fch c).st = .muted ∨ (s.fch c).st = .stopping then s.startFch r c else s.complete r .ok 0)
  else (s.stopFch c).complete r .ok 0

/-- A timed enable that is refused tells the owning context why; a restarting controller is told for any enable. -/
def failFchConfig (r : Run) (st : Status) (s : State) : State :=
  let c := fchOf r.p
  if st = .busy ∧ fchOn r.p = true then
    let s := if s.convDown c then s.fault 0xA05 2 .cAndP (some r.p.ctx) (3 + c / 8) [] else s
    if !r.timed then s
    else if (s.fch c).dead then s.fault 0x303 5 .cp (some r.p.ctx) c [word (s.fch c).ratio.toNat]
    else if (s.fch c).st = .cleared then s.fault 0x302 0 .c (some r.p.ctx) c [word (s.fch c).ratio.toNat]
    else if !s.clk.locked then s.fault 0x501 2 .cAndP (some r.p.ctx) 0 []
    else s
  else s

def mFchConfig : Meaning where
  check r s :=
    let c := fchOf r.p
    firstOf [
      (decide (fchRamp r.p < 16) || decide (1024 < fchRamp r.p), .badParam, 0),
      (!s.holds r.p.ctx 0 c, .notOwner, 0),
      (fchOn r.p && s.enableBarred c, .busy, 0)]
  act := actFchConfig
  fail := failFchConfig

def execFchConfig (p : Pkt) (s : State) : Ans := .next (submit .fchConfig mFchConfig p s)

/-! ### FCH_MODE (R230, R403) -/

def fmMode (p : Pkt) : Mode := modeOf (pf p 4 8 2)
def fmCentre (p : Pkt) : Nat := (pw p 5).toNat

def mFchMode : Meaning where
  check r s :=
    let c := fchOf r.p
    firstOf [
      (if fmMode r.p = .band then decide (fmCentre r.p < 1000000) || decide (24000000 < fmCentre r.p) else decide (fmCentre r.p ≠ 0), .badParam, 0),
      (!s.holds r.p.ctx 0 c, .notOwner, 0),
      (decide ((s.fch c).st ≠ .failed) && (decide ((s.fch c).st ≠ .muted) || s.convDown c), .busy, 0)]
  act r s :=
    let c := fchOf r.p
    if (s.fch c).st = .failed then s.complete r .ok 0
    else
      let s := ((s.dropCommit c).reRate c (fmMode r.p)).updFch c (fun f => { f with mode := fmMode r.p, centre := fmCentre r.p })
      (s.updAoc c (fun a => { a with inForce := {}, pendSet := {}, pending := 0, windows := 0, lastSmall := false })).complete r .ok 0

def execFchMode (p : Pkt) (s : State) : Ans := .next (submit .fchMode mFchMode p s)

/-! ### The start boundary and the end of a ramp (R235, R236) -/

/-- The modulator is released from its zero state, the outputs at level 0 (R235). -/
def State.zeroModulator (s : State) (c : Nat) : State :=
  { s with conv := Tbl.set {} s.conv c { s.convOf c with modulator := 0, level := 0 } }

/-- The channel enters RUNNING at its boundary; what was placed on its markers for earlier samples is gone. -/
def execStartBoundary (c : Fin 32) (s : State) : Ans :=
  if (s.fch c).st = .starting then
    let s := s.advanceTo (s.lcAt (s.fch c).boundary)
    let s := (s.markersLow c).dropChEdges c (fun e => decide (e.at_ < 32 * s.lc))
    let s := s.each [2 * c.val, 2 * c.val + 1] (fun m s => s.updMarker m (fun k => { k with
      last := none, modeAt := k.modeAt.filter (fun x => decide (s.lc ≤ x.1)) }))
    let s := (s.zeroModulator c).updFch c (fun f => { f with st := .running, runFrom := s.lc, starts := sat 65535 (f.starts + 1), rampEnd := none })
    let js := s.jobs.filter (fun j => match j.kind with | .fchStart x _ _ => decide (x = c.val) | _ => false)
    .next (js.foldl (fun s j => match j.kind with
      | .fchStart _ _ w => s.complete j.run .ok (if w then 1 else 0)
      | _ => s) (s.dropJobs (fun j => js.contains j)))
  else .next s

/-- The level of a channel's first conversion sample in the present lane cycle. -/
def State.firstLevel (s : State) (c : Nat) : Int :=
  let k := s.convOf c
  (s.convSample c { k with sums := trimI (((s.summed c ((s.fch c).mode.rate * s.lc)).1 :: k.sums).take 64) } 0).1.level

/-- The factor has reached 0: the channel mutes at the first sample at level 0, in this lane cycle or at the next (R236). -/
def execStopRampEnd (c : Fin 32) (s : State) : Ans :=
  match (s.fch c).rampEnd with
  | none => .next s
  | some e =>
    let s := s.advanceTo e
    .next ((if s.firstLevel c = 0 then s else s.advanceTo (e + 1)).muteFch c)

/-! ### Sample links (R14, R237) -/

def dieChannels (n : Nat) : List Nat := (List.range 8).map (fun k => 8 * n + k)

def Fch.live (f : Fch) : Bool := decide (f.st = .running) || decide (f.st = .starting) || decide (f.st = .stopping)

/-- Every channel of the die that was live stops over 16 LC; one record a channel, or one for the die. -/
def execSampleLinkLoss (die : Fin 4) (s : State) : Ans :=
  let cs := (dieChannels die).filter (fun c => (s.fch c).live)
  let s : State := { s with linkDown := insertNat die s.linkDown }
  .next (if cs.isEmpty then s.fault 0x301 2 .p none (0x80 + die) []
    else cs.foldl (fun s c =>
      ((s.hwStopFch c).updFch c (fun f => { f with events := orBits f.events 5 })).fault 0x301 2 .cp (s.chCtx c) c [word (s.fch c).ratio.toNat]) s)

/-- The link is retrained: no channel resumes by itself (R75). -/
def execSampleLinkReturn (die : Fin 4) (s : State) : Ans :=
  .next { s with linkDown := s.linkDown.filter (fun n => decide (n ≠ die.val)) }

/-! ### Load verdicts (R244, Table 8.6) -/

/-- A verdict is given: its event bit, and a fault the first time since the last NORMAL. -/
def State.verdict (s : State) (c v : Nat) : State :=
  let bitOf := match v with | 3 => 0 | 4 => 1 | _ => 2
  if v = 1 then s.updFch c (fun f => { f with load := 1, raised := 0 })
  else
    let old := (s.fch c).raised / 2 ^ v % 2
    let s := s.updFch c (fun f => { f with load := v, events := orBits f.events bitOf, raised := if old = 1 then f.raised else f.raised + 2 ^ v })
    if old = 1 then s else s.fault (0x305 + bitOf) 0 .c (s.chCtx c) c [word (s.fch c).ratio.toNat]

def execDriverCurrentLimit (c : Fin 32) (s : State) : Ans :=
  if (s.fch c).st = .running then .next ((s.updFch c (fun f => { f with ilimit := true })).verdict c 4) else .next s

/-! ### Unit elements (R241, R242, R418) -/

/-- The CAL_ offset of an element's trim. -/
def elemTrim (c e : Nat) : Nat := 0x1000 + 4 * (54 * c + e)
def elemIdx (c e : Nat) : Nat := 54 * c + e

def State.setTrim (s : State) (o : Nat) (v : W32) : State :=
  s.updCal (fun k => { k with trims := Tbl.set none k.trims o (some v) })
def State.setShadow (s : State) (i : Nat) (v : Option (BitVec 16)) : State :=
  s.updCal (fun k => { k with shadow := Tbl.set none k.shadow i v })
def State.shadowOf (s : State) (i : Nat) : Option (BitVec 16) := Tbl.get none s.cal.shadow i

/-- Background element calibration runs on the channel (R417, R429). -/
def State.bgOn (s : State) (c : Nat) : Bool :=
  s.cal.bgRun && !s.selfRuns && !(s.fch c).dead && decide (0 < (s.fch c).spares) && !s.convDown c && decide ((s.proc 1).st = 0)

/-- A successful commit of a kind is recorded (R419). -/
def State.noteCal (s : State) (kind : Nat) : State :=
  s.updRec kind (fun r => {
    count := sat (2 ^ 32 - 1) (r.count + 1), time := s.tb, wall := s.wallNow, status := 0, result := 0
    temp := (s.sensor 9).reading, extref := s.cal.declared })

/-- A spare, set to the trim of an element, is driven with it for 1 LC and then takes its place in the index table; the spare's own new
trim comes into force there, and the element goes to the measurement position (R241, R418). -/
def execElementSwap (c : Fin 32) (spare out : Fin 54) (s : State) : Ans :=
  let f := s.fch c
  if s.bgOn c && !f.measuring && f.spareList.contains spare && !f.spareList.contains out && !f.retiredList.contains out then
    let s := (s.setTrim (elemTrim c spare) (s.trim (elemTrim c out))).tick
    let s := match s.shadowOf (elemIdx c spare) with
      | some v => ((s.setTrim (elemTrim c spare) (v.setWidth 32)).setShadow (elemIdx c spare) none).noteCal 2
      | none => s
    .next (s.updFch c (fun f => { f with
      table := f.table.map (fun e => if e = out.val then spare.val else e), spareList := f.spareList.filter (fun e => decide (e ≠ spare.val))
      position := out.val, measuring := true, measureAt := s.lc }))
  else .next s

/-- An element is retired, and where it was in service the first spare takes its place; with none left the channel fails. -/
def State.retireElement (s : State) (c e : Nat) : State :=
  let f := s.fch c
  let s := s.updFch c (fun f => { f with
    retired := f.retired + 1, retiredList := insertNat e f.retiredList, events := orBits f.events 6
    table := f.table.map (fun x => if x = e then (f.spareList.filter (fun y => decide (y ≠ e))).headD x else x)
    spareList := let l := f.spareList.filter (fun x => decide (x ≠ e)); if f.table.contains e then l.drop 1 else l
    spares := f.spares - 1, bgPaused := decide (f.spares ≤ 1) })
  let s := s.fault 0x304 3 .cp (s.chCtx c) c [word f.ratio.toNat, word e]
  if f.spares = 0 then s.failFch c else s

/-- The measurement of 1 ms has ended: the element is a spare again, or is retired. -/
def execElementMeasurementEnd (c : Fin 32) (trim : BitVec 16) (plausible trimmable : Bool) (s : State) : Ans :=
  let f := s.fch c
  if f.measuring then
    let s := s.advanceTo (f.measureAt + 1600000)
    let e := f.position
    let bad := Tbl.get 0 f.implausible e + 1
    let pass := insertNat e f.measured
    let whole := (List.range 54).all (fun x => pass.contains x || f.retiredList.contains x)
    let s := s.updFch c (fun f => { f with
      measuring := false, spareList := insertNat e f.spareList
      implausible := Tbl.set 0 f.implausible e (if plausible then 0 else bad)
      measured := if whole then [] else pass, passes := if whole then sat 65535 (f.passes + 1) else f.passes })
    .next (if (!trimmable) || (!plausible && decide (3 ≤ bad)) then s.retireElement c e
      else if plausible then s.setShadow (elemIdx c e) (some trim) else s)
  else .next s

end Sys2Proof.Machine
end

