-- ==== Sys2Proof/Machine/PrecCh.lean ====
section
/-! DEFINITION. The precision-channel family: PCH_CONFIG, PCH_LOAD, PCH_STROBE, PCH_QUEUE, ticks, strobes, settle-holds, range
switches, the precision link, CLRn and output-stage faults (spec/09_precision_channels.md; CLRn also
spec/08_fast_converters.md R239, R240). -/
namespace Sys2Proof.Machine

/-! ### Shared -/

/-- The precision controller is not running (R430). -/
def State.precDown (s : State) : Bool := decide ((s.proc 7).st ≠ 0)

/-- The ramp in progress stops where it is. -/
def Pch.freeze (p : Pch) (lc : Nat) : Pch := { p with force := p.forceNow lc, ramp := none }

/-- Codes apart, as the range's codes (R265). -/
def codeGap (range : Nat) (a b : BitVec 20) : Nat := (codeVal range a - codeVal range b).natAbs

/-- A code is applied on the PREC boundary `t` (R256, R265, R266): a change above SETTLE_THR takes the hold, or moves its
release, at t + 320 LC. -/
def Pch.apply (p : Pch) (code : BitVec 20) (t : Nat) : Pch :=
  let old := p.forceNow t
  let q := { p with force := code, ramp := none }
  match p.hold with
  | some (lv, k, rel) => { q with hold := some (lv, k, if p.settleThr < codeGap p.range code lv then t + 320 + 64000 else rel) }
  | none =>
    match p.holdDue with
    | some (lv, k, rel) => { q with holdDue := some (lv, k, if p.settleThr < codeGap p.range code lv then t + 320 + 64000 else rel) }
    | none => if p.settleThr < codeGap p.range code old then { q with holdDue := some (old, t + 320, t + 320 + 64000) } else q

/-- The longest hold, 400 µs (R266). -/
def holdMax : Nat := 640000

/-! ### PCH_CONFIG (R250 to R254, R430) -/

def pcOf_ (p : Pkt) : Nat := pf p 4 0 4
def pcRange (p : Pkt) : Nat := pf p 4 4 3
def pcStrobed (p : Pkt) : Bool := pb p 4 8
def pcGroup (p : Pkt) : Nat := pf p 4 10 2
def pcEnable (p : Pkt) : Bool := pb p 4 12
def pcClear (p : Pkt) : BitVec 20 := (pw p 5).setWidth 20
def pcThr (p : Pkt) : Nat := pf p 6 0 20
def pcDiv (p : Pkt) : Nat := pf p 7 0 24

/-- The packet changes RANGE, STROBED, GROUP or DIV. -/
def pcChanges (p : Pkt) (c : Pch) : Bool :=
  decide (pcRange p ≠ c.range) || decide (pcStrobed p ≠ c.strobed) || decide (pcGroup p ≠ c.group) || decide (pcDiv p ≠ c.div)

/-- The packet would start a range switch. -/
def pcSwitches (p : Pkt) (c : Pch) : Bool := decide (c.st = .disabled) && decide (pcRange p ≠ c.range)

/-- The range switch of Table 9.3 begins: from the old clear level to zero over 64 µs. -/
def State.beginSwitch (s : State) (r : Run) (n : Nat) : State :=
  let p := r.p
  (s.updPch n (fun c => { c with
    st := .switching, load := 0, swAt := s.lc, swStage := 0, swNewRange := pcRange p, swEnable := pcEnable p
    swOld := some (c.strobed, c.group, c.div, c.settleThr, c.clear)
    strobed := pcStrobed p, group := pcGroup p, div := pcDiv p, settleThr := pcThr p, clear := pcClear p
    force := 0, ramp := some (c.forceNow s.lc, 0, s.lc, s.lc + 102400) })).addJob r (.pchSwitch n)

/-- The configuration is replaced with the range kept; a new clear level of a DISABLED channel is reached in 64 µs, and a
disable ramp under way goes to it instead. -/
def Pch.configure (c : Pch) (p : Pkt) (lc : Nat) : Pch :=
  let moved := decide (c.clear ≠ pcClear p)
  let q := { c with strobed := pcStrobed p, group := pcGroup p, div := pcDiv p, settleThr := pcThr p, clear := pcClear p }
  if !moved then q else
  match c.st with
  | .disabled => { q with force := pcClear p, ramp := some (c.forceNow lc, pcClear p, lc, lc + 102400) }
  | .ramping => { q with force := pcClear p, ramp := some (c.forceNow lc, pcClear p, lc, (c.ramp.map (fun x => x.2.2.2)).getD lc) }
  | _ => q

def actPchConfig (r : Run) (s : State) : State :=
  let p := r.p
  let n := pcOf_ p
  if pcSwitches p (s.pch n) then s.beginSwitch r n
  else
    let st := (s.pch n).st
    let s := s.updPch n (fun c => c.configure p s.lc)
    if pcEnable p then
      match st with
      | .ramping =>
        let s := s.endKind (fun k => decide (k = .pchDisable n)) .ok 0
        (s.updPch n (fun c => { c.freeze s.lc with st := .enabled, ticksOff := false })).complete r .ok 0
      | _ => (s.updPch n (fun c => { c with st := .enabled, ticksOff := false })).complete r .ok 0
    else if st = .enabled then (s.rampPch n).addJob r (.pchDisable n)
    else s.complete r .ok 0

def mPchConfig : Meaning where
  check r s :=
    let p := r.p
    let n := pcOf_ p
    let c := s.pch n
    firstOf [
      (decide (5 < pcRange p) || (!pcStrobed p && decide (pcDiv p < 200)) || (pcStrobed p && decide (pcDiv p ≠ 0)) ||
        (!pcStrobed p && decide (pcGroup p ≠ 0)), .badParam, 0),
      (!s.holds p.ctx 2 n || (pcStrobed p && !s.holds p.ctx 7 (pcGroup p)), .notOwner, 0),
      (decide (c.st = .cleared) || decide (c.st = .failed) || decide (c.st = .switching) ||
        (decide (c.st ≠ .disabled) && pcChanges p c) || (pcEnable p && s.noStart) ||
        (decide (pcRange p ≠ c.range) && (s.fwArmed || s.selfRuns)) || (pcSwitches p c && s.precDown), .busy, 0)]
  act := actPchConfig
  fail r st s :=
    if st = .busy ∧ pcSwitches r.p (s.pch (pcOf_ r.p)) = true ∧ s.precDown = true then s.fault 0xA09 2 .cAndP (some r.p.ctx.val) 7 [] else s

def execPchConfig (p : Pkt) (s : State) : Ans := .next (submit .pchConfig mPchConfig p s)

/-- A channel that has reached its clear level: DISABLED, and released where its release was asked (R253, R254). -/
def State.donePch (s : State) (n : Nat) : State :=
  let s := s.endKind (fun k => decide (k = .pchDisable n)) .ok 0
  if (s.pch n).releasing then (s.freePch n).endKind (fun k => decide (k = .pchRelease n)) .ok 0 else s

def execDisableRampEnd (n : Fin 16) (s : State) : Ans :=
  match (s.pch n).st, (s.pch n).ramp with
  | .ramping, some (_, b, _, t) =>
    let s := s.advanceTo t
    .next ((s.updPch n (fun p => { p with st := .disabled, force := b, ramp := none })).donePch n)
  | _, _ => .next s

/-! ### The range switch (R251, Table 9.3) -/

def execPchSwitchHold (n : Fin 16) (s : State) : Ans :=
  let p := s.pch n
  if p.st = .switching ∧ p.swStage = 0 ∧ s.precDown = false then
    let s := s.advanceTo (p.swAt + 102400)
    .next (s.updPch n (fun p => { p with swStage := 1, range := p.swNewRange, force := 0, ramp := none }))
  else .next s

def execPchSwitchRelease (n : Fin 16) (s : State) : Ans :=
  let p := s.pch n
  if p.st = .switching ∧ p.swStage = 1 ∧ s.precDown = false then
    let s := s.advanceTo (p.swAt + 118400)
    .next (s.updPch n (fun p => { p with swStage := 2, force := p.clear, ramp := some (0, p.clear, s.lc, s.lc + 102400) }))
  else .next s

def execPchSwitchEnd (n : Fin 16) (s : State) : Ans :=
  let p := s.pch n
  match p.ramp with
  | some (_, _, _, t) =>
    if p.st = .switching ∧ p.swStage = 2 ∧ s.precDown = false then
      let s := s.advanceTo t
      let s := s.updPch n (fun p => { p with
        st := if p.swEnable then .enabled else .disabled, force := p.clear, ramp := none, swOld := none, ticksOff := false })
      .next ((s.endKind (fun k => decide (k = .pchSwitch n)) .ok 0).donePch n)
    else .next s
  | none => .next s

/-! ### PCH_LOAD (R259, R264) -/

def loadSel (p : Pkt) : List Nat := (List.range 16).filter (fun n => pb p 4 n)

/-- A code goes into a holding register. After a timed strobe of the same count, that strobe still transfers what was there. -/
def State.loadHold (s : State) (r : Run) (n : Nat) : State :=
  let keep := r.timed && decide ((s.group (s.pch n).group).strobeAt = some s.lc)
  s.updPch n (fun p => { p with
    shadow := if keep && p.shadow.isNone then some (p.holdCode, p.holdFresh, p.holdSrc) else p.shadow
    holdCode := (pw r.p (5 + n)).setWidth 20, holdFresh := true, holdSrc := 0 })

def mPchLoad : Meaning where
  check r s :=
    let ns := loadSel r.p
    firstOf [
      (decide (ns = []), .badParam, 0),
      (ns.any (fun n => !s.holds r.p.ctx 2 n), .notOwner, 0),
      (ns.any (fun n => !(s.pch n).strobed || decide ((s.pch n).st = .cleared) || decide ((s.pch n).st = .failed)), .busy, 0)]
  act r s := ((loadSel r.p).foldl (fun s n => s.loadHold r n) s).complete r .ok 0

def execPchLoad (p : Pkt) (s : State) : Ans := .next (submit .pchLoad mPchLoad p s)

/-! ### Strobes (R260 to R263) -/

/-- The strobed members of a group. -/
def State.membersOf (s : State) (g : Nat) : List Nat :=
  (List.range 16).filter (fun n => (s.pch n).strobed && decide ((s.pch n).group = g))

def State.ignoreStrobe (s : State) (g : Nat) : State := s.updGroup g (fun k => { k with ignored := sat 1023 (k.ignored + 1) })

/-- STROBE_LATE to each context that holds a member, with the deferral in LC. -/
def State.strobeLate (s : State) (g d : Nat) : State :=
  (((s.membersOf g).filterMap (fun n => (s.pch n).owner)).eraseDups).foldl (fun s c => s.fault 0x402 0 .c (some c) (0x100 + g) [0, word d]) s

/-- A strobe for boundary t within 1,600 LC of a transfer at l: deferred to l + 1,600, or joined to the one deferred already. One further
away is placed when that one has transferred, as the one deferred. -/
def State.deferAfter (s : State) (g l t : Nat) : State :=
  if (s.group g).deferred.isSome then s.updGroup g (fun k => { k with merged := sat 1023 (k.merged + 1) })
  else if l + 1600 ≤ t then s.updGroup g (fun k => { k with deferred := some t })
  else (s.updGroup g (fun k => { k with deferred := some (l + 1600), late := sat 4095 (k.late + 1) })).strobeLate g (l + 1600 - t)

/-- A strobe for boundary t where none is placed: the last transfer may defer it. -/
def State.placeStrobe (s : State) (g t : Nat) : State :=
  match (s.group g).last with
  | some l => if l + 1600 ≤ t ∧ (s.group g).deferred.isNone = true then s.updGroup g (fun k => { k with due := some t }) else s.deferAfter g l t
  | none => s.updGroup g (fun k => { k with due := some t })

/-- A strobe that would transfer on the PREC boundary `t`: with one already placed there it makes one transfer; one that
arrives while another is deferred joins that one; within 1,600 LC of the transfer before it, it is deferred. -/
def State.strobe (s : State) (g t : Nat) : State :=
  let k := s.group g
  if k.owner.isNone || s.power.clrnLow then s.ignoreStrobe g
  else if s.precLinkDown then
    (if k.linkWait.isSome then s.updGroup g (fun k => { k with merged := sat 1023 (k.merged + 1) })
     else s.updGroup g (fun k => { k with linkWait := some t }))
  else if k.due = some t ∨ k.last = some t then s
  else
    match k.due with
    | none => s.placeStrobe g t
    | some l =>
      if t < l then
        let d := match k.last with | some x => max t (x + 1600) | none => t
        let s := if d = t then s else (s.updGroup g (fun k => { k with late := sat 4095 (k.late + 1) })).strobeLate g (d - t)
        if d = l then s else (s.updGroup g (fun k => { k with due := some d })).deferAfter g d l
      else s.deferAfter g l t

def groupsOf (v : W32) : List Nat := (List.range 4).filter (fun g => bit v g)

/-- A timed strobe takes the first boundary at its count, another the first after it reaches the LANE domain. -/
def actPchStrobe (r : Run) (s : State) : State :=
  let t := s.boundaryFrom (if r.timed && !r.ranLate then s.lc else s.lc + 1) 8
  let s := (groupsOf (pw r.p 4)).foldl (fun s g => s.strobe g t) s
  if r.timed then (groupsOf (pw r.p 4)).foldl (fun s g => s.updGroup g (fun k => { k with strobeAt := some s.lc })) s
  else s

def mPchStrobe : Meaning where
  check r s := firstOf [(decide (groupsOf (pw r.p 4) = []) || (groupsOf (pw r.p 4)).any (fun g => !s.holds r.p.ctx 7 g), .notOwner, 0)]
  act := actPchStrobe

def execPchStrobe (p : Pkt) (s : State) : Ans := .next (submit .pchStrobe mPchStrobe p s)

/-- The edge enters as an event in the second or third lane cycle after its crossing, which of the two is not stated. -/
def execLdstbRise (g : Fin 4) (s : State) : Ans :=
  let s : State := { s with power := { s.power with ldstb := s.power.ldstb ||| (1 <<< g.val) } }
  .next ((s.strobe g (s.boundaryFrom (s.lc + 2 + Config.freeNat s.fresh % 2 + 4) 8)).bump)

/-- A member at a transfer on the boundary `t`. -/
def State.transferTo (s : State) (n t : Nat) : State :=
  let p := s.pch n
  if p.st ≠ .enabled then s.updPch n (fun p => { p with shadow := none })
  else
    let (code, fresh, src) := match p.shadow with | some x => x | none => (p.holdCode, p.holdFresh, p.holdSrc)
    let kept := p.shadow.isSome
    let s :=
      if fresh then s.updPch n (fun p => { p.apply code t with
        holdFresh := kept, tookNoLast := decide (src = 2), done := decide (src = 1) })
      else if p.tookNoLast then (s.updPch n (fun p => { p with under := some (s.tbAt t, 1) })).endUnder n
      else s
    s.updPch n (fun p =>
      match p.queue with
      | [] => { p with shadow := none }
      | (c, l) :: q =>
        if kept then { p with shadow := none, queue := q }
        else { p with shadow := none, queue := q, holdCode := c, holdFresh := true, holdSrc := if l then 1 else 2 })

def State.transfer (s : State) (g t : Nat) : State :=
  let s := s.updGroup g (fun k => { k with last := some t, transfers := sat (2 ^ 32 - 1) (k.transfers + 1) })
  (s.membersOf g).foldl (fun s n => s.transferTo n t) s

/-- The strobe placed, or the deferred one, transfers on its boundary. -/
def execStrobeTransfer (g : Fin 4) (s : State) : Ans :=
  let k := s.group g
  match k.due, k.deferred with
  | none, none => .next s
  | d, f =>
    let t := match d with | some t => t | none => f.getD s.lc
    let s := (s.advanceTo t).updGroup g (fun k => if d.isSome then { k with due := none } else { k with deferred := none })
    .next (if s.power.clrnLow then s.ignoreStrobe g
      else if s.precLinkDown then s.strobe g t
      else s.transfer g t)

/-! ### PCH_QUEUE and ticks (R257, R258) -/

def queueCount (p : Pkt) : Nat := (pw p 5).toNat

/-- Codes that transfers under way will append to the channel's queue. -/
def State.queueTaken (s : State) (n : Nat) : Nat :=
  (s.jobs.filter (fun j => decide (j.run.op = .pchQueue) && decide (pcOf_ j.run.p = n))).foldl (fun a j => a + queueCount j.run.p) 0

def mPchQueue : Meaning where
  check r s :=
    let n := pcOf_ r.p
    let c := s.pch n
    firstOf [
      (decide (queueCount r.p = 0) || decide (65536 < queueCount r.p), .badParam, 0),
      (!s.holds r.p.ctx 2 n, .notOwner, 0),
      (decide (c.st = .cleared) || decide (c.st = .failed), .busy, 0),
      (decide (65536 < c.queue.length + s.queueTaken n + queueCount r.p), .noResource, 0)]
  act r s := s.addJob r .transfer

def execPchQueue (p : Pkt) (s : State) : Ans := .next (submit .pchQueue mPchQueue p s)

/-- A queue word (Table 9.4). -/
def queueWord (w : W32) : BitVec 20 × Bool := (w.setWidth 20, bit w 31)

/-- Words read from host memory join the queue, unless the channel has been cleared, failed or released meanwhile. -/
def takePchQueue (r : Run) (d : List Byte) (s : State) : State :=
  let n := pcOf_ r.p
  if (s.pch n).st = .cleared ∨ (s.pch n).st = .failed ∨ s.holds r.p.ctx 2 n = false then s
  else s.updPch n (fun p => { p with queue := p.queue ++ ((wordsOf d).take (queueCount r.p)).map queueWord })

/-- A PCH_QUEUE ends without its whole buffer: what it queues from there on is undefined (R120, R121). -/
def failPchQueue (r : Run) (d : List Byte) (s : State) : State :=
  let n := 4 * queueCount r.p
  (takePchQueue r (d.take n ++ s.freeBytes (n - d.length)) s).bumpBy (n - d.length)

/-- A tick that finds no code where one is due: an underrun episode starts or goes on. -/
def State.missTick (s : State) (n : Nat) : State :=
  s.updPch n (fun p => { p with under := match p.under with | some (t, k) => some (t, k + 1) | none => some (s.tb, 1) })

/-- The next sample tick, on a multiple of 8 × DIV after the last divider restart. -/
def execQueueTick (n : Fin 16) (s : State) : Ans :=
  let p := s.pch n
  if p.st = .enabled ∧ p.strobed = false then
    let s := s.advanceTo (s.boundaryFrom (match p.tickAt with | some t => max s.lc (t + 1) | none => s.lc) (8 * p.div))
    let s := s.updPch n (fun p => { p with tickAt := some s.lc })
    .next (if p.ticksOff then s
      else if s.precLinkDown then (if p.queue.isEmpty && !p.tookNoLast then s else s.missTick n)
      else match p.queue with
        | [] => if p.tookNoLast then s.missTick n else s
        | (c, l) :: q => (s.endUnder n).updPch n (fun p => { p.apply c s.lc with queue := q, tookNoLast := !l, done := l }))
  else .next s

/-! ### The settle-hold (R265, R266) -/

def execSettleHoldTake (n : Fin 16) (s : State) : Ans :=
  match (s.pch n).holdDue with
  | some (lv, t, rel) =>
    let s := s.advanceTo t
    .next (s.updPch n (fun p => { p with holdDue := none, hold := some (lv, t, rel), holds := sat 65535 (p.holds + 1) }))
  | none => .next s

def execSettleHoldRelease (n : Fin 16) (s : State) : Ans :=
  match (s.pch n).hold with
  | some (_, t, rel) => if rel < t + holdMax then .next ((s.advanceTo rel).updPch n (fun p => { p with hold := none })) else .next s
  | none => .next s

def execHoldForced (n : Fin 16) (s : State) : Ans :=
  match (s.pch n).hold with
  | some (_, t, rel) =>
    if t + holdMax ≤ rel then .next ((s.advanceTo (t + holdMax)).updPch n (fun p => { p with hold := none, events := orBits p.events 7 }))
    else .next s
  | none => .next s

/-! ### CLRn (R239, R240, R267 to R269) -/

/-- An enable of a channel that has been decided in this lane cycle and whose completion is not yet written (Table 8.5). -/
def Cpl.enables (k : Cpl) (c : Nat) (t : W64) : Bool :=
  decide (k.op = .fchConfig) && !k.interim && decide (k.status = .ok) && decide (k.time = t) && pb k.p 4 8 && decide (pf k.p 4 0 5 = c)

/-- CLRn decides over an enable of the same lane cycle: it completes with BUSY. -/
def State.turnEnables (s : State) (c : Nat) : State :=
  { s with held := s.held.map (fun k => if k.enables c s.tb then { k with status := .busy, result := 0, suppressed := false } else k) }

/-- One fast channel at a taken clear: it reads CLEARED, and what it converts ramps to zero over 16 LC (R239, R240). -/
def State.clearFch (s : State) (c : Nat) : State :=
  let f := s.fch c
  if f.st = .failed then s
  else
    let stopped := f.live
    let s := (s.withdrawStart c).turnEnables c
    let s := if f.st = .running then s.dropChEdges c (fun _ => true) else s
    let s := s.updFch c (fun f => { (if f.st = .running then f.rampOver s.lc 16 else f.hwRamp s.lc) with
      st := .cleared, events := orBits f.events 3, hwStops := if stopped then sat 65535 (f.hwStops + 1) else f.hwStops })
    let s := if stopped ∧ f.owner.isSome then s.fault 0x302 0 .c f.owner c [word f.ratio.toNat] else s
    if (s.fch c).rampEnd.isSome then s else s.muteFch c

/-- A range switch is abandoned (R269): before its hold the old configuration stays and the packet is BUSY. -/
def State.dropSwitch (s : State) (n : Nat) : State :=
  let p := s.pch n
  if p.st ≠ .switching then s
  else if p.swStage = 0 then
    let s := s.endKind (fun k => decide (k = .pchSwitch n)) .busy 0
    match p.swOld with
    | some (sb, g, d, t, c) => s.updPch n (fun p => { p with strobed := sb, group := g, div := d, settleThr := t, clear := c, swOld := none })
    | none => s
  else (s.endKind (fun k => decide (k = .pchSwitch n)) .ok 0).updPch n (fun p => { p with swOld := none })

/-- One precision channel goes to its clear level: through its clear hold under CLRn, or on its way to FAILED. -/
def State.clearPch (s : State) (n : Nat) (st : PchSt) : State :=
  let s := (s.dropSwitch n).endUnder n
  (s.updPch n (fun p => { p.discard with st := st, force := p.clear, ramp := none, swEnable := false })).donePch n

def clearOne (n : Nat) (s : State) : State :=
  let p := s.pch n
  if p.st = .failed then s
  else
    let s := (s.clearPch n .cleared).updPch n (fun p => { p with events := orBits p.events 6 })
    if p.st ≠ .disabled ∧ p.owner.isSome then s.fault 0x302 0 .c p.owner (0x40 + n) [p.reading] else s

def execClrnFall (s : State) : Ans :=
  if s.power.clrnLow then .next s else
  let s : State := { s with power := { s.power with clrnLow := true }, clrCount := sat 65535 (s.clrCount + 1) }
  let s := s.each (List.range 32) (fun c s => s.clearFch c)
  let s := s.each (List.range 16) clearOne
  let s := s.fireSrc (srcIs 7 1024) s.lc
  .next (s.abandonBatch 1)

/-- CLRn is high again: a CLEARED channel is MUTED, its ramp over. -/
def State.leaveClear (s : State) (c : Nat) : State :=
  let s := if (s.fch c).st = .cleared ∧ (s.fch c).rampEnd.isSome = true then s.muteFch c else s
  if (s.fch c).st = .cleared then s.updFch c (fun f => { f with st := .muted }) else s

def execClrnRise (s : State) : Ans :=
  if s.power.clrnLow then
    let s : State := { s with power := { s.power with clrnLow := false } }
    let s := s.each (List.range 32) (fun c s => s.leaveClear c)
    .next (s.each (List.range 16) (fun n s => if (s.pch n).st = .cleared then s.updPch n (fun p => { p with st := .disabled }) else s))
  else .next s

/-- The clear holds are charged afresh. -/
def execClearHoldRefresh (s : State) : Ans :=
  .next (s.each (List.range 16) (fun n s => s.updPch n (fun p => { p with clearHoldAt := s.lc })))

/-! ### Load supervision (R270) and output stages (R243, R273) -/

def currentRange (r : Nat) : Bool := decide (3 ≤ r)

/-- The output has reached its limit while the loop regulates: the comparator trips, and the owning context is told. -/
def State.tripPch (s : State) (n : Nat) : State :=
  let p := s.pch n
  if p.comparator = false ∧ p.st ≠ .cleared ∧ p.st ≠ .failed then
    let k := if currentRange p.range then 0 else 1
    let s := s.updPch n (fun p => { p with comparator := true, events := orBits p.events k })
    if p.owner.isSome then s.fault (0x403 + k) 0 .c p.owner n [p.reading] else s
  else s

def execComplianceTrip (n : Fin 16) (s : State) : Ans := .next (s.tripPch n)

/-- A precision channel enters FAILED; its output switch opens (R273, R428). -/
def State.failPch (s : State) (n : Nat) : State :=
  let p := s.pch n
  if p.st = .failed then s else
  ((s.clearPch n .failed).updPch n (fun p => { p with events := orBits p.events 8 })).fault 0x303 5 .cp p.owner (0x40 + n) [p.reading]

def execOutputStageFault (o : OutStage) (s : State) : Ans :=
  match o with
  | .fast c => .next (s.failFch c)
  | .prec n => .next (s.failPch n)

/-! ### The precision link (R274, Table 16.1) -/

/-- The contexts that hold a precision channel, each with its lowest-numbered one. -/
def State.pchHolders (s : State) : List (Nat × Nat) :=
  (List.range 16).foldl (fun l n => match (s.pch n).owner with
    | some c => if l.any (fun e => decide (e.1 = c)) then l else l ++ [(c, n)]
    | none => l) []

/-- Codes are held, the link retrains and the precision controller restarts. -/
def execPrecLinkLoss (s : State) : Ans :=
  if s.precLinkDown then .next s else
  let s : State := { s with precLinkDown := true }
  let s := if (s.proc 7).st = 0 then s.updProc 7 (fun p => { p with st := 1 }) else s
  .next (if s.pchHolders.isEmpty then s.fault 0x408 2 .p none 0 []
    else s.pchHolders.foldl (fun s e => s.fault 0x408 2 .cAndP (some e.1) e.2 []) s)

/-- A strobe that waited transfers on the first PREC boundary from now, with STROBE_LATE; not under CLRn (R267), and 1,600 LC after the
transfer before it at the earliest (R263). -/
def State.resumeStrobe (s : State) (g : Nat) : State :=
  match (s.group g).linkWait with
  | some t =>
    let s := s.updGroup g (fun k => { k with linkWait := none })
    if s.power.clrnLow then s.ignoreStrobe g
    else
      let b := s.boundaryFrom s.lc 8
      let d := match (s.group g).last with | some l => max b (l + 1600) | none => b
      let s := (s.updGroup g (fun k => { k with late := sat 4095 (k.late + 1) })).strobeLate g (d - t)
      if d = b then s.transfer g b else s.updGroup g (fun k => { k with deferred := some d })
  | none => s

def execPrecLinkReturn (s : State) : Ans :=
  if s.precLinkDown then .next (({ s with precLinkDown := false } : State).each [0, 1, 2, 3] (fun g s => s.resumeStrobe g)) else .next s

end Sys2Proof.Machine
end

