-- ==== Sys2Proof/Machine/VoiceCh.lean ====
section
/-! DEFINITION. The voice family: VOC_CONFIG, phase-follow, and the starts, ends, misses, fills and ramps of a voice's actions
(spec/07_voices_channel_datapath.md; R127 of spec/05_contexts_engines.md). -/
namespace Sys2Proof.Machine

/-! ### VOC_CONFIG (R193, R194, R219) -/

def vocOf (p : Pkt) : Nat := pf p 4 0 8
def vocFollowEn (p : Pkt) : Bool := pb p 5 4
def vocSlot (p : Pkt) : Nat := pf p 5 8 4

/-- The record the packet writes; the base delay in force is kept. -/
def vocRec (p : Pkt) (base : Int) : VocRec :=
  { holdLast := pb p 5 0, followEn := vocFollowEn p, followSlot := vocSlot p, followK := pf p 5 12 3, base := base,
    followRef := signed (pw p 7), followLimit := pf p 8 0 22, followSlew := pf p 9 0 13 }

/-- A coherent hop at the first sample of the present lane cycle; a HOP step effective at the same sample prevails, and a PHASE_SET
there still sets A. -/
def State.vocHop (s : State) (v : Nat) (p : Pkt) : State :=
  let n := (s.voiceMode v).rate * s.lc
  let h : Hop := {
    at_ := n, freq := BitVec.ofNat 48 ((pw p 10).toNat + 2 ^ 32 * pf p 11 0 16), phase := BitVec.ofNat 16 (pf p 11 16 16), coherent := true, rank := 0 }
  (s.pastNco v).updVoice v (fun x => if x.hops.any (fun y => decide (y.rank = 1) && !y.onPlay && decide (y.at_ = n)) then x
    else { x with hops := insertHop h (x.hops.filter (fun y => !(decide (y.rank = 0) && decide (y.at_ = n)))) })

/-- A base delay applies to the first action that starts at or after this lane cycle: at once where one has started in it. -/
def Voice.setBase (x : Voice) (b : Int) (lc : Nat) : Voice :=
  if x.cur.isSome && decide (lc ≤ x.startedAt) then { x with own := x.own + (b - x.vrec.base), vrec := { x.vrec with base := b }, basePending := none }
  else { x with basePending := some b }

/-- With BASE_SET 0 a base delay set before and still waiting for an action keeps waiting. DESIGN CHOICE, log entry 61. -/
def actVocConfig (r : Run) (s : State) : State :=
  let p := r.p
  let v := vocOf p
  let s := (s.carryF v).updVoice v (fun x => if pb p 5 17 then x.setBase (signed (pw p 6)) s.lc else x)
  let s := s.updVoice v (fun x => { x with
    vrec := vocRec p x.vrec.base, followHeld := false
    t := if pb p 5 5 then 0 else x.t
    f := if pb p 5 5 then 0 else x.f
    atLimit := if pb p 5 5 then false else x.atLimit })
  (if pb p 5 16 then s.vocHop v p else s).complete r .ok 0

def mVocConfig : Meaning where
  check r s :=
    let p := r.p
    firstOf [
      (decide (2097152 < pf p 8 0 22) || decide (4096 < pf p 9 0 13) || (pb p 5 17 && !vernOk (signed (pw p 6))), .badParam, 0),
      (!s.holds p.ctx 1 (vocOf p) || (vocFollowEn p && !s.holds p.ctx 8 (vocSlot p)), .notOwner, 0)]
  act := actVocConfig

def execVocConfig (p : Pkt) (s : State) : Ans := .next (submit .vocConfig mVocConfig p s)

/-! ### Phase-follow (R217 to R219) -/

/-- The quotient by 2^k rounded to the nearest, halves away from zero. -/
def roundShift (x : Int) (k : Nat) : Int :=
  let d : Nat := 2 ^ k
  let m := (2 * x.natAbs + d) / (2 * d)
  if x < 0 then -(m : Int) else m

def clampTo (m x : Int) : Int := max (-m) (min m x)

/-- One result enters a voice's follow target. T held at the limit stays so until it has returned inside (R218). -/
def State.follow (s : State) (phi : Int) (v : Nat) : State :=
  let x := s.voice v
  let t := x.t + roundShift (phi - x.vrec.followRef - x.t) x.vrec.followK
  let t' := clampTo x.vrec.followLimit t
  let s := (s.carryF v).updVoice v (fun x => { x with
    t := t', atLimit := decide (t ≠ t') || (x.atLimit && decide (t'.natAbs = x.vrec.followLimit)) })
  if t ≠ t' ∧ x.atLimit = false then
    match x.cur with
    | some a => s.fault 0x204 0 .c x.owner v (detV a.seg a.segGen 0 (s.tbAt a.pos) 0 0)
    | none => s.fault 0x204 0 .c x.owner v []
  else s

/-- The oldest result on its way enters 6 LC after its registration. -/
def execFollowUpdate (slot : Fin 16) (s : State) : Ans :=
  match (s.slot slot).toVoice with
  | [] => .next s
  | (phi, u) :: rest =>
    let s := (s.advanceTo (u + 6)).updSlot slot (fun k => { k with toVoice := rest })
    .next ((s.followers slot).foldl (fun s v => s.follow phi v) s)

/-! ### Starting an action (R127, R154, R194, R196, R197, R200, R204, R218) -/

/-- An action's delay without the follow term: base, VERNIER and jump terms (R196). -/
def Voice.ownDelay (x : Voice) (a : Action) : Int := x.basePending.getD x.vrec.base + a.vernier + a.jump.getD 0

/-- The follow term an action would start with: T itself where FOLLOW_SLEW is 0 (R218). -/
def Voice.fStart (x : Voice) (lc : Nat) : Int := if x.vrec.followEn && !x.followHeld && decide (x.vrec.followSlew = 0) then x.t else x.fNow lc

/-- The summed delay an action would start with, in 2^-16 LC. -/
def Voice.sumDelay (x : Voice) (lc : Nat) (a : Action) : Int := x.ownDelay a + x.fStart lc

/-- The delayed position of an action's first sample, in 2^-16 LC. -/
def State.firstDue (s : State) (v : Nat) (a : Action) : Int := 65536 * (a.pos : Int) + heldDelay ((s.voice v).sumDelay s.lc a)

/-- By how much an action became usable after the delayed position of its first sample, though by its timeline position (R200). -/
def State.shortfall (s : State) (v : Nat) (a : Action) : Nat :=
  if a.usable ≤ a.pos ∧ s.firstDue v a < 65536 * (a.pos : Int) then (65536 * (a.usable : Int) - s.firstDue v a).toNat else 0

/-- Where an action's samples lie as it starts: a slot copy stays; else the segment's bank or complete copy, or DRAM (R154). -/
def State.placed (s : State) (a : Action) : Action :=
  if a.copyUnits ≠ 0 then a
  else match (s.seg a.seg).bankAt with
    | some (b, o) => { a with bank := some b, bankOff := o }
    | none => { a with bank := none, bankOff := 0 }

/-- The voice plays action a from the present lane cycle on, at the samples still due, with the faults of R197 and R200. The action it
played before goes on sounding until the first delayed sample of this one (R199). -/
def State.startAction (s : State) (v : Nat) (a : Action) : State :=
  let short := s.shortfall v a
  let s := s.carryF v
  let x := s.voice v
  let own := x.ownDelay a
  let f := x.fStart s.lc
  let out := own + f - heldDelay (own + f)
  let s := s.updVoice v (fun x => { x with
    st := .playing, before_ := x.cur.map (fun b => (b, x.own)), cur := some (s.placed a), queue := x.queue.filter (fun b => decide (b ≠ a))
    own := own, startedAt := s.lc, limited := decide (out ≠ 0), jumped := a.jump.isSome, lastEnd := none, fillEp := none
    vrec := { x.vrec with base := x.basePending.getD x.vrec.base }, basePending := none, f := f, fAt := s.lc
    hops := match a.phaseSet with
      | some ph => insertHop { at_ := (s.voiceMode v).rate * a.pos, phase := ph, rank := 2 } x.hops
      | none => x.hops })
  let s := if out ≠ 0 then s.vernLimit v a s.tb out.natAbs else s
  if short ≠ 0 then s.vernLimit v a s.tb short else s

/-- The voice has no action: it is idle, and free where its release was asked. -/
def State.idleVoice (s : State) (v e : Nat) : State :=
  let rel := (s.voice v).releasing
  let s := (s.carryF v).updVoice v (fun x => { x with st := .idle, cur := none, before_ := none, jumped := false, fillEp := none, lastEnd := some e })
  if rel then s.freeVoice v else s

/-- An action is executed: one whose format is not its channel's mode stops the context instead (R156). -/
def State.beginAction (s : State) (v : Nat) (a : Action) : State :=
  if (s.seg a.seg).fmt = (s.voiceMode v).format then s.startAction v a
  else
    let o := (s.voice v).owner
    let c := o.getD 0
    let s := (s.updVoice v (fun x => { x with queue := x.queue.filter (fun b => decide (b ≠ a)) })).idleVoice v a.pos
    (s.fault 0x108 0 .c o (o2n (s.ctx c).engine) (detS a.step 0 ((a.pos : Int) - (s.ctx c).startS))).stopCtx c

/-- A contiguous action is not usable when the one before it ends, at timeline position e: the voice plays its fill until it is (R127). -/
def State.lateFill (s : State) (v e : Nat) : State :=
  (s.carryF v).updVoice v (fun x => { x with
    st := .fill, cur := none, before_ := none, lastEnd := some e, fillEp := some { from_ := (s.voiceMode v).rate * s.lc, value := x.lastOut } })

/-- The lane cycle in which an action's first sample still due lies. -/
def State.startLc (s : State) (v : Nat) (a : Action) : Nat := max (s.firstDue v a / 65536).toNat (if s.shortfall v a = 0 then 0 else a.usable)

/-- A queued action's first due position arrives on an idle voice: it starts if it is usable; else a contiguous one is filled for. -/
def execVoiceActionStart (v : Fin 256) (s : State) : Ans :=
  let x := s.voice v
  if x.st ≠ .idle then .next s else
  match x.queue with
  | [] => .next s
  | a :: _ =>
    .next (if a.usable ≤ a.pos then (s.advanceTo (s.startLc v a)).beginAction v a
      else
        let t := s.advanceTo a.pos
        if x.lastEnd = some a.pos then t.lateFill v a.pos else t)

/-! ### The end of an action (R127, R154, R199, R285) -/

/-- The instant, in 2^-16 LC, at which the current action ends by its delay, with no cut. -/
def State.endDue (s : State) (v : Nat) (a : Action) : Int := 65536 * ((a.pos + a.dur : Nat) : Int) + (s.voice v).delayAt (s.voice v).own s.lc

/-- Is a contiguous action usable by the instant the one before it ends, after any cut; or at least by its timeline position, where only
its negative delay has passed (R200)? -/
def State.inTime (s : State) (v : Nat) (a b : Action) : Bool :=
  decide (65536 * (b.usable : Int) ≤ min (s.endDue v a) (s.firstDue v b)) || decide (0 < s.shortfall v b)

/-- The end of the current action: the next one takes over at the earlier of the end and its own first delayed sample; a contiguous one
not usable then is filled for; else the voice goes idle. Tags read, heads and a withdrawn bank copy are given back. -/
def execVoiceActionEnd (v : Fin 256) (s : State) : Ans :=
  let x := s.voice v
  match x.cur with
  | none => .next s
  | some a =>
    let e := a.pos + a.dur
    let endLc := (-(-(s.endDue v a) / 65536)).toNat
    let close := fun (s : State) => ((s.endFill v ((s.voiceMode v).rate * s.lc) true).noteOut v ((s.voiceMode v).rate * s.lc))
    let done := fun (s : State) => (s.dropPin a.seg).swept
    let next := match x.st, x.queue with | .playing, b :: _ | .fill, b :: _ => if b.pos = e then some b else none | _, _ => none
    .next (match next with
      | some b =>
        if s.inTime v a b then done ((close (s.advanceTo (max (min (s.endDue v a) (s.firstDue v b) / 65536).toNat (s.startLc v b)))).beginAction v b)
        else done ((close (s.advanceTo endLc)).lateFill v e)
      | none => done ((close (s.advanceTo endLc)).idleVoice v e))

/-! ### Late actions (R127, R143) -/

/-- Samples of a voice between two lane cycles. -/
def State.samplesIn (s : State) (v a b : Nat) : Nat := (s.voiceMode v).rate * (b - a)

/-- The voice's context is told what was missed. A contiguous action was filled for: the samples skipped count as filled; a voice that
waits for another one is idle and fills nothing. The record bears the position missed. -/
def execActionLate (v : Fin 256) (lateLc : Nat) (s : State) : Ans :=
  let x := s.voice v
  match x.queue with
  | [] => .next s
  | a :: _ =>
    if (x.st = .idle ∨ (x.st = .fill ∧ x.cur = none)) ∧ (a.pos < a.usable ∨ 0 < lateLc) then
      let t := max (a.pos + lateLc) a.usable
      let s := s.advanceTo t
      let k := if x.lastEnd = some a.pos then s.samplesIn v a.pos t else 0
      let s := s.updVoice v (fun x => { x with underruns := sat 65535 (x.underruns + 1), filled := sat (2 ^ 32 - 1) (x.filled + k) })
      let c := x.owner.getD 0
      let s := s.faultAt 0x101 0 .c x.owner (o2n (s.ctx c).engine) (s.tbAt a.pos) (detS a.step ((t : Int) - a.pos) ((a.pos : Int) - (s.ctx c).startS))
      .next (if t < a.pos + a.dur then s.beginAction v a
        else (s.updVoice v (fun x => { x with queue := x.queue.drop 1 })).idleVoice v (a.pos + a.dur))
    else .next s

/-! ### Fill (R207 to R209, R349) -/

/-- Sample i of an action as unit and repetition: of its first byte. -/
def State.unitAt (s : State) (a : Action) (i : Nat) : Nat × Nat :=
  let g := s.seg a.seg
  (i / max g.samples 1, i % max g.samples 1 * g.fmt.bits / 2048)

/-- The voice has every sample of unit j of an action. -/
def State.unitGood (s : State) (v : Nat) (a : Action) (j : Nat) : Bool :=
  let g := s.seg a.seg
  let u := j % max g.units 1
  if u < s.copied a then decide ((s.bank (o2n a.bank)).st = .on)
  else match s.unitTag v a (j / max g.units 1) u s.lc with
    | some t => (Tbl.get {} s.sql.tags t).bad.isEmpty
    | none => false

/-- The first sample of an action, from sample i on, that the voice could not take as things stand. -/
def State.firstMissing (s : State) (v : Nat) (a : Action) (i : Nat) : Option Nat :=
  let g := s.seg a.seg
  let j0 := (s.unitAt a i).1 * g.units + (s.unitAt a i).2
  (firstFrom (fun j => !s.unitGood v a j) j0 (a.repeats * g.units - j0)).bind (fun j =>
    let lo := max i (g.unitSample j - 1)
    let hi := min (s.actSamples v a) (g.lastSample (j / max g.units 1) (j % max g.units 1) + 1)
    firstFrom (fun k => (s.sampleOf v a k s.lc).isNone) lo (hi - lo))

/-- Why the voice cannot take sample i: its bank is not ON, a word came poisoned, or its data has not landed. -/
def State.whyMissing (s : State) (v : Nat) (a : Action) (i : Nat) : FillCause :=
  let x := s.unitAt a i
  if x.2 < s.copied a then .bankNotOn
  else match s.unitTag v a x.1 x.2 s.lc with | some _ => .poison | none => .data

/-- The end of the run of poisoned samples that begins with sample i of an action, within its repetition. -/
def State.poisonEnd (s : State) (v : Nat) (a : Action) (i : Nat) : Nat :=
  let g := s.seg a.seg
  let top := min (s.actSamples v a) ((i / max g.samples 1 + 1) * g.samples)
  (firstFrom (fun k => (s.sampleOf v a k s.lc).isSome || decide (s.whyMissing v a k ≠ .poison)) i (top - i)).getD top

/-- The poisoned words among those that samples i up to m of a repetition touch. -/
def State.poisonWords (s : State) (v : Nat) (a : Action) (i m : Nat) : Nat :=
  let g := s.seg a.seg
  let k := i / max g.samples 1
  let w0 := (i - k * g.samples) * g.fmt.bits / 256
  let w1 := ((m - k * g.samples) * g.fmt.bits - 1) / 256
  ((List.range (w1 + 1 - w0)).filter (fun w => match s.unitTag v a k ((w0 + w) / 8) s.lc with
    | some t => (Tbl.get {} s.sql.tags t).bad.contains ((w0 + w) % 8)
    | none => false)).length

/-- The output sample at which sample i of the current action falls due. -/
def State.dueAt (s : State) (v : Nat) (a : Action) (i : Nat) : Nat :=
  let r := (s.voiceMode v).rate
  ((r * a.pos + i : Nat) + -(-((r : Int) * (s.voice v).delayAt (s.voice v).own s.lc) / 65536)).toNat

/-- The pseudo-channel out of service that answers the unit of sample i, which has no mirror, as unavailable (R330). -/
def State.outPc (s : State) (a : Action) (i : Nat) : Option Nat :=
  let g := s.seg a.seg
  let k := pcOf (g.fetchDpa (s.unitAt a i).2 / 256)
  if g.bank.isNone && !g.mirrored && (s.pc k).out then some k else none

/-- Fill begins at output sample n, sample i of the action: after a poisoned run its length is known and the context is told at once;
else it goes on until the voice can take a sample again (R208, R209, R349). -/
def State.beginFill (s : State) (v : Nat) (a : Action) (i : Nat) (why : FillCause) : State :=
  let n := s.dueAt v a i
  let s := (s.advanceTo (n / (s.voiceMode v).rate)).noteOut v n
  let pc := if why = .data then s.outPc a i else none
  let e : FillEp := { pc := pc, from_ := n, cause := why, first := i, value := (s.voice v).lastOut }
  match why with
  | .poison =>
    let m := s.poisonEnd v a i
    let w := s.poisonWords v a i m
    (s.updVoice v (fun x => { x with poisoned := sat 65535 (x.poisoned + w), fillEp := some e })).closeFill v (n + (m - i))
  | .data =>
    let on := (s.voice v).frozen.any (fun f => decide (pc = some f.pc))
    s.updVoice v (fun x => { x with
      fillEp := some e, st := if x.st = .playing then .fill else x.st, underruns := if on then x.underruns else sat 65535 (x.underruns + 1) })
  | .bankNotOn =>
    let s : State := { s with bnk := { s.bnk with notOnFaults := sat 255 (s.bnk.notOnFaults + 1) } }
    s.updVoice v (fun x => { x with fillEp := some e, st := if x.st = .playing then .fill else x.st })

/-- The current action's sample due from now on, past what has been filled already. -/
def State.nextDue (s : State) (v : Nat) (a : Action) : Nat :=
  let n := max ((s.voiceMode v).rate * s.lc) (match (s.voice v).fillEp with | some e => o2n e.until_ | none => 0)
  s.dueIndex v a (s.voice v).own n

/-- A bank that a forced program keeps over its limit has missed `count` samples from sample i of the action on (R354). -/
def State.overFill (s : State) (v : Nat) (a : Action) (i count : Nat) : State :=
  let s := s.beginFill v a i .data
  match (s.voice v).fillEp with
  | some e => (s.advanceTo (ceilDiv (e.from_ + count) (s.voiceMode v).rate)).closeFill v (e.from_ + count)
  | none => s

/-- The present action has a sample due that the voice cannot take: it fills. Without `overload` the sample is found from what has landed;
with it, the samples are those an overloaded bank did not serve in time. -/
def execVoiceUnderrun (v : Fin 256) (overload : Bool) (first count : Nat) (s : State) : Ans :=
  let x := s.voice v
  match x.cur with
  | none => .next s
  | some a =>
    let open_ := match x.fillEp with | some e => e.until_.isNone | none => false
    if open_ then .next s
    else if overload then
      let hit := decide (s.bnkOver (o2n a.bank)) && decide (0 < count) && decide (s.nextDue v a ≤ first) && decide (first + count ≤ s.actSamples v a)
      if a.bank.isSome && hit then .next (s.overFill v a first count) else .next s
    else match s.firstMissing v a (s.nextDue v a) with
      | some i => .next (s.beginFill v a i (s.whyMissing v a i))
      | none => .next s

/-! ### The end of a gain ramp (R210, R195) -/

/-- The factor reaches 0: the voice is idle. -/
def execVoiceRampEnd (v : Fin 256) (s : State) : Ans :=
  let x := s.voice v
  if x.st = .ramping then
    let s := s.advanceTo (x.rampFrom + x.rampLen)
    let s := s.endFill v ((s.voiceMode v).rate * s.lc) true
    let s := (s.abandonTags (fun t => decide (t.voice = some v.val))).updVoice v (fun x => { x with queue := [] })
    let s := s.idleVoice v s.lc
    .next (match x.cur with | some a => s.dropPin a.seg | none => s)
  else .next s

end Sys2Proof.Machine
end

