-- ==== Sys2Proof/Machine/Tmu.lean ====
section
/-! DEFINITION. The time-measurement family: conditioning of the event inputs, stamps, and the runs and blocks of the sixteen
slots (spec/14_time_measurement.md; the fox jump's event R177, R180, R220). -/
namespace Sys2Proof.Machine

/-! ### Feeding the slots (R381 to R384) -/

/-- The roles an event of source `code` plays: START and STOP. Width stops at the opposite edge of its input or the next
transition of its marker. -/
def Slot.roles (k : Slot) (code : Nat) : Bool × Bool :=
  match k.func with
  | 0 => (decide (code = k.start), decide (code = k.stop))
  | 3 => (decide (code = k.start), if code < 0x20 then decide (code = k.start ^^^ 16) else decide (code = k.start))
  | _ => (decide (code = k.start), false)

/-- An event at time t reaches slot k. -/
def State.feedSlot (s : State) (k code t : Nat) : State :=
  let x := s.slot k
  let r := x.roles code
  if x.st ≠ 0 && (r.1 || r.2) && decide (x.blk.from_ ≤ t) then
    s.updSlot k (fun x => { x with blk := { x.blk with evs := insertEv { t := t, start := r.1, stop := r.2 } x.blk.evs } })
  else s

/-- Every running slot hears an input or a marker. -/
def State.feedAll (s : State) (code t : Nat) : State :=
  s.each (Tbl.keysWhere (fun _ k => decide (k.st ≠ 0)) s.slots) (fun k s => s.feedSlot k code t)

/-- The slots that hold a position on event channel ch hear its event at t. -/
def State.feedChannel (s : State) (ch t : Nat) : State :=
  s.each (((s.ev ch).tmus.map (fun p => p / 2)).foldl (fun l k => insertNat k l) []) (fun k s => s.feedSlot k (0xC0 + ch) t)

/-! ### TMU_CONFIG (R374, R379) -/

def tcInput (p : Pkt) : Nat := pf p 4 0 4
def tcLegacy (p : Pkt) : Bool := pb p 4 8
def tcSlope (p : Pkt) : Bool := pb p 4 9
def tcHyst (p : Pkt) : Nat := pf p 5 0 8
def tcHold (p : Pkt) : Nat := pf p 6 0 16
def tcThresh (p : Pkt) : Int := (BitVec.ofNat 16 (pf p 7 0 16)).toInt

def tcOk (p : Pkt) : Bool :=
  if tcLegacy p then decide (tcHyst p = 0) && decide (tcHold p = 0) && decide (-2000 ≤ tcThresh p) && decide (tcThresh p ≤ 3000)
  else decide (tcThresh p = 0) && !tcSlope p && decide (10 ≤ tcHyst p) && decide (tcHyst p ≤ 200) && decide (1 ≤ tcHold p) && decide (tcHold p ≤ 65000)

/-- The source code names input i, directly or through an event channel. -/
def State.codeNames (s : State) (i code : Nat) : Bool :=
  decide (code = i) || decide (code = i + 16) ||
  (decide (0xC0 ≤ code) && decide ((s.ev (code - 0xC0)).source.toNat / 4096 = 1) && decide ((s.ev (code - 0xC0)).source.toNat % 16 = i))

/-- A running measurement names input i. -/
def State.measuring (s : State) (i : Nat) : Bool :=
  Tbl.anyEntry (fun _ k => decide (k.st ≠ 0) && (s.codeNames i k.start || (decide (k.func = 0) && s.codeNames i k.stop))) s.slots

/-- An event channel of another function has input i as its source. -/
def State.inputForeign (s : State) (fn i : Nat) : Bool :=
  Tbl.anyEntry (fun _ e => decide (e.source.toNat / 4096 = 1) && decide (e.source.toNat % 16 = i) &&
    (match e.owner with | some c => decide ((s.ctx c).fn ≠ fn) | none => false)) s.evch

def mTmuConfig : Meaning where
  check r s :=
    let i := tcInput r.p
    firstOf [
      (!tcOk r.p, .badParam, 0),
      (s.precDown || s.selfRuns || s.measuring i || s.inputForeign r.p.fn i, .busy, 0)]
  act r s :=
    let p := r.p
    let s := s.updInput (tcInput p) (fun i => { i with
      legacy := tcLegacy p, slope := tcSlope p, hyst := tcHyst p, holdoff := tcHold p, thresh := BitVec.ofInt 16 (tcThresh p), settling := true })
    s.addJob r (.tmuConfig (tcInput p))

def execTmuConfig (p : Pkt) (s : State) : Ans := .next (submit .tmuConfig mTmuConfig p s)

/-- The comparator has settled, within 2 µs. -/
def execTmuSettled (i : Fin 16) (s : State) : Ans :=
  if (s.input i).settling then
    .next ((s.updInput i (fun x => { x with settling := false })).endKind (fun k => decide (k = .tmuConfig i)) .ok 0)
  else .next s

/-- A TDC's ring oscillators are measured against LANE; no edge is lost to it (R380). -/
def execTdcCalibration (i : Fin 16) (s : State) : Ans := .next (s.updInput i (fun x => { x with tdcAt := s.lc }))

/-! ### Edges (R362, R374 to R380) -/

/-- The stamp of an edge registered on boundary b, `frac` before it: e = b - 2.225 ns - frac. -/
def stampOf (b frac : Nat) : Nat := 65536 * b - 233308 - frac

/-- JMPEN changes due by lane cycle lc apply (R177). -/
def Jump.settle (j : Jump) (lc : Nat) : Jump :=
  (j.changes.filter (fun c => decide (c.1 ≤ lc))).foldl (fun j c => { j with responding := c.2.1, aligned := c.2.2 })
    { j with changes := j.changes.filter (fun c => decide (lc < c.1)) }

def State.overrunJmp (s : State) (c j : Nat) : State :=
  s.updJump c j (fun x => { x with overrun := true, overruns := sat 127 (x.overruns + 1) })

/-- The boundary of the last event a slot has taken. -/
def Jump.taken (j : Jump) : Option Nat := match j.hit with | some b => some b.1 | none => j.lastAt

/-- The slot has taken the event of boundary b. -/
def Jump.tookAt (j : Jump) (b : Nat) : Bool := decide (j.hit.map (fun h => h.1) = some b)

/-- A DIRECT event reaches jump slot j of context c with boundary b and sub-cycle stamp s (R177, R180, R221). -/
def State.jumpEvent (s : State) (c j b frac : Nat) : State :=
  let s := s.updJump c j (fun x => x.settle b)
  let x := (s.ctx c).jump j
  if !x.responding then s.overrunJmp c j
  else if x.st ≠ 2 then (s.overrunJmp c j).faultS c 0x10F 0
  else if (x.taken.map (fun l => decide (b < l + 5))).getD false then s.overrunJmp c j
  else if [0, 1, 2, 3].any (fun k => decide (k < j) && ((s.ctx c).jump k).tookAt b) then s.overrunJmp c j
  else
    let s := s.each ([0, 1, 2, 3].filter (fun k => decide (j < k) && ((s.ctx c).jump k).tookAt b))
      (fun k s => (s.updJump c k (fun y => { y with hit := none })).overrunJmp c k)
    s.updJump c j (fun y => { y with hit := some (b, frac) })

/-- Jump slots among consumer codes, in rising order. -/
def jumpsOf (cons : List Nat) : List Nat := (cons.filter (fun k => decide (0x1000 ≤ k))).foldl (fun l k => insertNat k l) []

/-- An INPUT source with this EDGE fires at an edge of the primary polarity or of the other. -/
def edgeFires (i : Nat) (primary : Bool) (v : BitVec 16) : Bool :=
  decide (v.toNat / 4096 = 1) && decide (v.toNat % 16 = i) &&
    (decide (v.toNat / 16 % 4 = 2) || (decide (v.toNat / 16 % 4 = 0) && primary) || (decide (v.toNat / 16 % 4 = 1) && !primary))

/-- A stamped edge, `frac` before boundary b: every channel registers it in lane cycle u, jump slots take it, TMU slots hear it. -/
def State.inputEvent (s : State) (i : Nat) (primary : Bool) (b u frac : Nat) : State :=
  let chs := s.sourced (edgeFires i primary)
  let s := s.each chs (fun k s => s.register k u (some (stampOf b frac)))
  let js := (chs.flatMap (fun k => if (s.ev k).direct then jumpsOf (s.ev k).cons else [])).foldl (fun l k => insertNat k l) []
  let s := s.each js (fun k s => s.jumpEvent ((k - 0x1000) / 4) ((k - 0x1000) % 4) b frac)
  s.feedAll (if primary then i else i + 16) (stampOf b frac)

/-- The polarity code 0x00 selects (Table 14.1). -/
def Input.primary (i : Input) (rising : Bool) : Bool := if i.legacy && i.slope then !rising else rising

/-- A crossing: lost to settling or dead time, suppressed by hold-off, or an edge. An edge within 10 ps of the next lane cycle is
registered in either (R362). -/
def execInputEdge (i : Fin 16) (rising : Bool) (frac : BitVec 16) (s : State) : Ans :=
  if !s.power.pwrgd then .next s else
  let x := s.input i
  let stamp := stampOf s.lc frac.toNat
  if x.settling || (x.lastStamp.map (fun l => decide (stamp < l + 131072))).getD false then
    .next (s.updInput i (fun x => { x with dead := sat 65535 (x.dead + 1) }))
  else if !x.legacy && decide (stamp < x.holdUntil) then
    .next (s.updInput i (fun x => { x with heldOff := sat 65535 (x.heldOff + 1) }))
  else
    let s := s.updInput i (fun x => { x with
      edges := sat (2 ^ 32 - 1) (x.edges + 1), level := rising, lastStamp := some stamp
      holdUntil := if x.legacy then x.holdUntil else stamp + ceilDiv (x.holdoff * 1048576) 10 })
    let odd := Config.freeNat s.fresh % 2
    let u := if frac.toNat ≤ 1048 then s.lc + odd else if 64488 ≤ frac.toNat then s.lc - odd else s.lc
    .next ((s.inputEvent i (x.primary rising) s.lc u frac.toNat).bump)

/-- At the end of a hold-off, of a dead time that has swallowed a crossing, or of settling, the input's state is taken from the comparator
without an edge (R377, R378). -/
def execHoldOffEnd (i : Fin 16) (level : Bool) (s : State) : Ans := .next (s.updInput i (fun x => { x with level := level }))

/-! ### TMU_RUN (R381 to R388, R391) -/

def trSlot (p : Pkt) : Nat := pf p 4 0 4
def trFunc (p : Pkt) : Nat := pf p 4 8 3
def trDest (p : Pkt) : Nat := pf p 4 12 2
def trStart (p : Pkt) : Nat := pf p 5 0 8
def trStop (p : Pkt) : Nat := pf p 5 8 8
def trTarget (p : Pkt) : Nat := pf p 5 16 8
def trN (p : Pkt) : Nat := pf p 6 0 25
def trTimeout (p : Pkt) : Nat := (pq p 8).toNat

/-- A source code of Table 14.2 that is not reserved (R381). -/
def codeNamed (c : Nat) : Bool := decide (c < 0x60) || (decide (0xC0 ≤ c) && decide (c < 0xFF))

/-- Table 14.3: the STOP, TARGET and DEST a function allows; width measures inputs and markers; reserved codes name no source. -/
def trShape (p : Pkt) : Bool :=
  codeNamed (trStart p) && match trFunc p with
  | 0 => decide (trTarget p = 0) && codeNamed (trStop p)
  | 1 | 2 => decide (trStop p = 0) && decide (trTarget p = 0) && decide (trDest p < 2)
  | 3 => decide (trStop p = 0) && decide (trTarget p = 0) && decide (trDest p < 2) && decide (trStart p < 0x60)
  | 4 => decide (trStop p = 0) && decide (1 ≤ trTarget p)
  | _ => false

def trOk (p : Pkt) : Bool :=
  trShape p && decide (trDest p ≠ 3) && decide (1 ≤ trN p) && decide (trN p ≤ 2 ^ 24) && decide (1 ≤ trTimeout p) && decide (trTimeout p ≤ 2 ^ 40)

/-- The event channels the packet names, START's then STOP's; STOP counts for an interval only. -/
def trChannels (p : Pkt) : List Nat :=
  (if 0xC0 ≤ trStart p then [trStart p - 0xC0] else []) ++ (if trFunc p = 0 ∧ 0xC0 ≤ trStop p then [trStop p - 0xC0] else [])

/-- A source the packet's context may use (R382). -/
def State.mayMeasure (s : State) (p : Pkt) (code : Nat) : Bool :=
  if code < 0x20 then true
  else if code < 0x60 then s.holds p.ctx 0 ((code - 0x20) / 2)
  else s.heldByFn (s.ctx p.ctx).fn (s.ev (code - 0xC0)).owner

/-- Consumer positions in use on channel k but for those of slot x. -/
def State.fanWithout (s : State) (k x : Nat) : Nat :=
  (s.ev k).cons.length + (s.ev k).cells.length + ((s.ev k).tmus.filter (fun q => decide (q / 2 ≠ x))).length

def State.positionsShort (s : State) (p : Pkt) : Bool :=
  (trChannels p).any (fun k => decide (16 < s.fanWithout k (trSlot p) + ((trChannels p).filter (fun j => decide (j = k))).length))

/-- An earlier TMU_RUN of the slot has not completed: running, or accepted and still to act. -/
def State.tmuOpen (s : State) (r : Run) : Bool :=
  s.tmuBusy (trSlot r.p) ||
  s.sched.any (fun t => decide (t.run.op = .tmuRun) && decide (trSlot t.run.p = trSlot r.p) && decide (t.run.seq < r.seq))

/-- Positions of the slot are given back and those of the packet taken: START's is 2k, STOP's 2k + 1. -/
def State.takePositions (s : State) (p : Pkt) : State :=
  let k := trSlot p
  let s := s.each (s.sourced (fun _ => true)) (fun c s => s.updEv c (fun e => { e with tmus := e.tmus.filter (fun q => decide (q / 2 ≠ k)) }))
  let s := if 0xC0 ≤ trStart p then s.updEv (trStart p - 0xC0) (fun e => { e with tmus := e.tmus ++ [2 * k] }) else s
  if trFunc p = 0 ∧ 0xC0 ≤ trStop p then s.updEv (trStop p - 0xC0) (fun e => { e with tmus := e.tmus ++ [2 * k + 1] }) else s

def actTmuRun (r : Run) (s : State) : State :=
  let p := r.p
  let s := s.takePositions p
  let s := s.updSlot (trSlot p) (fun k => { k with
    discards := if k.st ≠ 0 then sat 255 (k.discards + 1) else k.discards
    st := if trDest p = 0 then 1 else 2, func := trFunc p, dest := trDest p, start := trStart p, stop := trStop p
    target := trTarget p, n := trN p, timeoutLc := trTimeout p, blk := { from_ := 65536 * s.lc } })
  s.addJob r (.tmuRun (trSlot p))

def mTmuRun : Meaning where
  check r s := firstOf [
    (!trOk r.p, .badParam, 0),
    (!s.holds r.p.ctx 8 (trSlot r.p) || !s.mayMeasure r.p (trStart r.p) ||
      (decide (trFunc r.p = 0) && !s.mayMeasure r.p (trStop r.p)), .notOwner, 0),
    (s.tmuOpen r || s.hot, .busy, 0),
    (s.positionsShort r.p, .noResource, 0)]
  act := actTmuRun

def execTmuRun (p : Pkt) (s : State) : Ans := .next (submit .tmuRun mTmuRun p s)

/-! ### Results (R388 to R390, R217) -/

/-- The block's statistics are registered at u, the lane cycle that starts at or after its final event's time plus 8 LC. -/
def State.registerBlock (s : State) (k : Nat) (m : Meas) (tf : Nat) (timedOut : Bool) : State :=
  let u := ceilDiv tf 65536 + 8
  let s := s.advanceTo u
  let x := s.slot k
  let st := stats x.func m.vals
  let full := !timedOut
  let fits := decide (-(2 ^ 31 : Int) ≤ st.mean) && decide (st.mean ≤ 2 ^ 31 - 1)
  let s := s.updSlot k (fun x => { x with
    count := st.count, mean := BitVec.ofInt 64 st.mean, sd := BitVec.ofNat 64 st.sd, mn := BitVec.ofInt 64 st.mn, mx := BitVec.ofInt 64 st.mx
    time := s.tbAt u, lastTimeout := timedOut
    timeouts := if timedOut then sat 65535 (x.timeouts + 1) else x.timeouts
    toVoice := if full && decide (x.dest = 2) && fits then x.toVoice ++ [(st.mean, u)] else x.toVoice
    range := if full && decide (x.dest = 2) && !fits then sat 255 (x.range + 1) else x.range })
  if full && decide (x.dest = 1) then s.fireSrc (srcIs 2 k) u else s

/-- A single run ends; a continuous one opens its next block. For period and frequency the last event of a block, one that ended at its
timeout too, is the first of the next (R388; DEDUCED, log entry 42). -/
def State.nextBlock (s : State) (k : Nat) (m : Meas) (tf : Nat) (timedOut : Bool) (rest : List TmuEv) : State :=
  if (s.slot k).st = 1 then
    let s := s.updSlot k (fun x => { x with st := 0, blk := {} })
    s.each (s.sourced (fun _ => true)) (fun c s => s.updEv c (fun e => { e with tmus := e.tmus.filter (fun q => decide (q / 2 ≠ k)) }))
  else s.updSlot k (fun x => { x with blk := { from_ := tf, evs := rest, start := if timedOut && decide (x.func ≠ 1) && decide (x.func ≠ 2) then none else m.start, prev := m.prev } })

def execTmuResult (k : Fin 16) (s : State) : Ans :=
  let x := s.slot k
  if x.st = 0 then .next s else
  match x.measure s.tbOff with
  | (m, some tf, rest) =>
    let s := (s.registerBlock k m tf false).nextBlock k m tf false rest
    .next (s.endKind (fun j => decide (j = .tmuRun k)) .ok 0)
  | (_, none, _) => .next s

/-- The packet of a block that ended at its timeout completes with TIMEOUT, which is logged (R120, R388). -/
def State.timeoutTmu (s : State) (k : Nat) : State :=
  let js := s.jobs.filter (fun j => decide (j.kind = .tmuRun k))
  js.foldl (fun s j => s.timeoutRun j.run 0) (s.dropJobs (fun j => decide (j.kind = .tmuRun k)))

def execTmuBlockTimeout (k : Fin 16) (s : State) : Ans :=
  let x := s.slot k
  if x.st = 0 then .next s else
  match x.measure s.tbOff with
  | (_, some _, _) => .next s
  | (m, none, rest) =>
    let s := (s.registerBlock k m x.timeoutAt true).nextBlock k m x.timeoutAt true rest
    .next (s.timeoutTmu k)

/-! ### TMU_READ (Table 4.22) -/

def mTmuRead : Meaning where
  check r s := firstOf [(!s.holds r.p.ctx 8 (trSlot r.p), .notOwner, 0)]
  act r s := s.reply r (pw r.p 5).toNat (pq r.p 6) (viewBytes (viewTmu s) (64 * trSlot r.p) 16)

def execTmuRead (p : Pkt) (s : State) : Ans := .next (submit .tmuRead mTmuRead p s)

end Sys2Proof.Machine
end

