-- ==== Sys2Proof/Machine/Event.lean ====
section
/-! DEFINITION. The event fabric: routing, software fires, event outputs and logic cells (spec/13_event_fabric.md; the fast
paths of spec/04_host_interface_commands.md R94). Delivery is EVENT_DELIVERY, in EngineEv. -/
namespace Sys2Proof.Machine

/-! ### EVT_ROUTE (R357 to R361) -/

def erChannel (p : Pkt) : Nat := pf p 4 0 8
def erDirect (p : Pkt) : Bool := pb p 4 8
def erSource (p : Pkt) : BitVec 16 := BitVec.ofNat 16 (pf p 5 0 16)
def erCons (p : Pkt) : Nat := pf p 6 0 16
def erRemove (p : Pkt) : Bool := pb p 6 31
/-- No consumer is named. -/
def erNone (p : Pkt) : Bool := decide (erCons p = 0xFFFF)

/-- A consumer code of Table 13.2. -/
def isCons (k : Nat) : Bool :=
  decide (k < 0x410) || (decide (0x500 ≤ k) && decide (k < 0x504)) || (decide (0x1000 ≤ k) && decide (k < 0x2000))

/-- A type and detail of Table 13.1. -/
def sourceOk (v : BitVec 16) : Bool :=
  let d := v.toNat % 4096
  match v.toNat / 4096 with
  | 0 | 8 => decide (d = 0)
  | 1 => decide (d / 16 < 3)
  | 2 => decide (d < 16)
  | 3 => decide (d / 1024 ≠ 3)
  | 4 => decide (d / 64 < 3)
  | 5 => decide (6 ≤ d) && decide (d ≤ 40)
  | 6 => decide (d < 32)
  | 7 => decide (d / 1024 = 0) || decide (d % 1024 = 0)
  | _ => false

/-- A context of function fn may set the source (Table 13.1, last column). -/
def State.mayUse (s : State) (fn : Nat) (v : BitVec 16) : Bool :=
  let d := v.toNat % 4096
  match v.toNat / 4096 with
  | 2 => s.heldByFn fn (s.slot d).owner
  | 3 => s.ctxOf fn (d % 1024)
  | 4 => s.heldByFn fn (s.fch (d % 64 / 2)).owner
  | 6 => s.heldByFn fn (s.cell d).owner
  | 7 => decide (d / 1024 ≠ 0) || s.ctxOf fn (d % 1024)
  | _ => true

/-- A DIRECT channel with an INPUT source. -/
def directInput (direct : Bool) (v : BitVec 16) : Bool := direct && decide (v.toNat / 4096 = 1)

def erBad (p : Pkt) (s : State) : Bool :=
  let e := s.ev (erChannel p)
  let jump := decide (0x1000 ≤ erCons p) && !erNone p
  (!erNone p && !isCons (erCons p)) ||
  (if erRemove p then decide (erSource p ≠ 0) || erDirect p || erNone p
   else !sourceOk (erSource p) || (erDirect p && decide ((erSource p).toNat / 4096 ≠ 1)) ||
     (jump && !directInput (erDirect p) (erSource p)) ||
     ((decide (erSource p ≠ e.source) || decide (erDirect p ≠ e.direct)) && !(jumpsOf e.cons).isEmpty && !directInput (erDirect p) (erSource p)))

/-- Events registered before the present lane cycle keep the consumers they had. -/
def State.snapRegs (s : State) (k : Nat) : State :=
  { s with regs := s.regs.map (fun r => if r.ch = k ∧ r.u < s.lc ∧ r.snap.isNone = true then { r with snap := some (s.ev k).cons } else r) }

def actEvtRoute (r : Run) (s : State) : State :=
  let p := r.p
  let k := erChannel p
  let s := s.snapRegs k
  let s :=
    if erRemove p then
      (if s.consChannel (erCons p) = some k then (s.updEv k (fun e => { e with cons := e.cons.filter (fun x => decide (x ≠ erCons p)) })).unattach (erCons p) else s)
    else
      let s := s.updEv k (fun e => { e with source := erSource p, direct := erDirect p })
      if erNone p || decide (s.consChannel (erCons p) = some k) then s
      else (s.updEv k (fun e => { e with cons := e.cons ++ [erCons p] })).attach (erCons p) k
  s.complete r .ok (s.ev k).fanout

def mEvtRoute : Meaning where
  check r s :=
    let p := r.p
    let k := erChannel p
    let fn := (s.ctx p.ctx).fn
    let at_ := s.consChannel (erCons p)
    firstOf [
      (erBad p s, .badParam, 0),
      (!s.holds p.ctx 3 k || (!erRemove p && !s.mayUse fn (erSource p)) || (!erNone p && !s.heldByFn fn (s.consOwner (erCons p))), .notOwner, 0),
      (!erRemove p && !erNone p && at_.isSome && decide (at_ ≠ some k), .busy, 0),
      (!erRemove p && !erNone p && decide (at_ ≠ some k) && decide (16 ≤ (s.ev k).fanout), .noResource, 0)]
  act := actEvtRoute

def execEvtRoute (p : Pkt) (s : State) : Ans := .next (submit .evtRoute mEvtRoute p s)

/-! ### EVT_LUT (R369, R371) -/

def elCell (p : Pkt) : Nat := pf p 4 0 5
def elFf (p : Pkt) : Bool := pb p 4 8
def elTruth (p : Pkt) : BitVec 16 := BitVec.ofNat 16 (pf p 5 0 16)
def elIn (p : Pkt) (i : Nat) : Nat := pf p 6 (8 * i) 8
def elMinw (p : Pkt) : Nat := pf p 7 0 8

/-- TRUTH depends on input i. -/
def dependsOn (t : BitVec 16) (i : Nat) : Bool := (List.range 16).any (fun x => t.getLsbD x != t.getLsbD (x ^^^ 2 ^ i))

/-- The inputs in use that name a channel: with FF input 3 is the cell's own flip-flop. -/
def elUsed (p : Pkt) : List Nat := [0, 1, 2, 3].filter (fun i => dependsOn (elTruth p) i && !(elFf p && decide (i = 3)))

def elShort (p : Pkt) (s : State) : Bool :=
  (elUsed p).any (fun i =>
    let e := s.ev (elIn p i)
    decide (16 < e.cons.length + e.tmus.length + (e.cells.filter (fun q => decide (q / 4 ≠ elCell p))).length +
      ((elUsed p).filter (fun j => decide (elIn p j = elIn p i))).length))

def actEvtLut (r : Run) (s : State) : State :=
  let p := r.p
  let l := elCell p
  let s := s.freeInputs l
  let s := (elUsed p).foldl (fun s i => s.updEv (elIn p i) (fun e => { e with cells := e.cells ++ [4 * l + i] })) s
  let s := s.updCell l (fun c => {
    owner := c.owner, truth := elTruth p, ff := elFf p, ins := [elIn p 0, elIn p 1, elIn p 2, elIn p 3], minw := elMinw p
    used := BitVec.ofNat 4 (([0, 1, 2, 3].filter (dependsOn (elTruth p))).foldl (fun a i => a + 2 ^ i) 0), cfgAt := s.lc, at_ := s.lc })
  s.complete r .ok 0

def mEvtLut : Meaning where
  check r s :=
    let p := r.p
    firstOf [
      ([0, 1, 2, 3].any (fun i => !(elUsed p).contains i && decide (elIn p i ≠ 0)), .badParam, 0),
      (!s.holds p.ctx 5 (elCell p) || (elUsed p).any (fun i => !s.heldByFn (s.ctx p.ctx).fn (s.ev (elIn p i)).owner), .notOwner, 0),
      (elShort p s, .noResource, 0)]
  act := actEvtLut

def execEvtLut (p : Pkt) (s : State) : Ans := .next (submit .evtLut mEvtLut p s)

/-- The cell's next firing registers its source event, in the lane cycle after the one in which it fires (R370). -/
def execLutCellFire (l : Fin 32) (s : State) : Ans :=
  let c := (s.cell l).upTo s.lc
  let d := c.look (c.w + 4)
  match d.dues with
  | [] => .next s
  | u :: rest =>
    let s := (s.advanceTo u).updCell l (fun _ => { d with dues := rest, fires := sat (2 ^ 24 - 1) (d.fires + 1) })
    .next (s.fireSrc (srcIs 6 l) u)

/-! ### Software fires (R94, R496) -/

def softSource : BitVec 16 := 0x8000

def State.fireReject (s : State) (fn : Nat) : State := s.updFn fn (fun w => { w with fireRejects := sat 65535 (w.fireRejects + 1) })

def mEvtFire : Meaning where
  accept r s := orElse (periodCheck r.op r.p) (firstOf [
    (!s.holds r.p.ctx 3 (erChannel r.p), .notOwner, 0),
    (decide ((s.ev (erChannel r.p)).source ≠ softSource), .busy, 0)])
  act r s :=
    if s.holds r.p.ctx 3 (erChannel r.p) ∧ (s.ev (erChannel r.p)).source = softSource then s.register (erChannel r.p) s.lc none
    else s.fireReject r.p.fn

def execEvtFire (p : Pkt) (s : State) : Ans := .next (submit .evtFire mEvtFire p s)

def State.fnFire (s : State) (fn : Nat) (v : W32) : State :=
  let k := bits v 0 8
  if s.heldByFn fn (s.ev k).owner && decide ((s.ev k).source = softSource) then s.register k s.lc none
  else s.fireReject fn

/-- A function exists: PF0, or a virtual function while VF Enable is set (R91). -/
def State.fnLive (s : State) (f : Nat) : Bool := decide (f = 0) || (s.sys.vfEnable && decide (f ≤ s.sys.numVfs))

/-- The window of a function that does not exist takes no write. -/
def execSysFnFire (fn : Fin 64) (v : W32) (s : State) : Ans := .next (if s.fnLive fn then s.fnFire fn v else s)

/-- Group bits of groups that no context of the function holds are ignored; a group no one holds counts the strobe too (R262). -/
def State.fnStrobe (s : State) (fn : Nat) (v : W32) : State :=
  (groupsOf v).foldl (fun s g =>
    if s.heldByFn fn (s.group g).owner then s.strobe g (s.boundaryFrom (s.lc + 1) 8)
    else
      let s := s.updFn fn (fun w => { w with strobeRejects := sat 65535 (w.strobeRejects + 1) })
      if (s.group g).owner.isNone then s.ignoreStrobe g else s) s

def execSysFnStrobe (fn : Fin 64) (v : W32) (s : State) : Ans := .next (if s.fnLive fn then s.fnStrobe fn v else s)

/-! ### Event outputs (R367) -/

/-- An event delivered to EOn in lane cycle a. -/
def State.eoEvent (s : State) (n a : Nat) : State :=
  if ((s.eo n).lastAt.map (fun l => decide (a < l + 8))).getD false then
    s.updEo n (fun e => { e with overrun := true, overruns := sat 255 (e.overruns + 1) })
  else s.updEo n (fun e => { e with lastAt := some a, dues := e.dues ++ [a] })

def execEoPulseStart (n : Fin 16) (s : State) : Ans :=
  match (s.eo n).dues with
  | [] => .next s
  | a :: rest =>
    let s := s.advanceTo (a + 6)
    .next (s.updEo n (fun e => { e with dues := rest, high := true, endAt := some (a + 10), pulses := sat (2 ^ 24 - 1) (e.pulses + 1) }))

def execEoPulseEnd (n : Fin 16) (s : State) : Ans :=
  match (s.eo n).endAt with
  | none => .next s
  | some t => .next ((s.advanceTo t).updEo n (fun e => { e with high := false, endAt := none }))

end Sys2Proof.Machine
end

