-- ==== Sys2Proof/Machine/Calib.lean ====
section
/-! DEFINITION. Monitoring, output correction and calibration: AOC_CTRL, CAL_RUN, CAL_SAVE, CAL_RESTORE, the sampler's windows,
the monitor frame, adaptation and batches (spec/15_monitoring_calibration.md; verdicts spec/08_fast_converters.md R244 and
spec/09_precision_channels.md R270, R272, R275). -/
namespace Sys2Proof.Machine

/-- The calibration processor runs (R405, R428). -/
def State.calfUp (s : State) : Bool := decide ((s.proc 1).st = 0)

/-! ### The monitor frame (R394 to R396, R270, R272, R275) -/

def absQ (x : Rat) : Rat := if x < 0 then -x else x

/-- The value the code in force stands for, in nV or nA (R248). -/
def Pch.setValue (p : Pch) (lc : Nat) : Rat := (codeVal p.range (p.forceNow lc) : Rat) * perCode p.range

/-- The quantity regulated reads below 1 % of the set value, or below 1 µA or 10 mV where that is larger: readbacks are in 4 nA and 2 µV
(R275, Table 9.6). -/
def Pch.belowLimit (p : Pch) (lc : Nat) : Bool :=
  if currentRange p.range then decide ((4 * p.rbCurrent.toInt.natAbs : Rat) < max (absQ (p.setValue lc) / 100) 1000)
  else decide ((2000 * p.rbSense.toInt.natAbs : Rat) < max (absQ (p.setValue lc) / 100) 10000000)

/-- Load codes of PCH_STATUS (Table 9.10) as Table 9.6 gives them, from the comparator and the readback. -/
def pchVerdict (p : Pch) (lc : Nat) : Nat :=
  if p.st ≠ .enabled then 0
  else if !p.comparator then 1
  else if currentRange p.range then (if p.belowLimit lc then 2 else 4)
  else (if p.belowLimit lc then 3 else 5)

/-- The fault a change to a verdict raises beyond the comparator's. -/
def pchVerdictFault (v : Nat) : Option Nat := match v with | 2 => some 0x405 | 3 => some 0x406 | _ => none

/-- One channel's readbacks, which follow any trip before them (DESIGN CHOICE, log entry 73), and, unless the precision controller restarts, its verdict and its sense check: a change above 5 mV is told
at each check (R270, R272, R430). -/
def State.readPch (s : State) (n : Nat) (r : PchReading) : State :=
  let s := s.updPch n (fun p => { p with rbForce := r.force, rbSense := r.sense, rbCurrent := r.amps })
  if s.precDown then s else
  let s := if r.atLimit then s.tripPch n else s.updPch n (fun p => { p with comparator := false })
  let p := s.pch n
  let v := pchVerdict p s.lc
  let s := s.updPch n (fun p => { p with load := v })
  let s := match pchVerdictFault v with
    | some code =>
      if v = p.load then s else
        let s := s.updPch n (fun p => { p with events := orBits p.events v })
        if p.owner.isSome then s.fault code 0 .c p.owner n [(s.pch n).reading] else s
    | none => s
  let sensed := decide (p.st = .enabled) && !currentRange p.range
  let open_ := decide (2500 < r.moved.toInt.natAbs)
  let s := if sensed then s.updPch n (fun q => { q with senseOpen := open_ }) else s
  if sensed && open_ then
    let s := s.updPch n (fun q => { q with events := orBits q.events 4 })
    if p.owner.isSome then s.fault 0x407 0 .c p.owner n [(s.pch n).reading] else s
  else s

/-- The threshold at which a level is entered, in 1/256 °C; a level is left 3 °C lower (R442). -/
def levelThr (l : Nat) : Int := 256 * (85 + 10 * l : Nat)
/-- A reading belongs to a run towards a transition of the sensor. -/
def Sensor.runs (x : Sensor) (v : BitVec 16) : Bool :=
  (decide (x.level < 3) && decide (levelThr (x.level + 1) ≤ v.toInt)) || (decide (0 < x.level) && decide (v.toInt ≤ levelThr x.level - 768))

/-- The reading lies on the other side of level l: at or above its threshold, or at or below it less 3 °C (R442). -/
def Sensor.toward (x : Sensor) (l : Nat) (v : BitVec 16) : Bool :=
  if x.level < l then decide (levelThr l ≤ v.toInt) else decide (v.toInt ≤ levelThr l - 768)

/-- The runs that a reading at lane cycle lc starts, continues or ends. -/
def Sensor.track (x : Sensor) (v : BitVec 16) (lc : Nat) : Sensor :=
  { x with since := [1, 2, 3].map (fun l => if x.toward l v then some ((x.since.getD (l - 1) none).getD lc) else none), dwell := x.runs v }

/-- The run towards a change of level l is 20 ms, 32,000,000 LC, long. -/
def Sensor.due (x : Sensor) (l lc : Nat) : Bool :=
  match x.since.getD (l - 1) none with | some t => decide (t + 32000000 ≤ lc) | none => false

/-- The level the readings up to lane cycle lc give. -/
def Sensor.levelAt (x : Sensor) (lc : Nat) : Nat :=
  [1, 2, 3].foldl (fun n l => if decide (l ≤ x.level) != x.due l lc then l else n) 0

/-- A sensor's reading (Table 16.18, 16.19); of the top face, its runs towards COLDPLATE_HIGH and back (R446). -/
def State.readSensor (s : State) (k : Nat) (v : BitVec 16) : State :=
  let s := s.updSensor k (fun x =>
    let x := { x with reading := v, max := if x.max.toInt < v.toInt then v else x.max }
    if k < 9 then x.track v s.lc else x)
  if k ≠ 9 then s else
    let run := if s.tmp.coldRaised then decide (v.toInt ≤ 11008) else decide (11520 < v.toInt)
    { s with tmp := { s.tmp with faceSince := if run then some (s.tmp.faceSince.getD s.lc) else none } }

/-- The temperature item of Table 15.1 and the sensor it reads. -/
def itemSensor (i : Nat) : Option Nat := if 14 ≤ i ∧ i ≤ 20 then some (i - 14) else if i = 21 then some 9 else none

/-- Item i after frame f, which refreshes items 3 (f mod 8) to 3 (f mod 8) + 2. -/
def State.ageItem (s : State) (f : Nat) (vs : List (BitVec 24)) (i : Nat) : State :=
  let first := 3 * (f % 8)
  let old := Tbl.get (0, 0) s.mon.items i
  let new : BitVec 24 × Nat :=
    if first ≤ i ∧ i < first + 3 then (vs.getD (i - first) 0, 0)
    else if i / 3 < f then (old.1, sat 255 (old.2 + 1)) else old
  let s : State := { s with mon := { s.mon with items := Tbl.set (0, 0) s.mon.items i new } }
  match itemSensor i with
  | some k => if first ≤ i ∧ i < first + 3 then s.readSensor k (new.1.setWidth 16) else s
  | none => s

def readAll : Nat → List PchReading → State → State
  | _, [], s => s
  | n, r :: rs, s => readAll (n + 1) rs (s.readPch n r)

def execMonitorFrame (pch : List PchReading) (items : List (BitVec 24)) (s : State) : Ans :=
  let s := readAll 0 pch s
  let f := s.mon.frames
  let s : State := { s with mon := { s.mon with frames := f + 1 } }
  .next (s.each (List.range 24) (fun i s => s.ageItem f items i))

/-! ### The sampler's window (R244, R397, R398, R400) -/

/-- The verdict of G (Table 8.6). -/
def loadVerdict (g : Nat) : Nat :=
  if 3277 ≤ g ∧ g ≤ 5120 then 1 else if 6554 ≤ g ∧ g ≤ 9011 then 3 else if g < 1024 then 4 else 2

/-- RUNNING for the whole window of 100 µs that ends now (R398). -/
def State.wholeWindow (s : State) (c : Nat) : Bool := decide ((s.fch c).st = .running) && decide ((s.fch c).runFrom + 160000 ≤ s.lc)

/-- Why a window did not qualify (Table 15.10); none where it did. A LOCKED pending set has no code of its own. -/
def State.waitCode (s : State) (c : Nat) (train sat : Bool) : Option Nat :=
  if !s.wholeWindow c then some 1
  else if !train then some 2
  else if (s.fch c).load ≠ 1 then some 3
  else if sat then some 4
  else if !s.calfUp then some 5
  else none

def execMonitorWindowEnd (c : Fin 32) (ratio : BitVec 16) (content train sat_ : Bool) (s : State) : Ans :=
  if s.mon.samplerRun ∧ s.mon.samplerCh = c.val then
    let s := if content && s.wholeWindow c then
        let v := loadVerdict ratio.toNat
        ((s.updFch c (fun f => { f with ratio := ratio, ratioValid := true, ilimit := f.ilimit && decide (v = 4) })).verdict c v)
      else s
    let w := s.waitCode c train sat_
    let ok := w.isNone && decide ((s.aoc c).pending ≠ 2)
    let s := s.updAoc c (fun a => { a with wait := w.getD a.wait, windows := if ok then a.windows + 1 else a.windows })
    let old := Tbl.get (0, 0) s.mon.smp c
    .next { s with mon := { s.mon with
      samplerCh := (c.val + 1) % 32
      smp := Tbl.set (0, 0) s.mon.smp c (sat 65535 (old.1 + 1), sat 65535 (old.2 + b2n ok)) } }
  else .next s

/-! ### Adaptation and commits (R399 to R405, R216) -/

/-- Four qualifying windows give an update: a quarter of the way to coefficients the spec gives no values of. -/
def execAdaptationUpdate (c : Fin 32) (small grown : Bool) (residual change : BitVec 16) (s : State) : Ans :=
  let a := s.aoc c
  if 4 ≤ a.windows ∧ a.pending ≠ 2 ∧ s.calfUp = true then
    let conv := small && a.lastSmall && !grown
    let cs := (List.range 104).map (fun i => Config.freeWord (s.fresh + i))
    .next ((s.updAoc c (fun a => { a with
      windows := a.windows - 4, updates := sat 65535 (a.updates + 1), residual := residual, change := change, lastSmall := small
      pendSet := { trained := true, coeff := some cs }
      pending := if conv then 1 else 0, readyAt := if conv then s.tb else a.readyAt })).bumpBy 104)
  else .next s

/-- The pending set goes into force in the present lane cycle, and adaptation continues from it. -/
def Aoc.commit (a : Aoc) (t : W64) : Aoc :=
  { a with inForce := { a.pendSet with trained := true }, pendSet := { a.pendSet with trained := true }, pending := 0, last := t }

/-- An automatic commit has taken place in lane cycle lc. -/
def Aoc.autoNow (a : Aoc) (lc : Nat) : Bool := decide (a.autoAt.map (fun x => x.1) = some lc)

/-- A host COMMIT or NEUTRAL of the same lane cycle decides: the automatic commit did not take place (R404). -/
def Aoc.hostDecides (a : Aoc) (lc : Nat) : Aoc :=
  match a.autoAt with
  | some (l, n) => if l = lc then { a with auto := n, autoAt := none } else a
  | none => a

/-- In TRACK: at the first multiple of 64 at least 64 LC after the update became ready. -/
def execAutoCommit (c : Fin 32) (s : State) : Ans :=
  let a := s.aoc c
  if a.freeze = false ∧ a.pending = 1 ∧ s.calfUp = true then
    let t := up64 (BitVec.ofNat 64 (max (a.readyAt.toNat + 64) s.tb.toNat))
    let s := s.advanceTo (s.lcAt t)
    .next (s.updAoc c (fun a => { a.commit s.tb with auto := sat 255 (a.auto + 1), autoAt := some (s.lc, a.auto) }))
  else .next s

def acChan (p : Pkt) : Nat := pf p 4 0 5
def acAction (p : Pkt) : Nat := pf p 4 8 2

def actAocCtrl (r : Run) (s : State) : State :=
  let c := acChan r.p
  let s := match acAction r.p with
    | 0 => s.updAoc c (fun a => { a with freeze := false })
    | 1 => s.updAoc c (fun a => { a with freeze := true })
    | 2 => (s.dropCommit c).updAoc c (fun a => { a.hostDecides s.lc with
        inForce := {}, pendSet := {}, pending := 0, lastSmall := false, windows := 0, last := s.tb, host := sat 255 (a.host + 1) })
    | _ => s.updAoc c (fun a => { (a.hostDecides s.lc).commit s.tb with host := sat 255 (a.host + 1) })
  s.complete r .ok 0

def mAocCtrl : Meaning where
  accept r s :=
    if r.p.act ≠ 0 ∧ acAction r.p = 3 then firstOf [
      (!s.holds r.p.ctx 0 (acChan r.p), .notOwner, 0),
      (decide ((s.aoc (acChan r.p)).pending ≠ 1), .busy, 0)]
    else none
  check r s :=
    let k := (s.aoc (acChan r.p)).pending
    firstOf [
      (!s.holds r.p.ctx 0 (acChan r.p), .notOwner, 0),
      (decide (acAction r.p = 3) && !(decide (k = 1) || (r.timed && decide (k = 2)) || (decide (k = 0) && (s.aoc (acChan r.p)).autoNow s.lc)), .busy, 0)]
  act := actAocCtrl
  hold r s :=
    match acAction r.p with
    | 3 => s.updAoc (acChan r.p) (fun a => { a with pending := 2 })
    | 2 => s.dropCommit (acChan r.p)
    | _ => s

def execAocCtrl (p : Pkt) (s : State) : Ans := .next (submit .aocCtrl mAocCtrl p s)

/-! ### CAL_RUN (R406 to R409, R414, R417) -/

def crKind (p : Pkt) : Nat := pf p 4 0 2
def crStop (p : Pkt) : Bool := pb p 4 8
def crRef (p : Pkt) : Int := signed (pw p 5)

/-- R408 forbids a batch. -/
def State.batchBarred (s : State) : Bool :=
  Tbl.anyEntry (fun _ f => !(decide (f.st = .muted) || decide (f.st = .failed))) s.fchs ||
  Tbl.anyEntry (fun _ p => !(decide (p.st = .disabled) || decide (p.st = .failed))) s.pchs ||
  s.anyRunning || s.sched.any (fun t => t.run.timed && (decide (t.run.op = .prgStart) || decide (t.run.op = .scnStartAt))) ||
  s.cal.batch.isSome || s.power.clrnLow

/-- A SELF starts: the sampler stops, verdicts read UNKNOWN, and an unlocked DCO is locked to the on-module oscillator. -/
def State.startSelf (s : State) : State :=
  let s : State := { s with mon := { s.mon with samplerRun := false } }
  let s := s.each (Tbl.keysWhere (fun _ _ => true) s.fchs) (fun c s => s.updFch c (fun f => { f with load := 0 }))
  if s.clk.locked then s
  else ((s.laneSwitch true).updClk (fun k => { k with
    locked := true, refSrc := 2, selfHold := true, align := .free
    tuning := some (BitVec.ofNat 8 (Config.freeNat s.fresh), (Config.freeWord (s.fresh + 1)).setWidth 16) })).bumpBy 2

/-- REF_SRC is REFCLK, and ALIGN is LOCKED or ALIGNED (Table 15.5, check 0x08). -/
def State.traceRef (s : State) : Bool :=
  decide (s.clk.refSrc = 1) && (decide (s.clk.align = .locked) || decide (s.clk.align = .aligned))

def actCalRun (r : Run) (s : State) : State :=
  match crKind r.p with
  | 2 => (s.updCal (fun c => { c with bgRun := !crStop r.p })).complete r .ok 0
  | k =>
    let s := s.updCal (fun c => { c with batch := some { kind := k, extref := pw r.p 5, refBad := !s.traceRef } })
    (if k = 0 then s.startSelf else s).addJob r .cal

def mCalRun : Meaning where
  check r s :=
    let k := crKind r.p
    firstOf [
      (decide (k = 3) || (crStop r.p && decide (k < 2)) || (decide (k = 1) && (decide (crRef r.p < 1000000) || decide (10500000 < crRef r.p))) ||
        (decide (k ≠ 1) && decide (crRef r.p ≠ 0)), .badParam, 0),
      (decide ((s.proc 1).st = 2), .busy, 0),
      (decide (k < 2) && (s.batchBarred || s.precDown || s.fwArmed || s.hot), .busy, 0),
      (decide (k = 0) && (decide (s.clk.align = .acquiring) || decide (s.clk.align = .returning)), .busy, 0)]
  act := actCalRun

def execCalRun (p : Pkt) (s : State) : Ans := .next (submit .calRun mCalRun p s)

/-! ### The blob (R421, Table 15.6) -/

/-- One bit of CRC-32 of the IEEE 802.3 polynomial, least significant bit first. -/
def crcBit (c : W32) : W32 := if c.getLsbD 0 then (c >>> 1) ^^^ 0xEDB88320 else c >>> 1
def crcByte (c : W32) (b : Byte) : W32 :=
  crcBit (crcBit (crcBit (crcBit (crcBit (crcBit (crcBit (crcBit (c ^^^ b.setWidth 32))))))))
def crc32 (d : List Byte) : W32 := ~~~ (d.foldl crcByte 0xFFFFFFFF)

/-- Values a batch sets that no CAL_ register shows, by keys above the window's: FCH_DELAY, DIRECT route trims, TMU path delays,
the REFCLK input delay, monitor slot offsets and gains, the TDC scale. -/
def keyDelay (c : Nat) : Nat := 0x4000 + c
def keyRoute (i : Nat) : Nat := 0x4100 + i
def keyPath (i : Nat) : Nat := 0x4200 + i
def keyRefclk : Nat := 0x4210
def keySlot (k : Nat) : Nat := 0x4400 + k
def keyTdc : Nat := 0x4500

def half (v : BitVec 16) : List Byte := [v.extractLsb' 0 8, v.extractLsb' 8 8]
def lo16 (v : W32) : BitVec 16 := v.setWidth 16
def hi16 (v : W32) : BitVec 16 := (v >>> 16).setWidth 16

/-- A section: TYPE, payload length, payload. -/
def section_ (ty : Nat) (d : List Byte) : List Byte := bytesOf (word ty) ++ bytesOf (word d.length) ++ d

def recBlob (r : CalRec) : List Byte :=
  [word r.count, lo32 r.time, hi32 r.time, lo32 r.wall, hi32 r.wall, pack [(0, r.status.toNat), (8, r.result.toNat)],
   r.temp.signExtend 32, r.extref].flatMap bytesOf


def tableBlob (s : State) (c : Nat) : List Byte :=
  let f := s.fch c
  let t := (s.aoc c).inForce
  bytesOf (pack [(0, f.mode.code), (8, b2n t.trained)]) ++ bytesOf (word f.centre) ++
    (List.range 104).flatMap (fun i => bytesOf (t.coeffAt f.mode.code i))

/-- The version of the running image of a type (Table 17.16, Table 17.20). -/
def State.runningVer (s : State) (ty : Nat) : W32 :=
  if s.fw.running < 2 then imgWord (s.img s.fw.running ty) (8 * s.fw.running + ty) 2 else Config.safeVer ty

def blobBody (s : State) : List Byte :=
  section_ 1 ([0, 1, 2].flatMap (fun k => recBlob (s.rec_ k))) ++
  section_ 2 ((List.range 1728).flatMap (fun e => half (lo16 (s.trim (0x1000 + 4 * e))))) ++
  section_ 3 ((List.range 64).flatMap (fun k => bytesOf (s.trim (0x3000 + 4 * k)))) ++
  section_ 4 ((List.range 96).flatMap (fun k => bytesOf (s.trim (0x3200 + 4 * k)))) ++
  section_ 5 ((List.range 36).flatMap (fun k => bytesOf (s.trim (keySlot k))) ++ bytesOf s.cal.scalePpb ++ bytesOf s.cal.oscPpb) ++
  section_ 6 ((List.range 64).flatMap (fun m => half (Tbl.get 0 s.cal.mkskew m)) ++
    (List.range 32).flatMap (fun c => half (s.fch c).delay) ++
    (List.range 16).flatMap (fun i => half (lo16 (s.trim (keyRoute i)))) ++
    (List.range 17).flatMap (fun i => bytesOf (s.trim (keyPath i)))) ++
  section_ 7 ((List.range 32).flatMap (fun c => tableBlob s c))

/-- The blob's length. -/
def blobLen : Nat := 18324

def blobHead (s : State) (crc : W32) : List Byte :=
  ([word (1 + 65536 * 64), word blobLen, lo32 Config.serial, hi32 Config.serial,
    pack [(0, Config.hwRev.toNat), (16, (s.runningVer 1).toNat % 65536)], word 7, lo32 s.tb, hi32 s.tb,
    lo32 s.wallNow, hi32 s.wallNow, 0, 0, 0, 0, 0, crc] : List W32).flatMap bytesOf

def calBlob (s : State) : List Byte :=
  let body := blobBody s
  blobHead s (crc32 (blobHead s 0 ++ body)) ++ body

def mCalSave : Meaning where
  act r s := s.addJob r .transfer

def execCalSave (p : Pkt) (s : State) : Ans := .next (submit .calSave mCalSave p s)

/-- The blob has been written; RESULT gives its length. -/
def endCalSave (r : Run) (s : State) : State :=
  (s.replyData r (pw r.p 5).toNat (pq r.p 6) (calBlob s)).complete r .ok blobLen

/-! ### CAL_RESTORE (R421, R422) -/

def mCalRestore : Meaning where
  check _ s := firstOf [(decide ((s.proc 1).st = 2) || s.batchBarred || s.precDown || s.fwArmed, .busy, 0)]
  act r s := (s.updCal (fun c => { c with batch := some { kind := 3 } })).addJob r .transfer

def execCalRestore (p : Pkt) (s : State) : Ans := .next (submit .calRestore mCalRestore p s)

/-- Section types and lengths with the offset of each payload. -/
def blobMap : List (Nat × Nat × Nat) :=
  [(1, 96, 72), (2, 3456, 176), (3, 256, 3640), (4, 384, 3904), (5, 152, 4296), (6, 292, 4456), (7, 13568, 4756)]

/-- Word and half-word of the blob at a byte offset. -/
def blobW (d : List Byte) (o : Nat) : W32 := (wordsOf ((d.drop o).take 4)).headD 0
def blobH (d : List Byte) (o : Nat) : W32 := (wordsOf ((d.drop o).take 2)).headD 0

def blobForm (d : List Byte) : Bool :=
  decide (d.length = blobLen) && decide (blobW d 0 = word (1 + 65536 * 64)) && decide (blobW d 4 = word blobLen) && decide (blobW d 20 = 7) &&
  blobMap.all (fun m => decide (bits (blobW d (m.2.2 - 8)) 0 8 = m.1) && decide (blobW d (m.2.2 - 4) = word m.2.1))

/-- The first of checks 0x50 to 0x53 that fails. -/
def blobCheck (d : List Byte) : Option Nat :=
  if !blobForm d then some 0x50
  else if crc32 (d.take 60 ++ [0, 0, 0, 0] ++ d.drop 64) ≠ blobW d 60 then some 0x51
  else if blobW d 8 ≠ lo32 Config.serial ∨ blobW d 12 ≠ hi32 Config.serial then some 0x52
  else if bits (blobW d 16) 0 16 ≠ Config.hwRev.toNat then some 0x53
  else none

/-- The analogue trims, REF_SCALE and timing values of the blob. -/
def blobVals (d : List Byte) : List (Nat × W32) :=
  (List.range 1728).map (fun e => (0x1000 + 4 * e, blobH d (176 + 2 * e))) ++
  (List.range 64).map (fun k => (0x3000 + 4 * k, blobW d (3640 + 4 * k))) ++
  (List.range 96).map (fun k => (0x3200 + 4 * k, blobW d (3904 + 4 * k))) ++
  (List.range 36).map (fun k => (keySlot k, blobW d (4296 + 4 * k))) ++
  [(0x10, blobW d 4440), (0x14, blobW d 4444)] ++
  (List.range 64).map (fun m => (0x200 + 4 * m, blobH d (4456 + 2 * m))) ++
  (List.range 32).map (fun c => (keyDelay c, blobH d (4584 + 2 * c))) ++
  (List.range 16).map (fun i => (keyRoute i, blobH d (4648 + 2 * i))) ++
  (List.range 17).map (fun i => (keyPath i, blobW d (4680 + 4 * i)))

def blobTables (d : List Byte) : List (Nat × Nat × Nat × CorrSet) :=
  (List.range 32).map (fun c =>
    let o := 4756 + 424 * c
    (c, bits (blobW d o) 0 2, (blobW d (o + 4)).toNat,
      { trained := bit (blobW d o) 8, coeff := some ((List.range 104).map (fun i => blobW d (o + 8 + 4 * i))) }))

/-- The blob has been read: the checks on its form, then those on its values (CAL_BATCH_END). -/
def takeCalRestore (r : Run) (d : List Byte) (s : State) : State :=
  let s := s.addJob r .calRestoreCommit
  match blobCheck d with
  | some code => s.rejectBatch code
  | none => s.updCal (fun c => { c with batch := c.batch.map (fun b => { b with
      blob := blobVals d, tables := blobTables d, wall := w64 (blobW d (72 + 32 + 12)) (blobW d (72 + 32 + 16)) }) })

/-- A batch's packet ends another way: the batch is dropped with nothing changed (R120, R121, R419). -/
def State.dropBatch (s : State) (st : Status) (res : Nat) : State :=
  match s.cal.batch with
  | some b => s.closeBatch.updRec b.kind (fun r => { r with status := BitVec.ofNat 8 (statusByte st), result := BitVec.ofNat 24 res })
  | none => s

/-! ### The end of a batch's checks, and its commit (R410, R411, R145, R242, R243, R273) -/

/-- What the batch of a kind may set (Table 15.4): a TRACE, of the fast trims, the low-frequency driver gain, and of the monitor the
gains. -/
def kindSets (kind k : Nat) : Bool :=
  match kind with
  | 0 => decide (0x200 ≤ k) && decide (k < 0x300) || decide (0x1000 ≤ k)
  | 1 => decide (k = 0x10) || decide (k = 0x14) || (decide (0x3000 ≤ k) && decide (k < 0x3100) && decide (k % 8 = 4)) || (decide (0x3200 ≤ k) && decide (k < 0x3380)) ||
    (decide (0x4400 ≤ k) && decide (k % 2 = 1)) || decide (k = keyTdc)
  | _ => true

/-- A result that concerns a FAILED channel or a retired element is no part of the batch. -/
def State.excluded (s : State) (k : Nat) : Bool :=
  if 0x1000 ≤ k ∧ k < 0x2B00 then
    (let e := (k - 0x1000) / 4
     (s.fch (e / 54)).retiredList.contains (e % 54) || decide ((s.fch (e / 54)).st = .failed))
  else if 0x3000 ≤ k ∧ k < 0x3100 then decide ((s.fch ((k - 0x3000) / 8)).st = .failed)
  else if 0x3200 ≤ k ∧ k < 0x3380 then decide ((s.pch ((k - 0x3200) / 24)).st = .failed)
  else if 0x4000 ≤ k ∧ k < 0x4020 then decide ((s.fch (k - 0x4000)).st = .failed)
  else false

def State.setVal (s : State) (k : Nat) (v : W32) : State :=
  if k = 0x10 then s.updCal (fun c => { c with scalePpb := v })
  else if k = 0x14 then s.updCal (fun c => { c with oscPpb := v })
  else if 0x200 ≤ k ∧ k < 0x300 then s.updCal (fun c => { c with mkskew := Tbl.set 0 c.mkskew ((k - 0x200) / 4) (lo16 v) })
  else if 0x4000 ≤ k ∧ k < 0x4020 then s.updFch (k - 0x4000) (fun f => { f with delay := lo16 v })
  else if 0x1000 ≤ k ∧ k < 0x2B00 then (s.setTrim k (v &&& 0xFFFF)).setShadow ((k - 0x1000) / 4) none
  else s.setTrim k v

/-- The value a batch of this kind gives: a TRACE leaves the driver offset beside the driver gain as it is. -/
def State.kindVal (s : State) (kind : Nat) (x : Nat × W32) : Nat × W32 :=
  if kind = 1 ∧ 0x3000 ≤ x.1 ∧ x.1 < 0x3100 then (x.1, (x.2 &&& 0xFFFF0000) ||| (s.trim x.1 &&& 0xFFFF)) else x

/-- The checks a batch of this kind runs (Table 15.5); of a restore's element trims the table names none. -/
def runsCheck (kind code : Nat) : Bool :=
  match kind with
  | 0 => [0x01, 0x02, 0x0A, 0x10, 0x11, 0x12, 0x20, 0x21, 0x22, 0x23, 0x24, 0x30, 0x31, 0x32, 0x40].contains code
  | 1 => [0x01, 0x02, 0x03, 0x04, 0x05, 0x06, 0x07, 0x09, 0x0A, 0x10, 0x11, 0x12, 0x21, 0x22, 0x40].contains code
  | _ => true

/-- The check of Table 15.5 that a value fails by its own window: REF_SCALE ±0.1 %, the oscillator ±50 ppm, FCH_DELAY and marker skew
±20 ps, which is 2,097 units; none where it passes or its window is against a factory value. -/
def valCheck (x : Nat × W32) : Option Nat :=
  let u (v : BitVec 16) : Bool := decide (2097 < v.toInt.natAbs)
  if x.1 = 0x10 then (if 1000000 < x.2.toInt.natAbs then some 0x07 else none)
  else if x.1 = 0x14 then (if 50000 < x.2.toInt.natAbs then some 0x09 else none)
  else if 0x4000 ≤ x.1 ∧ x.1 < 0x4020 then (if u (lo16 x.2) then some (0x23 + 256 * (x.1 - 0x4000)) else none)
  else if 0x200 ≤ x.1 ∧ x.1 < 0x300 then (if u (lo16 x.2) then some (0x24 + 256 * ((x.1 - 0x200) / 4)) else none)
  else none

/-- The first check, in the order of Table 15.5, that the values of a SELF or a TRACE fail. -/
def valsFail (b : Batch) (vs : List (Nat × W32)) : Option Nat :=
  let fails := (if b.kind = 1 && b.refBad then [0x08] else []) ++ vs.filterMap valCheck
  [0x07, 0x08, 0x09, 0x23, 0x24].findSome? (fun c => fails.find? (fun f => decide (f % 256 = c)))

/-- The lowest spare cub. -/
def State.spareCub (s : State) : Option Nat := (firstFrom (fun k => decide ((s.eng k).st = 0) && (s.eng k).migrating.isNone) 256 8)

/-- The engine test of the power-up SELF: a failed engine gets a cub, or is retired where none is left. -/
def State.failEngine (s : State) (e : Nat) : State :=
  match s.spareCub with
  | some k => (s.updEng e (fun x => { x with st := 1, partner := k - 256, selftestFail := true })).updEng k (fun x => { x with st := 1, partner := e })
  | none => s.updEng e (fun x => { x with st := 2, selftestFail := true })

/-- A spare row that fails the memory test is never used. -/
def State.badSpare (s : State) (k b i : Nat) : State :=
  if ((s.pc k).dbank b).badSpares.contains i then s
  else (s.updDBank k b (fun x => { x with badSpares := insertNat i x.badSpares })).updPc k (fun p => { p with spares := p.spares - 1 })

/-- What the tests of a SELF decide. -/
def State.selfTests (s : State) (b : Batch) (e : BatchEnd) : State :=
  if b.kind ≠ 0 then s else
  let s := if b.boot then e.spares.foldl (fun s x => s.badSpare x.1 x.2.1 x.2.2) s else s
  let s := if b.boot then e.engines.foldl (fun s k => s.failEngine k) { s with engines := [], log := { s.log with mramEngines := e.engines.map Fin.val } } else s
  let s := e.elements.foldl (fun s x => s.retireElement x.1 x.2) s
  let s := e.fast.foldl (fun s c => s.failFch c) s
  e.prec.foldl (fun s n => s.failPch n) s

def execCalBatchEnd (e : BatchEnd) (s : State) : Ans :=
  match s.cal.batch with
  | none => .next s
  | some b =>
    if b.vals.isSome || (b.boot && decide (s.fw.boot < 2)) || (decide (b.kind = 3) && b.blob.isEmpty) then .next s else
    let s := s.selfTests b e
    let vs := ((if b.kind = 3 then b.blob else e.vals).filter (fun x => kindSets b.kind x.1 && !s.excluded x.1)).map (s.kindVal b.kind)
    .next (match e.failure.filter (fun f => runsCheck b.kind f.1.toNat), if b.kind = 3 then none else valsFail b vs with
      | some (code, inst, range), _ => s.rejectBatch (code.toNat + 256 * inst.toNat + 65536 * range.toNat)
      | none, some code => s.rejectBatch code
      | none, none => s.updCal (fun c => { c with batch := some { b with vals := some vs, ackAt := s.tb } }))

/-- A restored table set of a channel whose mode and centre it matches; a LOCKED pending set does not change. -/
def State.loadTable (s : State) (t : Nat × Nat × Nat × CorrSet) : State :=
  s.updAoc t.1 (fun a => { a with pendSet := t.2.2.2, pending := if t.2.2.2.trained then 1 else 0, readyAt := s.tb, lastSmall := false })

def State.tableFits (s : State) (t : Nat × Nat × Nat × CorrSet) : Bool :=
  decide ((s.fch t.1).mode.code = t.2.1) && decide ((s.fch t.1).centre = t.2.2.1) && decide ((s.aoc t.1).pending ≠ 2)

/-- The commit: every value of the batch in one lane cycle, at the first multiple of 64 at least 64 LC after the last
acknowledgement. It waits for a converter controller that restarts (R429). -/
def execCalCommit (s : State) : Ans :=
  match s.cal.batch with
  | some { kind := kind, boot := boot, extref := extref, vals := some vs, ackAt := ack, tables := ts, wall := wall, .. } =>
    if [3, 4, 5, 6].any (fun p => decide ((s.proc p).st = 1)) then .next s else
    let s := s.advanceTo (s.lcAt (up64 (ack + 64)))
    let s := vs.foldl (fun s x => s.setVal x.1 x.2) s
    let s := if kind = 1 then s.updCal (fun c => { c with declared := extref }) else s
    let s := if boot then s.updCal (fun c => { c with bootOk := true }) else s
    let s := s.closeBatch.noteCal kind
    if kind = 3 then
      let fit := ts.filter (fun t => s.tableFits t)
      let s := fit.foldl (fun s t => s.loadTable t) s
      let s := s.updRec 3 (fun r => { r with wall := wall, result := BitVec.ofNat 24 fit.length })
      .next (s.endKind (fun k => decide (k = .calRestoreCommit)) .ok fit.length)
    else .next (s.endKind (fun k => decide (k = .cal)) .ok 0)
  | _ => .next s

end Sys2Proof.Machine
end

