-- ==== Sys2Proof/Machine/Banks.lean ====
section
/-! DEFINITION. The on-chip banks: power states and handover (spec/12_onchip_banks.md). Placement is in Segment.lean, the read load
in Program.lean. -/
namespace Sys2Proof.Machine

/-- The device units that may own a bank. -/
def isDevice (o : Nat) : Bool := decide (0x401 ≤ o) && decide (o ≤ 0x403)

/-- A segment lies in bank b, or its pinned copy does. -/
def Seg.liesIn (g : Seg) (b : Nat) : Bool :=
  decide ((g.bank.map (fun x => x.1)) = some b) || decide ((g.pin.map (fun x => x.1)) = some b)

/-- The program of context c plays a segment in bank b, or its context has a slot copy there (R347). -/
def State.usesBank (s : State) (c b : Nat) : Bool :=
  Tbl.anyEntry (fun _ w => decide (sop w = 1) && (s.seg (sf w 1 0 16)).liesIn b && decide ((s.seg (sf w 1 0 16)).gen = sf w 1 16 8)) (s.ctx c).steps ||
  Tbl.anyEntry (fun _ j => decide (j.st ≠ 0) && decide ((j.copy.map (fun x => x.1)) = some b)) (s.ctx c).jumps

/-- No read, write, copy or zeroing of the bank is in progress (R346). -/
def State.bankIdle (s : State) (b : Nat) : Bool :=
  (s.bank b).zeroing.isEmpty &&
  !Tbl.anyEntry (fun _ v => decide (v.st = .playing) && (match v.cur with | some a => decide (a.bank = some b) | none => false)) s.voices &&
  !s.jobs.any (fun j => match j.kind with
    | .pinCopy k _ => (s.seg k).liesIn b
    | .jmpArm c i => decide ((((s.ctx c).jump i).copy.map (fun x => x.1)) = some b)
    | .transfer => (decide (j.run.op = .segWrite) || decide (j.run.op = .segRead)) && (s.seg (pf j.run.p 4 0 16)).liesIn b
    | _ => false)

/-! ### BNK_POWER (R346 to R349) -/

def bpBank (p : Pkt) : Nat := pf p 4 0 7
def bpState (p : Pkt) : BankSt := match pf p 4 8 2 with | 0 => .off | 1 => .hibernate | _ => .on
def bpZero (p : Pkt) : Bool := pb p 4 12

/-- The packet's context holds the bank, or function PF0 powers an unowned one down. -/
def bpMay (p : Pkt) (s : State) : Bool :=
  (s.ctxOf p.fn p.ctx && decide ((s.bank (bpBank p)).owner = p.ctx.val)) ||
  (decide (p.fn.val = 0) && decide ((s.bank (bpBank p)).owner = 0x7FF) && decide (bpState p ≠ .on))

/-- A transition starts; one already under way makes the request wait in place of the one that waited (R348). -/
def actBnkPower (r : Run) (s : State) : State :=
  let b := bpBank r.p
  let t := (bpState r.p, bpZero r.p)
  if (s.bank b).trans.isSome ∨ (s.bank b).releasing = true then
    let s := s.endKind (fun k => decide (k = .bnkPower b true)) .busy 0
    (s.updBank b (fun k => { k with waiting := some t })).addJob r (.bnkPower b true)
  else if (s.bank b).st = t.1 then s.complete r .ok 0
  else (s.updBank b (fun k => { k with trans := some t })).addJob r (.bnkPower b false)

def mBnkPower : Meaning where
  check r s :=
    let b := bpBank r.p
    let down := decide (bpState r.p ≠ .on)
    firstOf [
      (bpZero r.p && down, .badParam, 0),
      (isDevice (s.bank b).owner, .busy, 0),
      (!bpMay r.p s, .notOwner, 0),
      ((!down && s.hot) || (decide (bpState r.p = .off) && !(s.bank b).used.isEmpty) ||
        (down && (s.ctxsWhere (fun c => decide (c.st = .running))).any (fun c => s.usesBank c b)), .busy, 0)]
  act := actBnkPower

def execBnkPower (p : Pkt) (s : State) : Ans := .next (submit .bnkPower mBnkPower p s)

/-- The bank's content in the state it reaches (Table 12.3): lost by OFF; zeros, or undefined, after a wake from OFF. -/
def State.bankContent (s : State) (b : Nat) (old new : BankSt) (zero : Bool) : State :=
  match old, new with
  | _, .off => s.zeroBank b 0 (2 ^ 20)
  | .off, .on => if zero then s.zeroBank b 0 (2 ^ 20) else (s.writeBank b 0 (s.freeBytes (2 ^ 20))).bumpBy (2 ^ 20)
  | .off, .hibernate => s.zeroBank b 0 (2 ^ 20)
  | _, _ => s

/-- What waited starts from the state reached. -/
def State.nextTransition (s : State) (b : Nat) : State :=
  match (s.bank b).waiting with
  | none => s
  | some t =>
    let s := s.updBank b (fun k => { k with waiting := none })
    if (s.bank b).st = t.1 then s.endKind (fun k => decide (k = .bnkPower b true)) .ok 0
    else { s.updBank b (fun k => { k with trans := some t }) with
      jobs := s.jobs.map (fun j => if j.kind = .bnkPower b true then { j with kind := .bnkPower b false } else j) }

def execBankTransitionEnd (b : Fin 128) (s : State) : Ans :=
  let k := s.bank b
  match k.trans with
  | none => .next s
  | some (t, z) =>
    if decide (k.st = .on) && !s.bankIdle b then .next s else
    let s := (s.bankContent b k.st t z).updBank b (fun k => { k with
      st := t, trans := none, wakes := if t = .on then sat 65535 (k.wakes + 1) else k.wakes })
    let s := s.endKind (fun j => decide (j = .bnkPower b false)) .ok 0
    .next (if k.releasing then s.freeByState b else s.nextTransition b)

/-! ### Handover (R350 to R352) -/

def bhOwner (p : Pkt) : Nat := pf p 5 0 12

/-- A context that may be handed a bank. -/
def State.takes (s : State) (fn o : Nat) : Bool := decide (o < 1024) && s.ctxOf fn o && decide ((s.ctx o).st ≠ .closing)

/-- Table 12.5, for BNK_HANDOVER of a context and for a register write; the present owner's ID withdraws (R352). -/
def bhMay (p : Pkt) (s : State) : Bool :=
  let o := (s.bank (bpBank p)).owner
  let n := bhOwner p
  if o < 1024 then
    decide (o = p.ctx.val) && s.ctxOf p.fn o && (s.takes p.fn n || decide (n = 0x7FF) || (decide (p.fn.val = 0) && isDevice n))
  else if isDevice o then decide (p.fn.val = 0) && (decide (n = 0x7FF) || decide (n = o) || s.takes 0 n)
  else decide (o = 0x7FF) && decide (p.fn.val = 0) && isDevice n

def State.nextMay (s : State) (b n : Nat) : Bool :=
  let o := (s.bank b).owner
  if o < 1024 then s.ctxOf 0 o && isDevice n
  else if isDevice o then decide (n = 0x7FF) || s.takes 0 n
  else decide (o = 0x7FF) && isDevice n

def badOwner (n : Nat) : Bool := decide (n = 0x400) || (decide (0x404 ≤ n) && decide (n ≤ 0x7FE))

def actBnkHandover (r : Run) (s : State) : State :=
  let b := bpBank r.p
  if bhOwner r.p = (s.bank b).owner then (s.withdrawHandover b).complete r .ok 0
  else ((s.updBank b (fun k => { k with handover := some (bhOwner r.p, s.lc) })).interim r .handoverPending).addJob r (.handover b)

def mBnkHandover : Meaning where
  check r s :=
    let b := bpBank r.p
    firstOf [
      (badOwner (bhOwner r.p), .badParam, 0),
      (!bhMay r.p s, .notOwner, 0),
      (decide (bhOwner r.p ≠ (s.bank b).owner) && s.bankBusy b, .busy, 0)]
  act := actBnkHandover

def execBnkHandover (p : Pkt) (s : State) : Ans := .next (submit .bnkHandover mBnkHandover p s)

def State.bankNext (s : State) (b : Nat) (v : W32) : State :=
  let n := bits v 0 12
  let o := (s.bank b).owner
  if n = o then (if o = 0x7FF ∨ o = 0x400 then s else s.withdrawHandover b)
  else if s.nextMay b n && !s.bankBusy b then s.updBank b (fun k => { k with handover := some (n, s.lc) })
  else { s with bnk := { s.bnk with rejects := sat 255 (s.bnk.rejects + 1) } }

def execBnkOwnerNextWrite (b : Fin 128) (v : W32) (s : State) : Ans := .next (s.bankNext b v)

/-- A copy that the bank's owner abandoned is still outstanding (Table 5.5). -/
def State.orphansFor (s : State) (b : Nat) : Bool :=
  Tbl.anyEntry (fun _ t => t.abandoned && !t.landed && t.bulk.isSome && decide (t.port = 4) && decide (t.ctx = (s.bank b).owner)) s.sql.tags

/-- The new owner takes an idle bank; one handed to 0x7FF is released, one handed to a device unit is kept ON. -/
def execHandoverTake (b : Fin 128) (s : State) : Ans :=
  match (s.bank b).handover with
  | none => .next s
  | some (n, _) =>
    if !s.bankIdle b || s.orphansFor b then .next s else
    let s := (s.endKind (fun k => decide (k = .handover b)) .ok 0).updBank b (fun k => { k with handover := none })
    if n = 0x7FF then .next (s.releaseBank b)
    else
      let s := s.setOwner b n
      .next (if isDevice n && decide ((s.bank b).st ≠ .on) && (s.bank b).trans.isNone then s.updBank b (fun k => { k with trans := some (.on, false) }) else s)

/-- 100 ms after its interim completion a pending handover is withdrawn. -/
def execHandoverTimeout (b : Fin 128) (s : State) : Ans :=
  match (s.bank b).handover, s.findJob (fun k => decide (k = .handover b)) with
  | some (_, t), some j =>
    let s := (s.advanceTo (t + 160000000)).updBank b (fun k => { k with handover := none })
    .next ((s.dropJobs (fun x => decide (x = j))).timeoutRun j.run 0)
  | _, _ => .next s

end Sys2Proof.Machine
end

