-- ==== Sys2Proof/Machine/Steps.lean ====
section
/-! DEFINITION. The fourteen steps: the engine issues the next step of a context's thread (spec/05_contexts_engines.md R124 to R133,
spec/06_sequence_programs.md R157 to R174, R177; heads spec/10_waveform_memory_fetch.md R290). -/
namespace Sys2Proof.Machine

/-! ### Issue (R124, R130, R133, R140, R157) -/

/-- The unit that executes engine e's threads: the engine, or the cub that stands in for it. -/
def State.execUnit (s : State) (e : Nat) : Nat := if (s.eng e).st = 1 then 256 + (s.eng e).partner else e

/-- The context's engine issues: not retired, no migration under way. -/
def State.engineRuns (s : State) (c : Nat) : Bool :=
  match (s.ctx c).engine with
  | some e => decide ((s.eng e).st ≠ 2) && (s.eng e).migrating.isNone
  | none => false

/-- The device address of step k of a program area, whose pages are always mirrored (R128). -/
def Ctx.stepDpa (x : Ctx) (k : Nat) : Nat :=
  let e := ((x.pages.find? (fun p => decide (p.1 = k / 2048))).map (fun p => p.2)).getD 0
  let g : Seg := { mirrored := true, ext := e }
  g.fetchDpa (k % 2048 * 32 / 256)

/-- A step is requested under URGENT class on port STEP. -/
def State.requestStep (s : State) (c k : Nat) : State :=
  let x := s.ctx c
  s.updSql (fun q => { q with urgent := q.urgent ++ [{ port := 1, ctx := c, gen := x.gen, seg := stepSeg, dpa := x.stepDpa k, deadline := s.lc, first := k }] })

/-- The unit that holds step k is on its way. -/
def State.stepComing (s : State) (c k : Nat) : Bool :=
  let hit := fun (t : Tag) => t.isStep && !t.abandoned && decide (t.ctx = c) && decide (t.gen = (s.ctx c).gen) && decide (t.first / 8 = k / 8)
  s.sql.urgent.any (fun r => hit r.asTag) || Tbl.anyEntry (fun _ t => t.held && hit t) s.sql.tags

/-- The step needed is not in the cache: the thread waits for it. -/
def State.missStep (s : State) (c : Nat) : State :=
  let x := s.ctx c
  let s := s.updCtx c (fun x => { x with fetching := true })
  if s.stepComing c x.pc then s else
  let s := match x.engine with
    | some e => s.updEng (s.execUnit e) (fun y => { y with misses := y.misses + 1 })
    | none => s
  s.requestStep c x.pc

/-- Steps enter the cache of 256; the oldest that no jump slot pins make room. -/
def Ctx.cacheIn (x : Ctx) (ks : List Nat) : Ctx :=
  let new := x.cache.filter (fun k => !ks.contains k) ++ ks
  let drop := (new.filter (fun k => !x.pinned.contains k)).take (new.length - 256)
  { x with cache := new.filter (fun k => !drop.contains k) }

/-- Opcodes that end a run of steps for the spin watchdog: plays, waits, ends. -/
def resetsSpin (op : Nat) : Bool := [0x01, 0x04, 0x05, 0x06, 0x08, 0x0E].contains op

/-- A PLAY or HOP with TV outside triggered mode, or without it inside (R172). -/
def wrongTv (x : Ctx) (w : List W32) : Bool := (decide (sop w = 1) || decide (sop w = 2)) && (sb w 0 16 != x.triggered)

def playVoice (x : Ctx) (w : List W32) : Nat := if sb w 0 16 then x.tvoice else sf w 0 8 8

/-- What the thread's step names and its context does not hold: a unit, the voice, its segment at its generation, the bank that
segment is in. -/
def State.notHeld (s : State) (c : Nat) (w : List W32) : Bool :=
  let v := playVoice (s.ctx c) w
  let g := s.seg (slotOf (sw w 1))
  (stepRes w).any (fun e => !s.holds c e.1 e.2) ||
  ((decide (sop w = 1) || decide (sop w = 2)) && !s.holds c 1 v) ||
  (decide (sop w = 1) && (!s.segLive (sw w 1) || decide (g.ctx ≠ c) || ((sb w 5 0 || sb w 6 0) && !s.holds c 0 (v / 8)) ||
    (match g.inBank with | some b => decide ((s.bank b).owner ≠ c) | none => false)))

/-- A voice queue holds 16 actions besides the one being played (R127). -/
def State.queueFull (s : State) (c : Nat) (w : List W32) : Bool :=
  decide (sop w = 1) && decide (16 ≤ (s.voice (playVoice (s.ctx c) w)).queue.length)

/-- The thread can issue: RUNNING, waiting for nothing, not stopped by its spin watchdog. -/
def State.ready (s : State) (c : Nat) : Bool :=
  let x := s.ctx c
  decide (x.st = .running) && decide (x.waiting = .none) && !x.fetching && s.engineRuns c && decide (x.spin < 65536)

/-- What every issue does: the watchdogs are told and the next step is prefetched. -/
def Ctx.issued (x : Ctx) (op : Nat) : Ctx :=
  { x.cacheIn [x.pc, x.pc + 1] with spin := if resetsSpin op then 0 else x.spin + 1, stalls := 0, onCubStall := none }

/-- The next step of context c, if it is of opcode op. -/
def issue (op : Nat) (f : Nat → List W32 → State → State) (c : Nat) (s : State) : State :=
  let x := s.ctx c
  let w := x.step x.pc
  if !s.ready c then s
  else if !x.cache.contains x.pc then s.missStep c
  else if (stepMasks w).isEmpty then s.faultStop c 0x109 0
  else if sop w ≠ op then s
  else if wrongTv x w then s.faultStop c 0x109 0
  else if s.notHeld c w then s.faultStop c 0x102 0
  else if s.queueFull c w then s
  else
    let s := f c w (s.updCtx c (fun x => x.issued op))
    if (s.ctx c).stopAfter then s.stopCtx c else s

def State.goTo (s : State) (c k : Nat) : State := s.updCtx c (fun x => { x with pc := k })
def State.next (s : State) (c : Nat) : State := s.updCtx c (fun x => { x with pc := x.pc + 1 })

/-! ### PLAY (R158, R159, R126, R127, R161) -/

/-- The timeline position at which what is queued on a voice ends; where it is idle, at which its last action ended. -/
def Voice.tail (v : Voice) : Option Nat :=
  match v.queue.getLast? with
  | some a => some (a.pos + a.dur)
  | none => match v.cur with | some a => some (a.pos + a.dur) | none => v.lastEnd

/-- Edges apply in order of position; of two at one position the one of a MARK step, then of the higher voice, comes first (R163). -/
def insertEdge (e : Edge) : List Edge → List Edge
  | [] => [e]
  | x :: xs => if e.at_ < x.at_ ∨ (e.at_ = x.at_ ∧ x.src < e.src) then e :: x :: xs else x :: insertEdge e xs

/-- An edge word places an edge on marker m for a step at lane cycle t. -/
def State.placeEdge (s : State) (c m src t : Nat) (w : W32) (at_ : Nat) : State :=
  if bit w 0 then
    s.updMarker m (fun k => { k with edges := insertEdge { at_ := 32 * at_ + bits w 8 24, level := bit w 1, ctx := c, src := src, inst := (s.ctx c).inst, step := t, num := (s.ctx c).pc } k.edges })
  else s

/-- Both edge words of a step, once at each of the lane cycles given. -/
def State.placeEdges (s : State) (c ch src t : Nat) (a b : W32) (ats : List Nat) : State :=
  ats.foldl (fun s l => (s.placeEdge c (2 * ch) src t a l).placeEdge c (2 * ch + 1) src t b l) s

/-- The action of a PLAY step at lane cycle t. It enters the queue 2 LC after issue and is usable 8 LC later; placed by an event it is
usable at once, unless it enters after its position (R126); the ENTRY action of a fox jump from the jump position on (R221, R223). A head
taken for it serves its first units (R290). -/
def playAction (s : State) (c : Nat) (w : List W32) (t : Nat) (jump : Option Int) : Action :=
  let x := s.ctx c
  let v := playVoice x w
  let g := s.seg (slotOf (sw w 1))
  let headed := g.bankAt.isNone && x.heads.contains (slotOf (sw w 1), segGenOf (sw w 1))
  let one := g.samples / (s.voiceMode v).rate
  let near := jump.isSome || (match x.placedAt with | some p => decide (p ≤ t) && decide (t < p + 8) | none => false)
  { seg := slotOf (sw w 1), segGen := segGenOf (sw w 1), repeats := sf w 2 0 16
    gainI := BitVec.ofNat 16 (sf w 3 0 16), gainQ := BitVec.ofNat 16 (sf w 3 16 16), vernier := signed (sw w 4)
    phaseSet := if sf w 0 17 2 = 1 then some (BitVec.ofNat 16 (sf w 2 16 16)) else none
    pos := t, dur := one * sf w 2 0 16
    usable := if jump.isSome then t else if near && decide (s.lc + 2 ≤ t) then min t (s.lc + 2) else s.lc + 10
    inst := x.inst, bank := g.inBank, bankOff := ((g.bankAt).map (fun p => p.2)).getD 0, jump := jump, placed := near, step := x.pc
    fetched := if headed then g.headUnits else 0 }

/-- A HOP whose sample is known joins those queued before it: one no later than the latest of them takes effect with that one, in its
place. -/
def joinHop (h : Hop) (l : List Hop) : List Hop :=
  match (l.filter (fun x => decide (x.rank = 1))).getLast? with
  | some x => if h.at_ ≤ x.at_ then insertHop { h with at_ := x.at_ } (l.filter (fun y => decide (y ≠ x))) else insertHop h l
  | none => insertHop h l

/-- A HOP is queued (R160). Behind one with AT 0, whose sample is not known yet, it keeps its place in the queue. -/
def addHop (h : Hop) (l : List Hop) : List Hop :=
  if l.any (fun x => x.onPlay) then (if h.onPlay then l.map (fun x => if x.onPlay then h else x) else l ++ [h])
  else if h.onPlay then l ++ [h] else joinHop h l

/-- The next play action is queued at sample n: a HOP with AT 0 that waits for it takes effect there, and those queued behind it follow. -/
def Voice.placeHops (v : Voice) (n : Nat) : Voice :=
  let put := fun (l : List Hop) (h : Hop) => if h.rank = 1 then joinHop (if h.onPlay then { h with at_ := n, onPlay := false } else h) l else insertHop h l
  { v with hops := (v.hops.dropWhile (fun h => !h.onPlay)).foldl put (v.hops.takeWhile (fun h => !h.onPlay)) }

/-- The action and its edges are queued, with a HOP that waits for it. Where an event or a jump placed it, the voice's further fetches are
URGENT until its lead is enough (R291). -/
def State.queueAction (s : State) (c : Nat) (w : List W32) (a : Action) : State :=
  let v := playVoice (s.ctx c) w
  let one := a.dur / max a.repeats 1
  let ats := if sb w 0 19 then (List.range a.repeats).map (fun j => a.pos + j * one) else [a.pos]
  let s := if (s.voice v).tail = some a.pos then s.updCtx c (fun x => { x with minLead := min x.minLead (a.pos - (s.lc + 2)) }) else s
  let s := (s.pastNco v).updCtx c (fun x => { x with heads := x.heads.erase (a.seg, a.segGen) })
  (s.placeEdges c (v / 8) v a.pos (sw w 5) (sw w 6) ats).updVoice v (fun y =>
    { y.placeHops ((s.voiceMode v).rate * a.pos) with queue := y.queue ++ [a], catchup := y.catchup || (a.placed && (s.nextFetch v a).isSome) })

def doPlay (c : Nat) (w : List W32) (s : State) : State :=
  let a := playAction s c w (s.ctx c).pos none
  ((s.queueAction c w a).updCtx c (fun x => { x with pos := x.pos + a.dur })).next c

def execPlay (c : Fin 1024) (s : State) : Ans := .next (issue 0x01 doPlay c s)

/-! ### HOP (R160) -/

/-- AT samples after the step's position; with AT 0, with the next play action. -/
def doHop (c : Nat) (w : List W32) (s : State) : State :=
  let v := playVoice (s.ctx c) w
  let n := (s.voiceMode v).rate * (s.ctx c).pos + (sw w 1).toNat
  let h : Hop := {
    at_ := n, freq := BitVec.ofNat 48 ((sw w 2).toNat + 2 ^ 32 * sf w 3 0 16), phase := BitVec.ofNat 16 (sf w 4 0 16)
    coherent := sb w 0 17, onPlay := decide ((sw w 1).toNat = 0) }
  ((s.pastNco v).updVoice v (fun y => { y with hops := addHop h y.hops })).next c

def execHop (c : Fin 1024) (s : State) : Ans := .next (issue 0x02 doHop c s)

/-! ### MARK (R161, R164) -/

/-- Mode changes of a marker stay in order of their lane cycles. -/
def insertMode (x : Nat × Nat) : List (Nat × Nat) → List (Nat × Nat)
  | [] => [x]
  | y :: ys => if x.1 < y.1 then x :: y :: ys else y :: insertMode x ys

def doMark (c : Nat) (w : List W32) (s : State) : State :=
  let ch := sf w 0 8 5
  let t := (s.ctx c).pos
  let sel := (if sb w 0 18 then [2 * ch] else []) ++ (if sb w 0 19 then [2 * ch + 1] else [])
  let s := match sf w 0 16 2 with
    | 0 => s.placeEdges c ch 256 t (sw w 1) (sw w 2) [t]
    | 1 => s.each sel (fun m s => s.updMarker m (fun k => { k with modeAt := insertMode (s.boundaryFrom t (sf w 3 0 24), sf w 3 0 24) k.modeAt }))
    | _ => s.each sel (fun m s => s.updMarker m (fun k => { k with modeAt := insertMode (t, 0) k.modeAt }))
  s.next c

def execMark (c : Fin 1024) (s : State) : Ans := .next (issue 0x03 doMark c s)

/-! ### WAIT (R158) -/

def doWait (c : Nat) (w : List W32) (s : State) : State :=
  (s.updCtx c (fun x => { x with pos := x.pos + s48 w 1 })).next c

def execWait (c : Fin 1024) (s : State) : Ans := .next (issue 0x04 doWait c s)

/-! ### Heads (R290) -/

/-- Opcodes at which straight-line order stops. -/
def stopsLine (op : Nat) : Bool := [0x04, 0x05, 0x06, 0x07, 0x08, 0x09, 0x0B, 0x0C, 0x0E].contains op

/-- The SEG words of up to n PLAY steps in straight-line order from step k, over at most m steps. -/
def Ctx.headPlays (x : Ctx) : Nat → Nat → Nat → List W32
  | _, _, 0 => []
  | 0, _, _ => []
  | n + 1, k, m + 1 =>
    let w := x.step k
    if w = [] ∨ stopsLine (sop w) then []
    else if sop w = 1 then sw w 1 :: Ctx.headPlays x n (k + 1) m
    else Ctx.headPlays x (n + 1) (k + 1) m

/-- The plays behind step k that a head serves: of segments in DRAM, as slot and generation. -/
def State.headList (s : State) (c k : Nat) : List (Nat × Nat) :=
  (((s.ctx c).headPlays 8 k 4096).filter (fun w => s.segLive w && (s.seg (slotOf w)).bankAt.isNone)).map (fun w => (slotOf w, segGenOf w))

/-- The head of a segment is on its way or landed for the context. -/
def State.headTaken (s : State) (c k g : Nat) : Bool :=
  s.sql.stream.any (fun r => isHead r.voice r.seg r.bulk && decide (r.ctx = c) && decide (r.seg = k) && decide (r.segGen = g)) ||
  Tbl.anyEntry (fun _ t => t.held && !t.abandoned && isHead t.voice t.seg t.bulk && decide (t.ctx = c) && decide (t.seg = k) && decide (t.segGen = g)) s.sql.tags

/-- A head: the first 32 units of a segment; their deadline is set as they issue. -/
def State.takeHead (s : State) (c k g : Nat) : State :=
  if s.headTaken c k g then s
  else s.updSql (fun q => { q with stream := q.stream ++ (List.range (s.seg k).headUnits).map (fun u =>
    { port := 2, ctx := c, gen := (s.ctx c).gen, seg := k, segGen := g, dpa := (s.seg k).fetchDpa u, deadline := s.lc + 6400, first := (s.seg k).unitSample u, unit := u }) })

/-! ### Event steps (R126, R166, R167, R173, R174) -/

/-- An event already pending when the thread reaches a step with CLEAR is discarded; not one delivered in this lane cycle (R365). -/
def State.clearPending (s : State) (n : Nat) : State :=
  s.updCon n (fun k => { k with pending := k.pending.filter (fun a => decide (s.lc ≤ a)) })

def State.takePending (s : State) (n : Nat) : State := s.updCon n (fun k => { k with pending := none })

/-- The position the engine can still reach: 4 LC from now; a later one than asked is EVENT_LATE with the shortfall. -/
def State.reach (s : State) (c t : Nat) : State × Nat :=
  if t < s.lc + 4 then (s.faultS c 0x10B ((s.lc + 4 : Nat) - (t : Int)), s.lc + 4) else (s, t)

/-- The wait ends: the steps that follow stand at t, and heads are kept for the plays among them. -/
def State.resumeAt (s : State) (c t k : Nat) : State :=
  let r := s.reach c t
  let s := r.1.updCtx c (fun x => { x with waiting := .none, pos := r.2, placedAt := some r.2, pc := k })
  s.keepHeads c ((s.headList c k).filter (fun h => (s.ctx c).heads.contains h))

/-- The end of what is queued on a voice, for the policies of Table 6.9. -/
def Voice.busyEnd (v : Voice) : Nat := (v.cur.toList ++ v.queue).foldl (fun m a => max m (a.pos + a.dur)) 0

/-- Actions are cut at lane cycle t. -/
def Action.cutAt (t : Nat) (a : Action) : Action := if a.pos + a.dur ≤ t then a else { a with dur := t - a.pos }

/-- The voice plays nothing past lane cycle t: what lies beyond is discarded, what straddles it is cut, with no ramp. -/
def State.cutPast (s : State) (v t : Nat) : State :=
  let r := (s.voiceMode v).rate
  let s := (s.pastNco v).abandonTags (fun g => decide (g.voice = some v) && decide (t ≤ g.deadline + 40))
  s.updVoice v (fun x =>
    let q := (x.queue.filter (fun a => decide (a.pos < t))).map (Action.cutAt t)
    { x with
      cur := x.cur.map (Action.cutAt t), queue := q, hops := x.hops.filter (fun h => !h.onPlay && decide (h.at_ < r * t))
      st := if x.st = .fill && x.cur.isNone && q.isEmpty then .idle else x.st })

/-- The instance runs on voice v from lane cycle t. -/
def State.runInstance (s : State) (c v t : Nat) : State :=
  let s := s.resumeAt c t ((s.ctx c).pc + 1)
  s.updCtx c (fun x => { x with inst := x.inst + 1, tvoice := v })

/-- RESTART: the earlier instance on the voice is cut at the placement, and every marker edge it placed from there on goes, whichever
step carried it (R174). -/
def State.restartCut (s : State) (v t : Nat) : State :=
  let insts := ((s.voice v).cur.toList ++ (s.voice v).queue).map (fun a => a.inst)
  let c := o2n (s.voice v).owner
  (s.dropAllEdges (fun e => decide (e.ctx = c) && decide (32 * t ≤ e.at_) && insts.contains e.inst && (decide (e.inst ≠ 0) || decide (e.src = v)))).cutPast v t

/-- The voice that finishes first, the lowest-numbered of those that finish together. -/
def State.firstDone (s : State) : List Nat → Option Nat
  | [] => none
  | v :: vs => match s.firstDone vs with
    | none => some v
    | some u => if (s.voice v).busyEnd ≤ (s.voice u).busyEnd then some v else some u

/-- A trigger delivered in lane cycle a meets the policy; an overrun leaves the thread waiting (Table 6.9). -/
def State.trigger (s : State) (c n ch : Nat) (mask : BitVec 8) (a : Nat) : State :=
  let x := s.ctx c
  let vs := ((List.range 8).filter (fun k => mask.getLsbD k)).map (fun k => 8 * ch + k)
  let t := max (a + 4) (s.lc + 4)
  let free := vs.filter (fun v => decide ((s.voice v).busyEnd ≤ t))
  match x.policy, free, vs with
  | .restart, _, v :: _ => let s := s.runInstance c v (a + 4); if free.contains v then s else s.restartCut v t
  | .ignore, v :: _, _ | .queue1, v :: _, _ | .overlap, v :: _, _ => s.runInstance c v (a + 4)
  | .queue1, [], _ =>
    if (x.queuedTrig.map (fun q => decide (t < q.2))).getD false then s.overrunCon n
    else
      match s.firstDone vs with
      | none => s.overrunCon n
      | some v =>
        let e := (s.voice v).busyEnd
        (s.runInstance c v e).updCtx c (fun x => { x with queuedTrig := some (n, e) })
  | _, _, _ => s.overrunCon n

/-- The thread's event step looks at its consumer: an event that can be taken decides it (R166, R173). -/
def State.decideWait (s : State) (c : Nat) : State :=
  let x := s.ctx c
  if !s.engineRuns c then s else
  match x.waiting with
  | .evt p T _ n =>
    match (s.con n).pending with
    | some a => if T = 0 ∨ max (a + 4) p ≤ p + T then (s.takePending n).resumeAt c (max (a + 4) p) (x.pc + 1) else s
    | none => s
  | .branch p W k n =>
    match (s.con n).pending with
    | some a => if max (a + 4) p ≤ p + W then (s.takePending n).resumeAt c (max (a + 4) p) k else s
    | none => s
  | .trig n ch m =>
    match (s.con n).pending with
    | some a => (s.takePending n).trigger c n ch m a
    | none => s
  | _ => s

/-- The thread reaches an event step: CLEAR, its heads, and the event already pending. -/
def State.beginWait (s : State) (c : Nat) (w : List W32) (wt : Waiting) (heads : List Nat) : State :=
  let s := if sb w 0 26 then s.clearPending (sf w 0 16 10) else s
  let hs := heads.flatMap (fun k => s.headList c k)
  let s := s.keepHeads c hs
  let s := hs.eraseDups.foldl (fun s h => s.takeHead c h.1 h.2) s
  (s.updCtx c (fun x => { x with waiting := wt })).decideWait c

def doWaitEvt (c : Nat) (w : List W32) (s : State) : State :=
  s.beginWait c w (.evt (s.ctx c).pos (s48 w 1) (sb w 0 27) (sf w 0 16 10)) [(s.ctx c).pc + 1]

def execWaitEvt (c : Fin 1024) (s : State) : Ans := .next (issue 0x05 doWaitEvt c s)

def doTrig (c : Nat) (w : List W32) (s : State) : State :=
  let s := s.updCtx c (fun x => { x with triggered := true })
  s.beginWait c w (.trig (sf w 0 16 10) (sf w 1 0 5) (BitVec.ofNat 8 (sf w 1 8 8))) [(s.ctx c).pc + 1]

def execTrig (c : Fin 1024) (s : State) : Ans := .next (issue 0x06 doTrig c s)

def doBranchEvt (c : Nat) (w : List W32) (s : State) : State :=
  s.beginWait c w (.branch (s.ctx c).pos (s48 w 2) (sf w 1 0 16) (sf w 0 16 10)) [(s.ctx c).pc + 1, sf w 1 0 16]

def execBranchEvt (c : Fin 1024) (s : State) : Ans := .next (issue 0x08 doBranchEvt c s)

/-! ### Counters, branches, calls (R168 to R170) -/

def ctrOf (x : Ctx) (k : Nat) : W32 := x.ctrs.getD k 0

/-- COND of a BRANCH on counter value v. -/
def branchTaken (cond : Nat) (v imm : W32) : Bool :=
  match cond with
  | 0 => true
  | 1 => decide (v = 0)
  | 2 => decide (v ≠ 0)
  | 3 => decide (v.toNat < imm.toNat)
  | 4 => decide (imm.toNat ≤ v.toNat)
  | 5 => decide (v = imm)
  | _ => decide (v ≠ imm)

def doBranch (c : Nat) (w : List W32) (s : State) : State :=
  if branchTaken (sf w 0 8 4) (ctrOf (s.ctx c) (sf w 0 12 3)) (sw w 2) then s.goTo c (sf w 1 0 16) else s.next c

def execBranch (c : Fin 1024) (s : State) : Ans := .next (issue 0x07 doBranch c s)

/-- A counter step changes its counter, but for one that a CTR_SET wrote in the same lane cycle (R169). -/
def State.stepCtr (s : State) (c k : Nat) (v : W32) : State :=
  if decide ((s.ctx c).ctrLc = s.lc) && (s.ctx c).ctrHeld.contains k then s else s.setCtr c k v

def doLoop (c : Nat) (w : List W32) (s : State) : State :=
  let k := sf w 0 12 3
  let v := ctrOf (s.ctx c) k
  if v = 0 then s.next c else (s.stepCtr c k (v - 1)).goTo c (sf w 1 0 16)

def execLoop (c : Fin 1024) (s : State) : Ans := .next (issue 0x09 doLoop c s)

def doCtr (c : Nat) (w : List W32) (s : State) : State :=
  let k := sf w 0 12 3
  (s.stepCtr c k (if sf w 0 8 2 = 0 then sw w 2 else ctrOf (s.ctx c) k + sw w 2)).next c

def execCtr (c : Fin 1024) (s : State) : Ans := .next (issue 0x0A doCtr c s)

def doCall (c : Nat) (w : List W32) (s : State) : State :=
  if 8 ≤ (s.ctx c).stack.length then s.faultStop c 0x10C 0
  else s.updCtx c (fun x => { x with stack := (x.pc + 1) :: x.stack, pc := sf w 1 0 16 })

def execCall (c : Fin 1024) (s : State) : Ans := .next (issue 0x0B doCall c s)

def doReturn (c : Nat) (_ : List W32) (s : State) : State :=
  match (s.ctx c).stack with
  | [] => s.faultStop c 0x10C 0
  | k :: ks => s.updCtx c (fun x => { x with stack := ks, pc := k })

def execRet (c : Fin 1024) (s : State) : Ans := .next (issue 0x0C doReturn c s)

/-! ### JMPEN (R177) -/

/-- Changes of a slot stay in order of their lane cycles. -/
def insertChange (x : Nat × Bool × Bool) : List (Nat × Bool × Bool) → List (Nat × Bool × Bool)
  | [] => [x]
  | y :: ys => if x.1 < y.1 then x :: y :: ys else y :: insertChange x ys

def doJmpen (c : Nat) (w : List W32) (s : State) : State :=
  let t := (s.ctx c).pos
  (s.each [0, 1, 2, 3] (fun j s =>
    if sb w 0 (16 + j) then s.updJump c j (fun y => { y with changes := insertChange (t, true, sb w 0 (24 + j)) y.changes })
    else if sb w 0 (20 + j) then s.updJump c j (fun y => { y with changes := insertChange (t, false, false) y.changes })
    else s)).next c

def execJmpen (c : Fin 1024) (s : State) : Ans := .next (issue 0x0D doJmpen c s)

/-! ### END (R171) -/

def doEnd (c : Nat) (_ : List W32) (s : State) : State := s.updCtx c (fun x => { x with waiting := .ended x.pos })

def execEndStep (c : Fin 1024) (s : State) : Ans := .next (issue 0x0E doEnd c s)

end Sys2Proof.Machine
end

