-- ==== Sys2Proof/Machine/EngineEv.lean ====
section
/-! DEFINITION. What happens to threads and engines besides the steps: events delivered, waits that end, fox jumps, starts, watchdogs,
migration to a cub, and the transitions of the markers (spec/05_contexts_engines.md R140 to R145, spec/06_sequence_programs.md R161 to
R184, spec/07_voices_channel_datapath.md R220 to R224, spec/13_event_fabric.md R362 to R367). -/
namespace Sys2Proof.Machine

/-! ### END (R171) -/

/-- Every action queued on the context's voices has finished. -/
def State.voicesDone (s : State) (c : Nat) : Bool :=
  !Tbl.anyEntry (fun _ v => decide (v.owner = some c) && (decide (v.st ≠ .idle) || v.cur.isSome || !v.queue.isEmpty)) s.voices

/-- The timeline reaches the END step: the context passes through STOPPING to ARMED. -/
def execEndReached (c : Fin 1024) (s : State) : Ans :=
  let x := s.ctx c
  match x.waiting with
  | .ended p =>
    if x.st = .running ∧ x.preRun = false ∧ s.voicesDone c = true then
      let s := (s.advanceTo p).stopCtx c
      .next (if s.stopDone c then s.updCtx c (fun x => { x with st := .armed }) else s)
    else .next s
  | _ => .next s

/-! ### Event steps that end without an event (R166) -/

/-- Without an event by then, a step is known to end 4 LC before the position at which it ends; one that stops the context stops it there. -/
def execEventStepTimeout (c : Fin 1024) (s : State) : Ans :=
  let x := s.ctx c
  if !s.engineRuns c then .next s else
  match x.waiting with
  | .evt p T stop _ =>
    if T = 0 then .next s
    else
      .next (if stop then (s.advanceTo (p + T)).faultStop c 0x10A 0 else (s.advanceTo (p + T - 4)).resumeAt c (p + T) (x.pc + 1))
  | .branch p W _ _ => .next ((s.advanceTo (p + W - 4)).resumeAt c (p + W) (x.pc + 1))
  | _ => .next s

/-! ### Delivery (R362 to R367) -/

/-- An event delivered to general consumer n in lane cycle a: discarded, an overrun, or pending. -/
def State.deliverCon (s : State) (n a : Nat) : State :=
  match (s.con n).owner with
  | none => s
  | some c =>
    let x := s.ctx c
    if x.st ≠ .running ∨ (x.preRun = true ∧ a + 4 < x.startS) then
      s.updCon n (fun k => { k with discards := sat 65535 (k.discards + 1) })
    else if (s.con n).pending.isSome then s.overrunCon n
    else (s.updCon n (fun k => { k with pending := some a })).decideWait c

/-- An event delivered to a consumer of any kind; a jump slot has taken its own over the DIRECT path. -/
def State.deliver (s : State) (code a : Nat) : State :=
  if code < 0x400 then s.deliverCon code a
  else if code < 0x410 then s.eoEvent (code - 0x400) a
  else if code < 0x504 then s.strobe (code - 0x500) (s.boundaryFrom (a + 4) 8)
  else s

/-- A logic-cell input (4 × cell + input) takes the event in its lane cycle of delivery. -/
def State.deliverCell (s : State) (p a : Nat) : State :=
  s.updCell (p / 4) (fun c => { c.upTo a with seen := (c.upTo a).seen ||| (1#4 <<< (p % 4)) })

def execEventDelivery (ch : Fin 256) (s : State) : Ans :=
  match s.regs.find? (fun r => decide (r.ch = ch.val)) with
  | none => .next s
  | some r =>
    let a := r.u + 2
    let s := ({ s with regs := s.regs.erase r } : State).advanceTo a
    let e := s.ev ch
    let s := (r.snap.getD e.cons).foldl (fun s k => s.deliver k a) s
    let s := e.cells.foldl (fun s p => s.deliverCell p a) s
    .next (s.feedChannel ch (r.stamp.getD (65536 * a)))

/-! ### The fox jump (R144, R178, R220 to R224) -/

/-- Jump position: 6 LC after boundary b; later when a cub had to finish a migration or its pinned steps first (R144). -/
def State.jumpPos (s : State) (c b : Nat) : Nat := if s.onCub (s.ctx c) ∧ b + 3 < s.lc then s.lc + 3 else b + 6

/-- Every voice of the context is cut at lane cycle t and every edge it has queued beyond goes; markers keep their level. -/
def State.cutAll (s : State) (c t : Nat) : State :=
  (s.each (s.voicesOf c) (fun v s => s.cutPast v t)).dropAllEdges (fun e => decide (e.ctx = c) && decide (32 * t ≤ e.at_))

/-- The thread abandons its step and its wait, its call stack and triggered mode, and any queued trigger. -/
def State.leaveStep (s : State) (c : Nat) : State :=
  ((s.dropTrig c).updCtx c (fun x => { x with waiting := .none, fetching := false, stack := [], triggered := false })).keepHeads c []

/-- The slot's material starts at lane cycle t with jump term d, and the thread goes on behind it: of a DRAM segment the copy serves the
head of each repetition, and the rest is fetched (R178, R291). -/
def State.enterSlot (s : State) (c j t : Nat) (d : Int) : State :=
  let k := ((s.ctx c).jump j).entry
  let w := (s.ctx c).step k
  let s := s.goTo c k
  let p := playAction s c w t (some d)
  let a : Action := match ((s.ctx c).jump j).copy with
    | some x => { p with bank := some x.1, bankOff := x.2, copyUnits := (s.seg p.seg).copyUnits }
    | none => p
  (s.queueAction c w a).updCtx c (fun x => { x with pc := k + 1, pos := t + a.dur, placedAt := some t, spin := 0, stalls := 0, onCubStall := none })

def State.foxJump (s : State) (c j b frac : Nat) : State :=
  let x := (s.ctx c).jump j
  let t := s.jumpPos c b
  let d : Int := if x.aligned then 65536 - frac else 0
  let s := ((s.cutAll c t).leaveStep c).enterSlot c j t d
  let s := s.each [0, 1, 2, 3] (fun k s => s.updJump c k (fun y => { y with changes := y.changes.filter (fun e => decide (e.1 ≤ t)) }))
  let s := if t = b + 6 then s else s.faultS c 0x10E ((t : Int) - b + 30)
  let s := s.fireSrc (srcIs 3 (c + 2048)) t
  if (s.ctx c).stopAfter then s.stopCtx c else s

/-- The jump is made with the stamp of the edge that was taken (R221): of another edge than the one the slot holds nothing comes. -/
def execFoxJump (c : Fin 1024) (slot : Fin 4) (frac : Nat) (s : State) : Ans :=
  let x := s.ctx c
  let j := x.jump slot
  match j.hit with
  | none => .next s
  | some (b, f) =>
    let w := x.step j.entry
    if f ≠ frac then .next s
    else if x.st ≠ .running ∨ j.st ≠ 2 then .next (s.updJump c slot (fun y => { y with hit := none }))
    else if !s.engineRuns c || (s.onCub x && !x.cache.contains j.entry) then .next s
    else
      let s := (s.advanceTo b).updJump c slot (fun y => { y with hit := none, lastAt := some b })
      if !s.holds c 1 (sf w 0 8 8) || !s.segLive (sw w 1) || ((sb w 5 0 || sb w 6 0) && !s.holds c 0 (sf w 0 8 8 / 8)) then .next ((s.goTo c j.entry).faultStop c 0x102 0)
      else .next (s.foxJump c slot b frac)

/-! ### Starts (R182) -/

/-- The lane cycle of the earliest timed start that holds context c. -/
def State.nextStart (s : State) (c : Nat) : Option Nat :=
  let hits := s.sched.filter (fun t =>
    (decide (t.run.op = .prgStart) && decide (t.run.p.ctx.val = c)) ||
    (decide (t.run.op = .scnStartAt) && ((s.scene (scnOf t.run.p)).members.any (fun m => decide (m.1 = c) && decide (m.2 = (s.ctx c).gen)))))
  hits.foldl (fun b t => match b with | none => some (s.lcAt t.act) | some l => some (min l (s.lcAt t.act))) none

/-- The thread begins issuing 8,192 LC before its start instant, or at the start's acceptance. -/
def execPreRunStart (c : Fin 1024) (s : State) : Ans :=
  match s.nextStart c with
  | some l => if (s.ctx c).st = .armed then .next ((s.advanceTo (l - 8192)).beginPreRun c l) else .next s
  | none => .next s

/-- The start instant: timeline position 0. A timed start takes effect first. DESIGN CHOICE, log entry 39: a scene's members are not checked
again at S: where one was reset or stopped in its pre-run the others start and the start completes OK with the first of them, and where
every member is lost it stays in execution until it is aborted or times out. -/
def execStartInstant (c : Fin 1024) (s : State) : Ans :=
  let x := s.ctx c
  if x.st = .running ∧ x.preRun = true ∧ s.nextStart c ≠ some x.startS then
    let s := (s.advanceTo x.startS).updCtx c (fun x => { x with preRun := false })
    let s := s.each (Tbl.keysWhere (fun _ p => decide (p.owner = some c.val)) s.pchs) (fun n s => s.updPch n (fun p => { p with ticksOff := false }))
    let s := s.fireSrc (srcIs 3 c) x.startS
    let mine := fun (k : JobKind) => match k with
      | .start d => decide (d = c.val)
      | .sceneStart n => (s.members n).contains c.val
      | _ => false
    let js := s.jobs.filter (fun j => mine j.kind)
    .next (js.foldl (fun s j => s.completeAt j.run .ok 0 (s.tbAt x.startS)) (s.dropJobs (fun j => mine j.kind)))
  else .next s

/-! ### Watchdogs and migration (R140 to R145) -/

def execStepSpin (c : Fin 1024) (s : State) : Ans :=
  if (s.ctx c).st = .running ∧ 65536 ≤ (s.ctx c).spin then .next (s.faultStop c 0x104 0) else .next s

def State.ctxsOn (s : State) (e : Nat) : List Nat := Tbl.keysWhere (fun _ x => decide (x.engine = some e)) s.ctxs

/-- Detail form E. -/
def detE (e k : Nat) : List W32 := [word e, word k]

/-- A record for each context of an engine; one for function PF0 where it holds none. -/
def State.tellEngine (s : State) (e k code rung : Nat) (on : Raise) : State :=
  match s.ctxsOn e with
  | [] => s.fault code rung .p none e (detE e k)
  | cs => cs.foldl (fun s c => s.fault code rung on (some c) e (detE e k)) s

/-- The log index of a context's latest record of a code. -/
def State.lastRec (s : State) (c : Nat) (code : BitVec 12) : Nat :=
  (s.log.recs.foldl (fun b r =>
    if decide (r.2.code = code) && decide (r.2.ctx = c) && !r.2.noCtx && (b.2 = 0 || decide (b.2 ≤ r.2.seq.toNat + 1)) then (r.1, r.2.seq.toNat + 1) else b) (0, 0)).1

/-- No cub is free: the engine is retired, with the cub that stood in for it, and each of its contexts is reset. -/
def State.retireEngine (s : State) (e : Nat) : State :=
  let s := if (s.eng e).st = 1 then s.updEng (256 + (s.eng e).partner) (fun x => { x with st := 2 }) else s
  let s := s.updEng e (fun x => { x with st := 2, migrating := none })
  let s : State := { s with log := { s.log with mramEngines := insertNat e s.log.mramEngines } }
  let s := s.tellEngine e 0 0x107 5 .cAndP
  (s.ctxsOn e).foldl (fun s c => s.deviceReset c 0x107 (s.lastRec c 0x107)) s

/-- The engine is given the lowest-numbered free cub and stops issuing; without one it is retired. -/
def State.migrate (s : State) (e : Nat) : State :=
  match s.spareCub with
  | none => s.retireEngine e
  | some k =>
    let s := (s.updEng e (fun x => { x with migrating := some (k, s.lc) })).updEng k (fun x => { x with migrating := some (e, s.lc) })
    (s.ctxsOn e).foldl (fun s c => s.updCtx c (fun x => { x with fetching := false })) s

/-- The ladder of R141: issued again, reloaded, migrated; a second time on the cub resets the context. -/
def execStepStall (c : Fin 1024) (s : State) : Ans :=
  let x := s.ctx c
  match x.engine with
  | none => .next s
  | some e =>
    if x.st ≠ .running ∨ x.waiting ≠ .none ∨ !s.engineRuns c then .next s else
    let s := s.updEng (s.execUnit e) (fun y => { y with stalls := sat 65535 (y.stalls + 1) })
    let told := fun (rung : Nat) => (s.fault 0x103 rung .c (some c.val) e (detS x.pc 0 ((x.pos : Int) - x.startS))).updCtx c (fun x => { x with stalls := x.stalls + 1, fetching := false })
    .next (if x.onCubStall = some x.pc then s.deviceReset c 0x103 (s.lastRec c 0x103)
      else if x.stalls < 2 then told (x.stalls + 1)
      else (s.updCtx c (fun x => { x with stalls := 0, onCubStall := some x.pc })).migrate e)

/-- A self-check error in the unit that executes engine e's threads. -/
def execEngineSelfCheckError (e : Fin 256) (s : State) : Ans :=
  if (s.eng e).st = 2 ∨ (s.eng e).migrating.isSome then .next s else .next (s.migrate e)

/-- The cub refetches a thread's step cache, one request for each unit of eight steps, the pinned ones first (Table 5.7). -/
def State.refetch (s : State) (c : Nat) : State :=
  let ks := ((s.ctx c).pinned ++ (s.ctx c).cache).foldl (fun l k => if l.any (fun j => decide (j / 8 = k / 8)) then l else l ++ [k]) []
  ks.foldl (fun s k => s.requestStep c k) (s.updCtx c (fun x => { x with cache := [] }))

/-- The cub starts issuing, its step cache refetched. A cub that was left is retired. -/
def execMigrationComplete (e : Fin 256) (s : State) : Ans :=
  match (s.eng e).migrating with
  | none => .next s
  | some (k, t) =>
    let s := s.advanceTo (t + 40)
    let s := if (s.eng e).st = 1 then s.updEng (256 + (s.eng e).partner) (fun x => { x with st := 2 }) else s
    let s := (s.updEng e (fun x => { x with st := 1, partner := k - 256, migrating := none })).updEng k (fun x => { x with st := 1, partner := e, migrating := none })
    let s : State := { s with log := { s.log with mramEngines := insertNat e s.log.mramEngines } }
    let s := (s.ctxsOn e).foldl (fun s c => (s.refetch c).decideWait c) s
    .next (s.tellEngine e k 0x105 3 .c)

/-! ### Markers (R161 to R165, Table 13.1, Table 14.2) -/

/-- The instant, in 2^-16 LC, at which the transition of sample n leaves J4: 24 LC + 0.90 ns and the skew later. -/
def State.markTime (s : State) (m n : Nat) : Nat :=
  ((2048 * n + 65536 * 24 + 94372 : Nat) + (Tbl.get 0 s.cal.mkskew m).toInt).toNat

/-- The marker goes to a level at sample n: a change is a transition. -/
def State.setMarker (s : State) (m n : Nat) (v : Bool) : State :=
  let old := (s.marker m).level
  let s := s.updMarker m (fun k => { k with level := v })
  if old = v then s
  else
    let up := if v then 0 else 1
    let s := s.fireSrc (fun x => srcIs 4 (m + 64 * up) x || srcIs 4 (m + 128) x) (n / 32)
    s.feedAll (0x20 + m) (s.markTime m n)

/-- The next toggle of a divider: half a period after a boundary, or the next boundary. -/
def State.nextToggle (s : State) (k : Marker) : Nat :=
  let r := k.toggled
  let start := s.divAt + k.period * ((r - s.divAt) / max k.period 1)
  if k.level then start + k.period / 2 else s.boundaryFrom (r + 1) k.period

/-- MARKER_CLASH to the context of an edge. -/
def State.clash (s : State) (e : Edge) : State :=
  s.fault 0x10D 0 .c (some e.ctx) (o2n (s.ctx e.ctx).engine) (detS e.num 0 ((e.step : Int) - (s.ctx e.ctx).startS))

/-- The earliest edge: dropped where its channel does not run, a clash on a divided marker or within 16 samples of the edge before,
which moves it, else applied. -/
def State.nextEdge (s : State) (m : Nat) (e : Edge) (es : List Edge) : State :=
  let s := (s.advanceTo (e.at_ / 32)).updMarker m (fun k => { k with edges := es })
  let k := s.marker m
  if (s.fch (m / 2)).st ≠ .running then s
  else if k.divider then s.clash e
  else
    let near := match k.last with
      | some l => decide (e.at_ < l + 16) && !(decide (e.at_ = l) && decide (e.level = k.level) && !e.moved)
      | none => false
    if near then
      let s := if e.moved then s else s.clash e
      s.updMarker m (fun k => { k with edges := insertEdge { e with at_ := max (o2n k.last + 16) (32 * s.lc), moved := true } k.edges })
    else (s.updMarker m (fun k => { k with last := some e.at_ })).setMarker m e.at_ e.level

/-- A mode change at its boundary: DIV_ON begins a period at logic 1, DIV_OFF returns to EDGE mode at logic 0. -/
def State.nextMode (s : State) (m l period : Nat) (ms : List (Nat × Nat)) : State :=
  let s := (s.advanceTo l).updMarker m (fun k => { k with modeAt := ms })
  if (s.fch (m / 2)).st ≠ .running ∧ (s.fch (m / 2)).st ≠ .stopping then s
  else (s.updMarker m (fun k => { k with divider := decide (period ≠ 0), period := period, toggled := l })).setMarker m (32 * l) (decide (period ≠ 0))

/-- A divider's toggle at lane cycle t. -/
def State.toggleMarker (s : State) (m t : Nat) : State :=
  let s := s.advanceTo t
  (s.updMarker m (fun k => { k with toggled := t })).setMarker m (32 * t) (!(s.marker m).level)

/-- The marker's next event: a mode change, an edge or a toggle, whichever comes first. A divider toggles until its channel has muted
(R38, R165). -/
def execMarkerTransition (m : Fin 64) (s : State) : Ans :=
  let k := s.marker m
  let live := (s.fch (m.val / 2)).converts
  let tog := if k.divider && live then some (s.nextToggle k) else none
  let before := fun (n : Nat) => match tog with | some t => decide (n ≤ 32 * t) | none => true
  let toggle := match tog with | some t => s.toggleMarker m t | none => s
  .next (match k.modeAt, k.edges with
    | (l, p) :: ms, e :: es =>
      if 32 * l ≤ e.at_ then (if before (32 * l) then s.nextMode m l p ms else toggle)
      else if before e.at_ then s.nextEdge m e es else toggle
    | (l, p) :: ms, [] => if before (32 * l) then s.nextMode m l p ms else toggle
    | [], e :: es => if before e.at_ then s.nextEdge m e es else toggle
    | [], [] => toggle)

end Sys2Proof.Machine
end

