-- ==== Sys2Proof/Machine/MemoryEv.lean ====
section
/-! DEFINITION. The squirrel's fetches and the memory controllers: tags, pages, refresh, row counters, ECC, freezes, row retirement,
recovery, maintenance, and MEM_DIAG (spec/10_waveform_memory_fetch.md R284 to R297, spec/11_dram_controller_integrity.md). -/
namespace Sys2Proof.Machine

def execMirrorRepair (dpa : BitVec 35) (s : State) : Ans :=
  let d := dpa.toNat / 32 * 32
  if s.mem.repair.contains d then .next (s.repairWord d) else .next s

/-! ### Pages, refresh and row counters (R309 to R313, R317 to R320) -/

/-- A refresh closes its bank's row. -/
def DBank.refresh (b : DBank) : DBank := { b with open_ := none }

/-- A native URGENT read, or a STREAM read at urgency U2 or above, waits for the DRAM bank (R313). -/
def State.urgentFor (s : State) (k b : Nat) : Bool :=
  Tbl.anyEntry (fun _ t => t.held && !t.landed && !t.abandoned && decide (pcOf (t.dpa / 256) = k) && decide (dbankOf (unitOf (t.dpa / 256)) = b) &&
    (decide (t.port < 2) || (decide (t.port = 2) && decide (2 ≤ urgency t.port t.deadline s.lc)))) s.sql.tags

/-- A per-bank refresh falls due: postponed while such a read waits, at most 8 times. -/
def execPerBankRefresh (pc : Fin 64) (b : Fin 32) (s : State) : Ans :=
  let s := s.updMem (fun m => { m with refreshAb := false })
  .next (s.updDBank pc b (fun k =>
    if s.urgentFor pc b then (if k.postponed < 8 then { k with postponed := k.postponed + 1 } else k.refresh)
    else { k.refresh with postponed := 0 }))

def execAllBankRefresh (pc : Fin 64) (s : State) : Ans :=
  if s.anyArmed then .next s
  else
    let s := s.updMem (fun m => { m with refreshAb := true })
    .next (s.updPc pc (fun p => { p with banks := Tbl.mapVals {} (fun _ k => { k.refresh with postponed := 0 }) p.banks }))

/-- 64 MEM cycles, 128 LC, without an access. -/
def execRowIdleClose (pc : Fin 64) (b : Fin 32) (s : State) : Ans :=
  let k := (s.pc pc).dbank b
  if k.open_.isSome then .next ((s.advanceTo (k.lastUse + 128)).updDBank pc b (fun k => { k with open_ := none })) else .next s

/-- The stacks' temperatures set the refresh rate and are sensors 7 and 8. -/
def execStackTempRead (t0 t1 : BitVec 8) (s : State) : Ans :=
  let s := s.updMem (fun m => { m with temp0 := t0, temp1 := t1 })
  .next ((s.readSensor 7 (BitVec.ofNat 16 (256 * t0.toNat))).readSensor 8 (BitVec.ofNat 16 (256 * t1.toNat)))

/-- A refresh window of 32 ms ends: counters clear, and throttles of rows left alone for a whole window lift. -/
def execRowCounterWindow (pc : Fin 64) (b : Fin 32) (s : State) : Ans :=
  let s := s.updDBank pc b (fun k => { k with rows := [] })
  .next (s.updPc pc (fun p => { p with throttles := (p.throttles.filter (fun t => !(decide (t.bank = b.val) && t.quiet))).map (fun t =>
    if t.bank = b.val then { t with quiet := true } else t) }))

/-- A row counter has reached 4,096: its neighbours are refreshed and its requester is throttled. -/
def execNeighbourRefresh (pc : Fin 64) (b : Fin 32) (row : BitVec 14) (s : State) : Ans :=
  match ((s.pc pc).dbank b).rows.find? (fun e => decide (e.row = row.toNat) && decide (4096 ≤ e.count)) with
  | none => .next s
  | some e =>
    let s := s.updDBank pc b (fun k => { k.refresh with
      rows := k.rows.map (fun x => if x.row = e.row then { x with count := 0 } else x), postponed := min 8 (k.postponed + 1) })
    let s := s.updPc pc (fun p => { p with neighbour := sat 65535 (p.neighbour + 1) })
    if (s.pc pc).throttles.any (fun t => decide (t.req = e.req) && decide (t.bank = b.val) && decide (t.row = row.toNat)) then .next s
    else
      let s := s.updPc pc (fun p => { p with
        throttles := p.throttles ++ [{ req := e.req, bank := b, row := row.toNat, last := s.lc }], throttleCount := sat 255 (p.throttleCount + 1) })
      let seg := match e.req.seg with | some k => segValue s k | none => 0
      let d := [0, pack [(3, b.val), (8, row.toNat)], word seg, 0, 0, pack [(0, o2n e.req.voice), (8, b2n e.req.voice.isSome)]]
      .next (if e.req.port ≤ 4 then s.fault 0x603 0 .c (some e.req.ctx) pc d else s)

/-- The hedgehog acts on the request: it is served at BULK class and takes no promotion (R319). -/
def State.slowed (s : State) (r : Req) : Bool :=
  (s.pc (pcOf (r.dpa / 256))).throttles.any (fun t => decide (t.req = r.asTag.asker) && decide (t.bank = dbankOf (unitOf (r.dpa / 256))))

/-- The hedgehog holds a request back: its requester was served on the DRAM bank less than 8 µs ago (R319). -/
def State.throttled (s : State) (r : Req) : Bool :=
  (s.pc (pcOf (r.dpa / 256))).throttles.any (fun t =>
    decide (t.req = r.asTag.asker) && decide (t.bank = dbankOf (unitOf (r.dpa / 256))) && decide (s.lc < t.last + 12800))

/-! ### STREAM and BULK fetches (R289, R290, R292, R297) -/

/-- The next unit of a voice as a request. -/
def State.voiceReq (s : State) (v port : Nat) : Option Req :=
  (s.nextUnit v).map (fun x =>
    let a := x.1
    let g := s.seg a.seg
    { port := port, ctx := o2n (s.voice v).owner, gen := (s.ctx (o2n (s.voice v).owner)).gen, voice := some v, seg := a.seg, segGen := a.segGen
      dpa := g.fetchDpa (x.2.1 % max g.units 1), deadline := x.2.2, first := g.unitSample x.2.1, unit := x.2.1, pos := a.pos })

/-- A voice has requested unit j of the action at p. -/
def Voice.fetchedOne (x : Voice) (p j : Nat) : Voice :=
  let f := fun (a : Action) => if a.pos = p then { a with fetched := j + 1 } else a
  { x with cur := x.cur.map f, queue := x.queue.map f }

/-- The same unit of the same head. -/
def Req.sameUnit (x r : Req) : Bool :=
  decide (x.ctx = r.ctx) && decide (x.gen = r.gen) && decide (x.seg = r.seg) && decide (x.segGen = r.segGen) && decide (x.unit = r.unit)

def State.tookUnit (s : State) (r : Req) : State :=
  match r.bulk, r.voice with
  | some id, _ => s.updBulk id (fun b => b.took s.lc)
  | none, some v => s.updVoice v (fun x => x.fetchedOne r.pos r.unit)
  | none, none => s.updSql (fun q => { q with stream := q.stream.filter (fun x => !x.sameUnit r) })

/-- The next unit of a BULK read as a request, unless it waits for a pseudo-channel (R330). Its deadline is four targets from when it came
to wait (R293). -/
def State.bulkReq (s : State) (b : Bulk) : Option Req :=
  let g := s.seg b.seg
  match b.unit? with
  | some u =>
    if s.bulkLive b.id && !s.unitWaits g u then
      some { port := b.port, ctx := b.ctx, gen := b.gen, seg := b.seg, segGen := b.segGen, dpa := g.fetchDpa u, deadline := b.since + 4 * portTarget b.port
             first := g.unitSample u, unit := u, bulk := some b.id }
    else none
  | none => none

/-- BULK requests, while ports 3 and 4 hold fewer than 1,024 tags. -/
def State.bulkReqs (s : State) : List Req :=
  if tagCount s (fun _ t => decide (t.port = 3) || decide (t.port = 4)) < 1024 then s.sql.bulk.filterMap s.bulkReq else []

/-- STREAM requests within 64 µs of their deadlines. -/
def State.streamReqs (s : State) : List Req :=
  let vs := (Tbl.keysWhere (fun _ v => !v.catchup && (v.cur.isSome || !v.queue.isEmpty)) s.voices).filterMap (fun v => s.voiceReq v 2)
  (vs ++ s.sql.stream.map (fun (r : Req) => { r with deadline := s.lc + 6400 })).filter (fun r => decide (r.deadline ≤ s.lc + 102400))

/-- The waiting request with the earliest deadline, STREAM and BULK alike. -/
def State.nextStream (s : State) : Option Req :=
  ((s.streamReqs ++ s.bulkReqs).filter (fun r => !s.throttled r)).foldl
    (fun b r => match b with | none => some r | some x => if r.deadline < x.deadline then some r else some x) none

/-- The smallest lead of a DRAM voice is recorded. -/
def State.noteLead (s : State) (v : Option Nat) : State :=
  match v with
  | some v => s.updSql (fun q => { q with minLead := min q.minLead (s.voiceLead v) })
  | none => s

/-- The eight steps of a unit enter the cache; the thread that waited goes on. -/
def State.landSteps (s : State) (t : Tag) : State :=
  if (s.ctx t.ctx).gen = t.gen then
    s.updCtx t.ctx (fun x =>
      let x := x.cacheIn ((List.range 8).map (fun i => t.first / 8 * 8 + i))
      { x with fetching := x.fetching && !x.cache.contains x.pc })
  else s

/-- A unit of a FAILED pseudo-channel with no other copy reads as poisoned (R337): eight steps as zeros, a unit of a copy as zeros, a
voice's as poisoned words. -/
def State.readFailed (s : State) (r : Req) (tag : Nat) (native : Bool) : State :=
  if r.asTag.isStep then s.landSteps r.asTag
  else match s.sql.bulk.find? (fun b => decide (r.bulk = some b.id)) with
    | some b => s.moveUnit b r.unit
    | none =>
      let s := s.grantTag tag r native
      s.updSql (fun q => { q with tags := Tbl.set {} q.tags tag { Tbl.get {} q.tags tag with landed := true, landedAt := s.lc, bad := List.range 8 } })

/-- A unit that no copy can serve is answered as unavailable and holds no tag (R330), or as poisoned (R337). -/
def State.issueAs (s : State) (r : Req) (tag : Nat) (native : Bool) : State :=
  match s.copyFor r.dpa with
  | none => if (s.pc (pcOf (r.dpa / 256))).phase = .failed then s.readFailed r tag native else s
  | some d => (s.drainUnit d).grantTag tag { r with dpa := d } native

/-- At most four STREAM fetches issue in a lane cycle: a fifth issues in the next. -/
def State.issueTurn (s : State) (r : Req) : State :=
  if r.bulk.isSome then s else
  let s := if s.sql.issueLc = s.lc + 1 ∧ 4 ≤ s.sql.issues then s.advanceTo (s.lc + 1) else s
  s.updSql (fun q => { q with issueLc := s.lc + 1, issues := if q.issueLc = s.lc + 1 then q.issues + 1 else 1 })

/-- An URGENT fetch waits for a tag: the next one freed is its, ahead of every other port (R297). -/
def State.urgentFirst (s : State) : Bool := s.sql.urgent.any (fun r => r.waited && decide ((s.pickTag 0 128).isNone))

/-- A request takes a general tag, or waits for one. -/
def State.streamIssue (s : State) : State :=
  match s.nextStream with
  | none => s
  | some r =>
    match (if s.urgentFirst then none else s.generalTag) with
    | none => s.updSql (fun q => { q with streamWaits := q.streamWaits + 1 })
    | some t => (((s.noteLead r.voice).tookUnit r).issueTurn r).issueAs r t false

/-- Tags read for the last time are free before the next request is considered (R285). -/
def execStreamFetchIssue (s : State) : Ans := .next s.swept.streamIssue

/-! ### URGENT fetches (R291, R296) -/

/-- Native URGENT fetches in service on a pseudo-channel. -/
def State.nativeOn (s : State) (k : Nat) : Nat :=
  tagCount s (fun _ t => t.native && !t.landed && !t.abandoned && decide (pcOf (t.dpa / 256) = k))

/-- A voice in catch-up has a fetch on the pseudo-channel. -/
def State.voiceOn (s : State) (v k : Nat) : Bool :=
  Tbl.anyEntry (fun _ t => t.held && t.native && !t.landed && decide (t.voice = some v) && decide (pcOf (t.dpa / 256) = k)) s.sql.tags

/-- What waits for URGENT service: the requests in the squirrel in their order, then the next units of the voices in catch-up, one on
each pseudo-channel. -/
def State.urgentReqs (s : State) : List Req :=
  s.sql.urgent ++ ((Tbl.keysWhere (fun _ v => v.catchup) s.voices).filterMap (fun v => s.voiceReq v 0)).filter
    (fun r => !s.voiceOn (o2n r.voice) (pcOf (r.dpa / 256)))

def State.admits (s : State) (r : Req) : Bool :=
  let d := (s.copyFor r.dpa).getD r.dpa
  decide (s.nativeOn (pcOf (d / 256)) < 4) && !s.throttled r

/-- A request that cannot be admitted, or finds no tag, is counted as waiting once. -/
def State.noteWait (s : State) (r : Req) : State :=
  if r.waited then s
  else s.updSql (fun q => { q with
    urgentWaits := sat 65535 (q.urgentWaits + 1), urgent := q.urgent.map (fun x => if x = r then { x with waited := true } else x) })

def State.tookUrgent (s : State) (r : Req) : State :=
  if s.sql.urgent.contains r then s.updSql (fun q => { q with urgent := q.urgent.erase r }) else s.tookUnit r

def execUrgentFetchIssue (s : State) : Ans :=
  let s := s.swept
  let rs := s.urgentReqs
  let s := (rs.takeWhile (fun r => !s.admits r)).foldl (fun s r => s.noteWait r) s
  match s.urgentReqs.find? (fun r => s.admits r) with
  | none => .next s
  | some r =>
    match s.urgentTag with
    | none => .next (s.noteWait r)
    | some t => .next (((s.noteLead r.voice).tookUrgent r).issueAs r t true)

/-- A queued write past its class's age limit is promoted once. -/
def promoteWrite (k a : Nat) (s : State) : State :=
  match (s.pc k).wq.find? (fun x => decide (x.unit = a) && !x.promoted) with
  | none => s
  | some x =>
    let s := s.advanceTo (x.since + if x.port = 6 then 320000 else 32000)
    (s.updPc k (fun p => { p with wq := p.wq.map (fun y => if y.unit = a then { y with promoted := true } else y) })).updSql (fun q => { q with
      bgToBulk := if x.port = 6 then q.bgToBulk + 1 else q.bgToBulk, bulkToStream := if x.port = 6 then q.bulkToStream else q.bulkToStream + 1 })

/-- A read past its class's age limit is promoted once; an URGENT one is marked overdue. -/
def promoteRead (tag : Nat) (s : State) : State :=
  let t := Tbl.get {} s.sql.tags tag
  if !t.held || t.landed || t.abandoned || t.promoted || s.slowed { dpa := t.dpa, port := t.port, ctx := t.ctx, gen := t.gen, voice := t.voice, seg := t.seg, segGen := t.segGen } then s
  else
    let s := s.advanceTo (t.issued + (if t.port < 2 then 320 else if t.port = 2 then 3200 else 32000))
    s.updSql (fun q => { q with
      tags := Tbl.set {} q.tags tag { t with promoted := true }
      overdue := if t.port < 2 then sat 65535 (q.overdue + 1) else q.overdue
      streamToUrgent := if t.port = 2 then q.streamToUrgent + 1 else q.streamToUrgent
      bulkToStream := if t.port = 3 ∨ t.port = 4 then q.bulkToStream + 1 else q.bulkToStream })

/-- The promotions of R294. -/
def execRequestPromotion (r : ReqRef) (s : State) : Ans :=
  .next (match r with | .read tag => promoteRead tag.toNat s | .write pc unit => promoteWrite pc unit.toNat s)

/-! ### The capture and the freeze (R329 to R332, Table 11.3) -/

/-- The state captured at an error: the bytes as read are not the spec's to say. -/
def State.capture (s : State) (d : Nat) (r : Asker) (syndrome : W32) (severity : BitVec 2) (check : W32) : State :=
  let k := pcOf (d / 256)
  let a := unitOf (d / 256)
  (s.updPc k (fun p => { p with capture := some {
    phase := p.phase, mirrored := s.mirroredAt d, bank := dbankOf a, port := r.port, ctx := if r.port < 5 then r.ctx else 0
    row := rowOf a, col := colOf a, word := d % 256 / 32, severity := severity, temp := if k < 32 then s.mem.temp0 else s.mem.temp1
    dpa := d / 32 * 32, time := s.tb, syndrome := syndrome, data := s.freeBytes 32, check := check, rd := p.rd, wr := p.wr } })).bumpBy 32

/-- An uncorrectable word in service freezes its pseudo-channel, unless its partner is out (R325, R329). -/
def State.freezePc (s : State) (d : Nat) : State :=
  let k := pcOf (d / 256)
  let s := s.updPc k (fun p => { p with frozen := some s.lc, outAt := s.lc, captureRead := false, freezes := sat 255 (p.freezes + 1) })
  let s := s.fault 0x606 3 .p none k (s.wordDet d 0 0)
  if s.mirroredAt d then s else s.poisonFound d

/-- An uncorrectable word returned to a read on ports 0 to 4. -/
def State.badWord (s : State) (d : Nat) (r : Asker) (syndrome : W32) (severity : BitVec 2) (check : W32) : State :=
  let k := pcOf (d / 256)
  let s := (s.capture d r syndrome severity check).updPc k (fun p => { p with uncorrectable := sat 255 (p.uncorrectable + 1) })
  if (s.pc k).phase = .service ∧ (s.pc k).frozen = none ∧ (s.pc (partner k)).out = false then s.freezePc d
  else (s.fault 0x608 1 .cp (if r.port < 5 then some r.ctx else none) k (s.wordDet d 0 0)).scrubBad d

/-- Counts of corrections; eight in one row within an hour retire it (R322). -/
def Pc.corrected8 (p : Pc) (key lc : Nat) : Pc × Bool :=
  let l := (Tbl.get [] p.corrRows key).filter (fun t => decide (lc < t + 5760000000000)) ++ [lc]
  ({ p with corrected := sat 65535 (p.corrected + 1), corrRows := Tbl.set [] p.corrRows key l }, decide (8 ≤ l.length))

/-! ### Row retirement (R334, R335) -/

/-- The row is in service. -/
def State.rowLive (s : State) (k b row : Nat) : Bool := !((s.pc k).dbank b).redirect.any (fun x => decide (x.1 = row))

/-- The four extents whose units on the pseudo-channel lie in a row of a bank. -/
def rowExtents (b row : Nat) : List Nat := (List.range 4).map (fun c => 128 * row + 4 * b + c)

/-- The copy of a row to a spare starts; with no spare left the row stays in service. -/
def State.startRetire (s : State) (k b row : Nat) : State :=
  if ((s.pc k).dbank b).nextSpare.isSome then s.updPc k (fun p => { p with copying := some (b, row) })
  else
    let s := s.updSql (fun q => { q with withheld := (rowExtents b row).foldl (fun l e => insertNat e l) q.withheld })
    s.fault 0x60A 5 .p none k [0, pack [(3, b), (8, row)]]

/-! ### Back in service -/

/-- Waiting writes are issued. -/
def State.issueWrites (s : State) (k : Nat) : State :=
  let ws := (s.pc k).wq
  let s := s.updPc k (fun p => { p with wq := [] })
  ws.foldl (fun s x => s.issueWrite k x) s

/-- Controller recovery begins, or waits for the partner (R325, R336). -/
def State.recoverPc (s : State) (k : Nat) : State :=
  if (s.pc k).phase = .failed ∨ (s.pc k).phase = .recovery then s
  else if (s.pc (partner k)).out then s.updPc k (fun p => { p with recWait := true })
  else s.updPc k (fun p => { p with phase := .recovery, recWait := false, outAt := s.lc })

/-- Retrains of a window start, eight at a time, none while its partner is out (R316, R325). -/
def State.startRetrains (s : State) : State :=
  s.mem.selected.foldl (fun s k =>
    if decide (countPcs s (fun p => decide (p.phase = .train)) < 8) && !(s.pc (partner k)).out && decide ((s.pc k).phase = .service) && (s.pc k).frozen.isNone && decide (s.mem.maint = 1) then
      (s.updPc k (fun p => { p with phase := .train, outAt := s.lc })).updMem (fun m => { m with selected := m.selected.filter (fun x => decide (x ≠ k)) })
    else s) s

/-- The voices' one record each of the fills while the pseudo-channel was out; a fill still open ends with its own. -/
def State.tellOut (s : State) (k : Nat) : State :=
  (Tbl.keysWhere (fun _ x => !x.frozen.isEmpty) s.voices).foldl (fun s v =>
    if ((s.voice v).fillEp.map (fun e => (e.pc, e.until_))) = some (some k, none) then s else s.tellFrozen v (fun x => decide (x = k))) s

/-- The pseudo-channel serves again: its writes issue, and what waited for it as a partner goes on. -/
def State.backInService (s : State) (k : Nat) : State :=
  let s := ((s.issueWrites k).resumeTimeouts k).tellOut k
  let s := if (s.pc (partner k)).recWait then s.recoverPc (partner k) else s
  s.startRetrains

/-- The unfreeze: the failing word is rewritten from its partner, or poisoned; how is 0 ACTION 1, 1 ACTION 2, 2 timeout. -/
def State.unfreezePc (s : State) (k how : Nat) : State :=
  match (s.pc k).frozen, (s.pc k).capture with
  | some t, some c =>
    let s := if c.mirrored && !s.badByte (otherCopy c.dpa) then s.copyBack c.dpa else s.poisonWord c.dpa
    let s := s.updPc k (fun p => { p with frozen := none, unfreeze := none })
    (s.fault 0x607 3 .p none k (s.wordDet c.dpa how ((s.lc - t) / 1600))).backInService k
  | _, _ => s.updPc k (fun p => { p with frozen := none, unfreeze := none })

/-- The row of the captured word is retired, and then the pseudo-channel unfrozen. -/
def State.retireCaptured (s : State) (k how : Nat) : State :=
  match (s.pc k).capture with
  | some c =>
    let s := if s.rowLive k c.bank c.row then s.startRetire k c.bank c.row else s
    if (s.pc k).copying.isSome then s.updPc k (fun p => { p with unfreeze := some how }) else s.unfreezePc k how
  | none => s.unfreezePc k how

/-- 10 ms, 16,000,000 LC, after the freeze. -/
def State.freezeOver (s : State) (k t : Nat) : State :=
  if (s.pc k).unfreeze.isSome then s else (s.advanceTo (t + 16000000)).retireCaptured k 2

def execFreezeTimeout (pc : Fin 64) (s : State) : Ans :=
  match (s.pc pc).frozen with
  | some t => .next (s.freezeOver pc t)
  | none => .next s

/-! ### MEM_DIAG (R332, R333) -/

def diagRecord (s : State) (k : Nat) : List Byte :=
  let p := s.pc k
  let c := p.capture.getD {}
  let pad := fun (l : List (BitVec 8)) => (l ++ List.replicate 8 0).take 8
  let ws := [
    pack [(0, b2n p.capture.isSome), (1, if p.capture.isSome then c.phase.code else 0), (4, b2n c.mirrored), (5, b2n c.retired),
      (6, b2n p.frozen.isSome), (8, k), (14, c.bank), (19, c.port), (22, c.ctx)],
    pack [(0, c.row), (14, c.col), (16, c.word), (19, c.severity.toNat), (24, c.temp.toNat)],
    word c.dpa, word (c.dpa / 2 ^ 32), lo32 c.time, hi32 c.time, c.syndrome]
  ws.flatMap bytesOf ++ (c.data ++ List.replicate 32 0).take 32 ++ bytesOf c.check ++ pad c.rd ++ pad c.wr ++ List.replicate 48 0

def diagPc (p : Pkt) : Nat := pf p 4 0 6
def diagAction (p : Pkt) : Nat := pf p 4 8 2

/-- The capture record as it stands after the action, and its completion. -/
def State.endDiag (s : State) (r : Run) (res : Nat) : State :=
  (s.replyData r (pw r.p 5).toNat (pq r.p 6) (diagRecord s (diagPc r.p))).complete r .ok res

def actMemDiag (r : Run) (s : State) : State :=
  let k := diagPc r.p
  let p := s.pc k
  match diagAction r.p, p.frozen with
  | 0, _ => (s.updPc k (fun p => { p with captureRead := p.captureRead || p.frozen.isSome })).endDiag r 0
  | 1, some t => if t + 16000000 ≤ s.lc then (s.freezeOver k t).endDiag r 0 else if p.unfreeze.isSome then s.endDiag r 0 else (s.unfreezePc k 0).endDiag r 1
  | 1, none => s.endDiag r 0
  | _, some t =>
    if t + 16000000 ≤ s.lc then (s.freezeOver k t).endDiag r 0
    else if p.unfreeze.isSome then s.endDiag r 0
    else
      let s := s.retireCaptured k 1
      if (s.pc k).copying.isSome then s.addJob r (.memRetire k) else s.endDiag r 1
  | _, none =>
    match p.capture with
    | some c =>
      if s.rowLive k c.bank c.row && p.copying.isNone then
        let s := s.startRetire k c.bank c.row
        if (s.pc k).copying.isSome then s.addJob r (.memRetire k) else s.endDiag r 0
      else s.endDiag r 0
    | none => s.endDiag r 0

def mMemDiag : Meaning where
  check r s := firstOf [
    (decide (diagAction r.p = 3), .badParam, 0),
    (decide (diagAction r.p ≠ 0) && (s.pc (diagPc r.p)).frozen.isSome && !(s.pc (diagPc r.p)).captureRead, .busy, 0)]
  act := actMemDiag

def execMemDiag (p : Pkt) (s : State) : Ans := .next (submit .memDiag mMemDiag p s)

/-- The copy to the spare has ended: accesses are redirected. -/
def execRowRetireCopyEnd (pc : Fin 64) (s : State) : Ans :=
  match (s.pc pc).copying with
  | none => .next s
  | some (b, row) =>
    let s := s.updDBank pc b (fun k => k.retire row)
    let s := s.updPc pc (fun p => { p with
      copying := none, retired := p.retired + 1, spares := p.spares - 1
      capture := p.capture.map (fun c => if c.bank = b ∧ c.row = row then { c with retired := true } else c) })
    let s : State := { s with log := { s.log with mramRows := s.log.mramRows ++ [(pc.val, b, row)] } }
    let s := s.fault 0x609 3 .p none pc [0, pack [(3, b), (8, row)]]
    let s := match (s.pc pc).unfreeze with | some how => s.unfreezePc pc how | none => s
    let js := s.jobs.filter (fun j => decide (j.kind = .memRetire pc))
    .next (js.foldl (fun s j => s.endDiag j.run 1) (s.dropJobs (fun j => decide (j.kind = .memRetire pc))))

/-! ### Data returns (R285 to R287, R321, R322) -/

/-- A voice in catch-up whose lead has reached 4 µs fetches as STREAM again (R291). -/
def State.endCatchup (s : State) (v : Nat) : State :=
  if (s.voice v).catchup && (decide (6400 ≤ s.voiceLead v) || (s.unlanded v).isEmpty) then s.updVoice v (fun x => { x with catchup := false }) else s

/-- A voice in fill for want of data goes on from its next sample where the data has now landed (R208). -/
def State.resumeFill (s : State) (v : Nat) : State := s.endFill v ((s.voiceMode v).rate * (s.lc + 1)) false

/-- The data of a BULK read has landed: it is moved on and the tag is free (R285). -/
def State.landBulk (s : State) (id : Nat) (t : Tag) : State :=
  match s.sql.bulk.find? (fun b => decide (b.id = id)) with
  | some b => if s.bulkLive id then s.moveUnit b t.unit else s
  | none => s

/-- The data is in its landing slot, 256 bytes; words that came poisoned are marked (R284, R323). -/
def State.land (s : State) (n : Nat) (t : Tag) : State :=
  let age := s.lc - t.issued
  let bad := (List.range 8).filter (fun w => s.badByte (t.dpa + 32 * w))
  let s := s.writeBank (slotBank n) (slotOff n) (Memory.readMany s.sql.dram t.dpa 256)
  let s := s.updSql (fun q => { q with
    tags := Tbl.set {} q.tags n { t with landed := true, landedAt := s.lc, bad := bad }
    landings := q.landings.filter (fun l => decide (s.lc < l + 1600000)) ++ (if t.bulk.isSome then [] else [s.lc])
    urgMax := if t.native then sat 65535 (max q.urgMax age) else q.urgMax
    portLat := Tbl.set 0 q.portLat t.port (sat (2 ^ 20 - 1) (max (Tbl.get 0 q.portLat t.port) age)) })
  if t.isStep then (s.landSteps t).freeTagNo n
  else match t.bulk, t.voice with
    | some id, _ => (s.landBulk id t).freeTagNo n
    | none, some v => (s.resumeFill v).endCatchup v
    | none, none => s.each (s.voicesOf t.ctx) (fun v s => s.resumeFill v)

/-- What the two ECCs found in the unit read. A corrected unit waits for its write-back (R322). -/
def State.eccRead (s : State) (d : Nat) (a : Asker) (r : EccResult) : State :=
  let k := pcOf (d / 256)
  let u := unitOf (d / 256)
  match r with
  | .clean => s
  | .onDie => s.updPc k (fun p => { p with ondie := sat 65535 (p.ondie + 1) })
  | .corrected =>
    let x := (s.pc k).corrected8 (16384 * dbankOf u + rowOf u) s.lc
    let s := (s.updPc k (fun _ => x.1)).updMem (fun m => { m with writeBack := insertNat (d / 256 * 256) m.writeBack })
    if x.2 && s.rowLive k (dbankOf u) (rowOf u) && (s.pc k).copying.isNone then s.startRetire k (dbankOf u) (rowOf u) else s
  | .uncorrectable w syn sev chk =>
    if s.mem.poison.contains (d / 32 + w) then s else s.badWord (d + 32 * w) a syn sev chk

def eccBad : EccResult → Bool
  | .uncorrectable _ _ _ _ => true
  | _ => false

/-- A tag's data returns; an old sequence number or an abandoned tag discards it. -/
def execFetchLanded (tag : BitVec 16) (seq : BitVec 4) (r : EccResult) (s : State) : Ans :=
  let n := tag.toNat
  let t := Tbl.get {} s.sql.tags n
  if !t.held || t.landed || decide (seq ≠ t.seq) then .next s
  else
    let s := (s.access t.dpa t.asker).eccRead t.dpa t.asker r
    if t.abandoned then .next (s.freeTagNo n)
    else
      let s := s.noteLead t.voice
      if eccBad r && !s.mirroredAt t.dpa then
        .next (match t.bulk with | some id => (s.freeTagNo n).askAgain id t.unit | none => s.freeTagNo n)
      else .next (s.land n t)

/-- 50 µs, 80,000 LC, after issue: abandoned tags are reclaimed; the others are tried once more, then given up. -/
def execFetchTimeout (tag : BitVec 16) (s : State) : Ans :=
  let n := tag.toNat
  let t := Tbl.get {} s.sql.tags n
  if !t.held || t.landed then .next s
  else
    let s := (s.advanceTo (t.issued + 80000)).freeTagNo n
    let k := pcOf (t.dpa / 256)
    let det := detM t.dpa (if t.isStep then 0 else t.seg + 65536 * t.segGen) t.first 0 t.voice 0 0
    if t.abandoned then .next s
    else
      let s := s.updSql (fun q => { q with timeouts := sat 65535 (q.timeouts + 1) })
      let s := match t.bulk with | some id => if t.retry then s.askAgain id t.unit else s | none => s
      if t.retry then .next ((s.fault 0x602 2 .c (some t.ctx) k det).recoverPc k)
      else
        let s := s.updSql (fun q => { q with urgent := q.urgent ++ [{
          port := 0, ctx := t.ctx, gen := t.gen, voice := t.voice, seg := t.seg, segGen := t.segGen, dpa := t.dpa, deadline := t.deadline, first := t.first, unit := t.unit, pos := t.pos, bulk := t.bulk, retry := true }] })
        .next (s.fault 0x601 1 .c (some t.ctx) k det)

/-! ### Writes (R307, R308) -/

/-- A write of CAL or of the owl, or of a transfer under way, comes from ports 3 to 6; a mirrored unit enters both queues (R324). -/
def execWriteEnqueue (pc : Fin 64) (unit : BitVec 21) (port : Fin 7) (s : State) : Ans :=
  if port.val < 3 then .next s
  else .next (s.enqueueUnit port (dpaOf pc unit.toNat))

/-! ### The scrub (R326, R327) -/

/-- Extents freed and ready to be zeroed go before the scrub, unless it is behind (R328). -/
def State.zeroFirst (s : State) : State :=
  if s.scrubBehind then s
  else (s.sql.quarantine.filter (fun x => !s.orphansInto x.1 x.2)).foldl (fun s x => s.returnExtents x.1 x.2) s

/-- The owl reads its next unit, once what comes before the scrub is done (R328). -/
def execScrubRead (r : EccResult) (s : State) : Ans :=
  let s := s.owlAhead.zeroFirst
  let g := s.mem.scrubUnit
  let d := 256 * g
  let k := pcOf g
  let s := s.updMem (fun m => { m with scrubUnit := (g + 1) % 2 ^ 27, passes := if g + 1 = 2 ^ 27 then sat 65535 (m.passes + 1) else m.passes })
  if (s.pc k).phase ≠ .service ∨ (s.pc k).frozen.isSome then .next s
  else
    let s := s.access d { unit := some (d / 256) }
    match r with
    | .uncorrectable w _ _ _ => .next (s.scrubBad (d + 32 * w))
    | _ => .next (s.eccRead d {} r)

/-! ### Training, drift and maintenance (R314 to R316) -/

def setAt {α : Type} (l : List α) (i : Nat) (v : α) : List α := setNth l i v

/-- A lane far from its centre, or with little margin, advises a retrain; TRAIN_DRIFT once. -/
def State.checkDrift (s : State) (k lane : Nat) : State :=
  let p := s.pc k
  let far := decide (12 < apart (p.rd.getD lane 0) (p.rdMid.getD lane 0)) || decide (12 < apart (p.wr.getD lane 0) (p.wrMid.getD lane 0))
  if far || decide (p.margins.getD lane 0 < 12) then
    let s := s.updPc k (fun p => { p with retrainAdvised := true, driftRaised := true })
    if p.driftRaised then s else s.fault 0x60D 5 .p none k []
  else s

/-- The memory-PHY processor tracks only while it runs (R18, R315). -/
def State.memfUp (s : State) : Bool := decide ((s.proc 2).st = 0)

def execReadDelayTrack (pc : Fin 64) (lane : Fin 5) (up : Bool) (margin : BitVec 8) (s : State) : Ans :=
  let p := s.pc pc
  let now := p.rd.getD lane 0
  let new := if up then now + 1 else now - 1
  if !s.memfUp || decide (p.phase ≠ .service) then .next s
  else
    let s := s.updPc pc (fun p => { p with
      margins := setAt p.margins lane margin.toNat
      rd := if apart new (p.rdMid.getD lane 0) ≤ 16 then setAt p.rd lane new else p.rd })
    .next (s.checkDrift pc lane)

def execWriteDelayCheck (pc : Fin 64) (lane : Fin 5) (delay : BitVec 8) (margin : BitVec 8) (s : State) : Ans :=
  let p := s.pc pc
  if !s.memfUp || decide (p.phase ≠ .service) then .next s
  else
    let s := s.updPc pc (fun p => { p with
      margins := setAt p.margins lane margin.toNat
      wr := if apart delay (p.wrMid.getD lane 0) ≤ 16 then setAt p.wr lane delay else p.wr })
    .next (s.checkDrift pc lane)

/-- A full training puts each delay at a centre that the spec cannot give. -/
def State.retrained (s : State) (k : Nat) : State :=
  let r := (List.range 5).map (fun i => BitVec.ofNat 8 (Config.freeNat (s.fresh + i) % 128))
  let w := (List.range 5).map (fun i => BitVec.ofNat 8 (Config.freeNat (s.fresh + 5 + i) % 128))
  let m := (List.range 5).map (fun i => 13 + Config.freeNat (s.fresh + 10 + i) % 51)
  (s.updPc k (fun p => { p with rd := r, rdMid := r, wr := w, wrMid := w, margins := m, retrainAdvised := false, driftRaised := false })).bumpBy 15

/-- A pseudo-channel fails. -/
def State.failPc (s : State) (k : Nat) : State :=
  let s := s.updPc k (fun p => { p with phase := .failed, frozen := none, unfreeze := none, recWait := false, wq := [] })
  ((s.fault 0x60C 5 .a none k []).tellOut k).startRetrains

def State.countRetrain (s : State) (k : Nat) : State := s.updPc k (fun p => { p with retrains := sat 255 (p.retrains + 1) })

/-- A retrain of a window ends; before memory service, the power-up training of one pseudo-channel (R314). -/
def execPcRetrainEnd (pc : Fin 64) (ok : Bool) (s : State) : Ans :=
  match (s.pc pc).phase with
  | .train =>
    let s := s.countRetrain pc
    .next (if ok then ((s.retrained pc).updPc pc (fun p => { p with phase := .service })).backInService pc else s.failPc pc)
  | .start =>
    if s.fw.boot < 1 || s.sys.recovery then .next s
    else
      let s := if ok then (s.retrained pc).updPc pc (fun p => { p with phase := .test }) else s.failPc pc
      .next (s.updMem (fun m => { m with trained := decide (countPcs s (fun p => decide (p.phase = .start)) = 0) }))
  | _ => .next s

/-- A request for a maintenance window. -/
def State.requestMaint (s : State) (v : W32) : State :=
  let ms := bits v 16 10
  let s := s.updMem (fun m => { m with scope := bit v 1, windowMs := ms })
  if !bit v 0 || decide (s.mem.maint = 1) then s
  else if s.anyRunning || s.fwArmed || decide ((s.proc 2).st = 2) || s.sched.any (fun t => decide (t.run.op = .prgStart) || decide (t.run.op = .scnStartAt)) || decide (ms = 0) || decide (1000 < ms) then
    s.updMem (fun m => { m with maint := 3 })
  else
    let sel := (List.range 64).filter (fun k => decide ((s.pc k).phase = .service) && (bit v 1 || (s.pc k).retrainAdvised))
    (s.updMem (fun m => { m with maint := 1, maintAt := s.lc + 1600000 * ms, selected := sel })).startRetrains

def execMemMaintRequest (v : W32) (s : State) : Ans := .next (s.requestMaint v)

/-- Every selected retrain has finished, or WINDOW_MS has passed. -/
def execMaintWindowClose (s : State) : Ans :=
  if s.mem.maint = 1 then
    let done := s.mem.selected.isEmpty && decide (countPcs s (fun p => decide (p.phase = .train)) = 0)
    let s := if done then s else s.advanceTo s.mem.maintAt
    .next (s.updMem (fun m => { m with maint := 2, selected := [] }))
  else .next s

/-! ### Controller recovery (R336) -/

def execPhySelfCheckFail (pc : Fin 64) (s : State) : Ans := .next (s.recoverPc pc)

/-- Step 1 or step 2 of the recovery has ended. -/
def execPcRecoveryEnd (pc : Fin 64) (step2 ok : Bool) (s : State) : Ans :=
  if (s.pc pc).phase = .recovery ∧ s.sys.recovery = false then
    let s := if step2 then s.countRetrain pc else s
    if ok then
      let s := if step2 then s.retrained pc else s
      let s := (s.updPc pc (fun p => { p with phase := .service })).fault 0x60B 2 .p none pc []
      .next (s.backInService pc)
    else if step2 then .next (s.failPc pc)
    else .next s
  else .next s

/-! ### Reads that clear (Tables 10.8, 10.19, 10.21) -/

def execSqlLeadRead (s : State) : Ans :=
  let s := (Tbl.keysWhere (fun v _ => !(s.unlanded v).isEmpty) s.voices).foldl (fun s v => s.noteLead (some v)) s
  .next ((s.updSql (fun q => { q with minLead := 0x1FFFF })).emit (.readAnswer (BitVec.ofNat 64 s.sql.minLead)))

def execSqlUrgMaxRead (s : State) : Ans :=
  .next ((s.updSql (fun q => { q with urgMax := 0 })).emit (.readAnswer (BitVec.ofNat 64 s.sql.urgMax)))

def execSqlPortLatRead (p : Fin 7) (s : State) : Ans :=
  .next ((s.updSql (fun q => { q with portLat := Tbl.set 0 q.portLat p 0 })).emit (.readAnswer (BitVec.ofNat 64 (Tbl.get 0 s.sql.portLat p))))

end Sys2Proof.Machine
end

