-- ==== Sys2Proof/Machine/Firmware.lean ====
section
/-! DEFINITION. The firmware packets: staging, scheduling, status and cancelling, the quiet check, and writes into a slot
(spec/17_firmware_boot_update.md R457 to R462, R465, R467). -/
namespace Sys2Proof.Machine

/-! ### Slots (R449, R457, R458) -/

/-- Slot size of an image type (Table 17.1). -/
def slotSize (ty : Nat) : Nat := if ty = 0 then 4194304 else if ty = 1 then 2097152 else 1048576

/-- A slot of the inactive set is marked empty. -/
def State.emptySlot (s : State) (ty : Nat) : State := s.updImg s.fw.inactive ty (fun _ => { complete := false, preset := false })

/-- A slot of the inactive set is complete and staged, its CHECK cleared. -/
def State.fillSlot (s : State) (ty : Nat) (d : List Byte) : State :=
  s.updImg s.fw.inactive ty (fun _ => { preset := false, staged := true, data := d, len := d.length })

/-- Bytes go into a slot at an offset, which at 0 marks it empty; what lies before and was never written is undefined. -/
def State.writeSlot (s : State) (ty off : Nat) (d : List Byte) (final : Bool) : State :=
  let s := if off = 0 then s.emptySlot ty else s
  let i := s.img s.fw.inactive ty
  let gap := off - i.data.length
  let data := (i.data ++ s.freeBytes gap).take off ++ d ++ i.data.drop (off + d.length)
  let s := s.bumpBy gap
  if final then s.fillSlot ty (data.take (off + d.length))
  else s.updImg s.fw.inactive ty (fun i => { i with preset := false, data := data, len := if i.complete then data.length else 0 })

/-- The fields of a slot write are in range (Table 17.9, R457). -/
def slotRange (ty off len : Nat) : Bool :=
  decide (ty < 8) && decide (off % 4 = 0) && decide (len % 4 = 0) && decide (off + len ≤ slotSize ty)

/-- An FW_STAGE for the slot is executing. -/
def State.staging (s : State) (ty : Nat) : Bool :=
  s.jobs.any (fun j => decide (j.kind = .transfer) && decide (j.run.op = .fwStage) && decide (pf j.run.p 4 0 4 = ty))

/-! ### FW_STAGE (R457, R458) -/

def stageType (p : Pkt) : Nat := pf p 4 0 4
def stageLen (p : Pkt) : Nat := (pw p 5).toNat

def mFwStage : Meaning where
  check r s := firstOf [
    (!(decide (stageLen r.p % 4 = 0) && decide (512 ≤ stageLen r.p) && decide (stageLen r.p ≤ slotSize (stageType r.p))), .badParam, 0),
    (decide (s.fw.sched ≠ 0) || s.sys.restarting || s.staging (stageType r.p), .busy, 0)]
  act r s := (s.emptySlot (stageType r.p)).addJob r .transfer

def execFwStage (p : Pkt) (s : State) : Ans := .next (submit .fwStage mFwStage p s)

/-- The whole image has been read. -/
def takeFwStage (r : Run) (d : List Byte) (s : State) : State := s.fillSlot (stageType r.p) (d.take (stageLen r.p))

/-! ### FW_SCHEDULE (R460) -/

/-- The eight STAGED bits of the inactive set. -/
def State.allStaged (s : State) : Bool := (List.range 8).all (fun t => (s.img s.fw.inactive t).staged)

/-- The scheduled activation. -/
def State.activation (s : State) : Option Timed := s.sched.find? (fun t => decide (t.run.op = .fwSchedule))

/-- No activation is pending any more (Tables 17.13 and 17.14). -/
def State.unschedule (s : State) : State :=
  { s with
    sched := s.sched.filter (fun t => decide (t.run.op ≠ .fwSchedule))
    fw := { s.fw with sched := 0, actTime := 0 } }

/-- The accepted packet stays in the scheduler until its warm restart; nothing acts through TIMED_ACTION_ACTIVATION. -/
def mFwSchedule : Meaning where
  accept _ s := firstOf [(!s.allStaged || decide (s.fw.sched ≠ 0), .busy, 0)]
  act r s := s.addJob r .fwSchedule
  hold r s := s.updFw (fun f => { f with sched := 1, actTime := r.p.act })

def execFwSchedule (p : Pkt) (s : State) : Ans := .next (submit .fwSchedule mFwSchedule p s)

/-! ### FW_STATUS (Table 4.23) -/

def mFwStatus : Meaning where
  act r s := s.reply r (pw r.p 5).toNat (pq r.p 6) (viewBytes (viewFw s) 0 136)

def execFwStatus (p : Pkt) (s : State) : Ans := .next (submit .fwStatus mFwStatus p s)

/-! ### FW_CANCEL (R465) -/

def actFwCancel (r : Run) (s : State) : State :=
  match s.activation with
  | some t =>
    if s.fw.sched < 3 ∧ s.lc < s.lcAt t.act then (s.unschedule.complete t.run .busy 1).complete r .ok 1
    else s.complete r .ok 0
  | none => s.complete r .ok 0

def mFwCancel : Meaning where
  act := actFwCancel

def execFwCancel (p : Pkt) (s : State) : Ans := .next (submit .fwCancel mFwCancel p s)

/-! ### The quiet check (R461) -/

/-- The conditions, in their order. -/
def State.quiet (s : State) : List Bool :=
  [ !s.anyRunning,
    !Tbl.anyEntry (fun _ f => !(decide (f.st = .muted) || decide (f.st = .cleared) || decide (f.st = .failed))) s.fchs,
    !Tbl.anyEntry (fun _ p => !(decide (p.st = .disabled) || decide (p.st = .cleared) || decide (p.st = .failed))) s.pchs,
    s.cal.batch.isNone,
    decide (s.mem.maint ≠ 1),
    s.clk.arm.isNone ]

/-- The number, from 1, of the first condition that fails. -/
def firstFail : List Bool → Nat → Option Nat
  | [], _ => none
  | b :: t, n => if b then firstFail t (n + 1) else some n

/-- At T − 1,600,000 LC: withdrawn, or the comparator is armed. The management processor makes the check. -/
def execFwQuietCheck (s : State) : Ans :=
  match s.activation with
  | some t =>
    if s.fw.sched = 1 ∧ s.mgmtUp = true then
      let s := s.advanceTo (s.lcAt t.act - 1600000)
      match firstFail s.quiet 1 with
      | some n => .next (s.unschedule.complete t.run .busy (0x10 + n))
      | none => .next (s.updFw (fun f => { f with sched := 2 }))
    else .next s
  | none => .next s

end Sys2Proof.Machine
end

