-- ==== Sys2Proof/Machine/LogDiag.lean ====
section
/-! DEFINITION. The fault-log packets: reading and acknowledging records (spec/16_faults_recovery_thermal.md R437, R438). -/
namespace Sys2Proof.Machine

/-- The record at an index; one never written has CODE 0. -/
def State.record (s : State) (i : Nat) : FaultRec := Tbl.get {} s.log.recs (i % 4096)
def FaultRec.written (r : FaultRec) : Bool := decide (r.code ≠ 0)

/-- A record reaches a function in full (R437). -/
def FaultRec.reaches (r : FaultRec) (fn : Nat) : Bool :=
  decide (fn = 0) || r.raised.getLsbD fn || (!r.noCtx && decide (r.fn = fn))

/-- The 64 bytes of a record as a function reads it: zeros apart from SEQ where it does not reach the function in full. -/
def FaultRec.bytesFor (r : FaultRec) (fn : Nat) : List Byte :=
  if !r.written then List.replicate 64 0
  else if r.reaches fn then (recWords r).flatMap bytesOf
  else ([0, 0, 0, 0, r.seq, 0, 0, 0, 0, 0, 0, 0, 0, 0, 0, 0] : List W32).flatMap bytesOf

def State.logBytes (s : State) (fn first count : Nat) : List Byte :=
  (List.range count).flatMap (fun k => (s.record (first + k)).bytesFor fn)

/-! ### LOG_READ -/

def mLogRead : Meaning where
  check r _ := firstOf [(!(decide (1 ≤ pf r.p 5 0 13) && decide (pf r.p 5 0 13 ≤ 4096)), .badParam, 0)]
  act r s := s.addJob r .transfer

def execLogRead (p : Pkt) (s : State) : Ans := .next (submit .logRead mLogRead p s)

/-- The records have been written: RESULT names the next index, and whether the log has wrapped. -/
def endLogRead (r : Run) (s : State) : State :=
  (s.emit (.write r.p.fn.val (pq r.p 6) (s.logBytes r.p.fn (pf r.p 4 0 12) (pf r.p 5 0 13)))).complete r .ok (s.log.next + 4096 * b2n s.log.wrapped)

/-! ### FAULT_ACK -/

/-- How many records were entered after the one at index i. -/
def State.age (s : State) (i : Nat) : Nat := (s.log.next + 4095 - i) % 4096

/-- The record at index i and, where it names a context, every earlier one of that context are acknowledged. -/
def State.ackRec (s : State) (i : Nat) : State :=
  let r := s.record i
  let hit := fun (k : Nat) (x : FaultRec) => decide (k = i) || (!r.noCtx && !x.noCtx && decide (x.ctx = r.ctx) && decide (s.age i ≤ s.age k))
  { s with log := { s.log with recs := Tbl.mapVals {} (fun k x => if hit k x then { x with acked := true } else x) s.log.recs } }

/-- FAULTED follows the most recent record of the context since its CTX_OPEN. -/
def State.fixFaulted (s : State) (c : Nat) : State :=
  match (s.ctx c).lastIdx with
  | some k => if (s.record k).acked && !(s.record k).noCtx && decide ((s.record k).ctx = c) then s.updCtx c (fun x => { x with faulted := false }) else s
  | none => s

def actFaultAck (r : Run) (s : State) : State :=
  let i := pf r.p 4 0 12
  let x := s.record i
  let s := s.ackRec i
  (if x.noCtx then s else s.fixFaulted x.ctx).complete r .ok 0

def mFaultAck : Meaning where
  check r s :=
    let x := s.record (pf r.p 4 0 12)
    firstOf [(!x.written, .badParam, 0), (!x.reaches r.p.fn, .notOwner, 0)]
  act := actFaultAck

def execFaultAck (p : Pkt) (s : State) : Ans := .next (submit .faultAck mFaultAck p s)

end Sys2Proof.Machine
end

