-- ==== Sys2Proof/Machine/Rings.lean ====
section
/-! DEFINITION. The rings: their control registers and doorbells, fault notices and MSI-X vectors, and the commit of the
SYS_ shadow fields (spec/04_host_interface_commands.md R95 to R104, R109, spec/19_register_reference.md R476). -/
namespace Sys2Proof.Machine

def sizeBad (z : BitVec 4) : Bool := decide (z.toNat < 8)

/-! ### Ring registers (Tables 4.8 to 4.15, R100, R102) -/

/-- A write of SYS_CR_CTRL: BASE, SIZE and CQ are read only as ENABLE rises. A SIZE of 16 does not fit the field's four bits. -/
def CmdRing.ctrl (k : CmdRing) (v : W32) : CmdRing :=
  let k1 := { k with enable := bit v 0, size := v.extractLsb' 8 4, cq := v.extractLsb' 16 4 }
  if bit v 0 && !k.enable then
    { k1 with head := 0, tail := 0, error := sizeBad k1.size, errCode := if sizeBad k1.size then 4 else 0
              baseF := k1.base, sizeF := k1.size, cqF := k1.cq }
  else k1

/-- A TAIL doorbell: stored; 2^SIZE or more stops an enabled ring with BAD_TAIL. -/
def CmdRing.doorbell (k : CmdRing) (v : W32) : CmdRing :=
  let k1 := { k with tail := v.setWidth 16 }
  if k.enable && !k.error && decide (2 ^ k.sizeF.toNat ≤ (v.setWidth 16 : BitVec 16).toNat) then { k1 with error := true, errCode := 2 } else k1

def CplRing.ctrl (k : CplRing) (v : W32) : CplRing :=
  let k1 := { k with enable := bit v 0, irqEn := bit v 1, size := v.extractLsb' 8 4, vector := v.extractLsb' 16 5 }
  if bit v 0 && !k.enable then
    { k1 with head := 0, tail := 0, phase := true, error := sizeBad k1.size, baseF := k1.base, sizeF := k1.size }
  else k1

/-- One half of a base address; bits [11:0] read 0. -/
def baseLo (b : W64) (v : W32) : W64 := w64 (v &&& 0xFFFFF000) (hi32 b)
def baseHi (b : W64) (v : W32) : W64 := w64 (lo32 b) v

/-- A 4-byte write to a ring register of a function's window, at its offset. -/
def State.ringWrite (s : State) (f o : Nat) (v : W32) : State :=
  if 0x100 ≤ o ∧ o < 0x300 then
    let r := (o - 0x100) / 32
    match o % 32 with
    | 0x00 => s.updRing f r (fun k => { k with base := baseLo k.base v })
    | 0x04 => s.updRing f r (fun k => { k with base := baseHi k.base v })
    | 0x08 => s.updRing f r (fun k => k.ctrl v)
    | 0x0C => s.updRing f r (fun k => k.doorbell v)
    | _ => s
  else if 0x400 ≤ o ∧ o < 0x600 then
    let r := (o - 0x400) / 32
    match o % 32 with
    | 0x00 => s.updCq f r (fun k => { k with base := baseLo k.base v })
    | 0x04 => s.updCq f r (fun k => { k with base := baseHi k.base v })
    | 0x08 => s.updCq f r (fun k => k.ctrl v)
    | 0x0C => s.updCq f r (fun k => { k with head := v.setWidth 16 })
    | _ => s
  else s

/-- Ring writes made while the management processor is not running are held until it starts (R90). -/
def State.ringReg (s : State) (f o : Nat) (v : W32) : State :=
  if !s.fnLive f then s
  else if s.mgmtUp then s.ringWrite f o v
  else s.updSys (fun y => { y with heldWrites := y.heldWrites ++ [(f, o, v)] })

def State.applyHeld (s : State) : State :=
  let ws := s.sys.heldWrites
  ws.foldl (fun s w => s.ringWrite w.1 w.2.1 w.2.2) (s.updSys (fun y => { y with heldWrites := [] }))

def execSysCrCtrlWrite (fn : Fin 64) (ring : Fin 16) (v : W32) (s : State) : Ans := .next (s.ringReg fn (0x108 + 32 * ring) v)
def execSysCrTailDoorbell (fn : Fin 64) (ring : Fin 16) (v : W32) (s : State) : Ans := .next (s.ringReg fn (0x10C + 32 * ring) v)
def execSysCqCtrlWrite (fn : Fin 64) (cq : Fin 16) (v : W32) (s : State) : Ans := .next (s.ringReg fn (0x408 + 32 * cq) v)
def execSysCqHeadDoorbell (fn : Fin 64) (cq : Fin 16) (v : W32) (s : State) : Ans := .next (s.ringReg fn (0x40C + 32 * cq) v)

/-! ### SYS_COMMIT (R476) -/

/-- The shadow without a write of the present lane cycle, which a commit in that lane cycle does not take. -/
def Sys.ripe (y : Sys) (lc : Nat) : BitVec 5 :=
  match y.irqWas with | some (l, v) => if l = lc then v else y.irqShadow | none => y.irqShadow

def State.commitSys (s : State) (v : W32) : State :=
  if bit v 0 then s.updSys (fun y => { y with irqForce := y.ripe s.lc }) else s

def execSysCommitIrq (v : W32) (s : State) : Ans := .next (s.commitSys v)

/-! ### Entries (Table 4.18, R95, R104) -/

/-- A completion ring takes entries: enabled and not in error. -/
def CplRing.usable (q : CplRing) : Bool := q.enable && !q.error

/-- An entry goes to the ring's next place; TAIL advances, the phase inverts as it wraps, and the vector is due. -/
def State.postEntry (s : State) (f cq : Nat) (w0 w1 : W32) (t : W64) : State :=
  let q := s.cqr f cq
  let w0 := w0 ||| (if q.phase then 0x04000000 else 0)
  let s := s.emit (.write f (q.baseF + BitVec.ofNat 64 (16 * q.tail.toNat)) ([w0, w1, lo32 t, hi32 t].flatMap bytesOf))
  let n := (q.tail.toNat + 1) % q.size2
  let s := s.updCq f cq (fun q => { q with tail := BitVec.ofNat 16 n, phase := if n = 0 then !q.phase else q.phase })
  if q.irqEn then s.updFn f (fun w => { w with vecPending := insertNat q.vector.toNat w.vecPending }) else s

/-- The oldest notice of the function (R101, R109): discarded while the link is held down, else written once its ring has room. -/
def execFaultNotice (fn : Fin 64) (s : State) : Ans :=
  match (s.fnWin fn).notices with
  | [] => .next s
  | n :: ns =>
    let rest := s.updFn fn (fun w => { w with notices := ns })
    if s.linkHeld then .next rest
    else if s.mgmtUp && (s.cqr fn 0).usable && !(s.cqr fn 0).full then
      .next (rest.postEntry fn 0 (pack [(0, 0xFFFF), (16, n.ctx)]) (pack [(0, 0x31), (8, n.index), (31, b2n n.noCtx)]) n.time)
    else .next s

/-- A vector due is sent, at most once in 2 µs, 3,200 LC; one masked by itself or by the Function Mask sets its pending bit. PRESUMED from
the PCI Express Base Specification, log entry 68: with MSI-X Enable clear nothing is sent, and the vector stays due. -/
def execMsixVectorSend (fn : Fin 64) (vec : Fin 32) (s : State) : Ans :=
  let w := s.fnWin fn
  if !w.vecPending.contains vec.val || !w.msixOn then .next s
  else if w.msixMask || !w.vecOpen.contains vec.val then
    .next (s.updFn fn (fun w => { w with vecPending := w.vecPending.filter (fun x => decide (x ≠ vec.val)), pba := insertNat vec w.pba }))
  else if (Tbl.get none w.vecLast vec).any (fun t => decide (s.lc < t + 3200)) then .next s
  else
    .next ((s.updFn fn (fun w => { w with
      vecPending := w.vecPending.filter (fun x => decide (x ≠ vec.val))
      vecLast := Tbl.set none w.vecLast vec (some s.lc) })).emit (.msix fn vec (w64 (Tbl.get 0 w.msix (4 * vec)) (Tbl.get 0 w.msix (4 * vec + 1))) (Tbl.get 0 w.msix (4 * vec + 2))))

end Sys2Proof.Machine
end

