-- ==== Sys2Proof/Machine/System.lean ====
section
/-! DEFINITION. The packets of no chapter of their own: NOP, PING, GET_INFO, SCHED_CANCEL and an unknown opcode
(spec/04_host_interface_commands.md, spec/19_register_reference.md R477). -/
namespace Sys2Proof.Machine

/-! ### NOP and PING (R105, Table 4.20) -/

def mNop : Meaning where
  act r s := s.complete r .ok 0

def execNop (p : Pkt) (s : State) : Ans := .next (submit .nop mNop p s)

def mPing : Meaning where
  act r s := s.complete r .ok (pf r.p 4 0 24)

def execPing (p : Pkt) (s : State) : Ans := .next (submit .ping mPing p s)

/-! ### An unknown opcode completes with BAD_OPCODE under the form check (R105, R491) -/

def mUnknown : Meaning where
  act r s := s.complete r .badOpcode 0

def execUnknownOpcode (op : BitVec 8) (p : Pkt) (s : State) : Ans := .next (submit (.unknown op) mUnknown p s)

/-! ### GET_INFO (R477, Tables 19.14 and 19.15) -/

def ctxFaults (s : State) (c : Nat) : W32 := pack [(0, (s.ctx c).late), (16, (s.ctx c).other)]

/-- The entries of one context: itself, its general consumers, its jump slots. -/
def infoCtx (s : State) (c : Nat) : List (List W32) :=
  [[pack [(0, 1), (16, c)], ctxSummary s c, ctxClaims s c, ctxFaults s c]] ++
  (Tbl.keysWhere (fun _ k => decide (k.owner = some c)) s.cons).map (fun n => [pack [(0, 2), (16, n)], evtCons s n, evtConsCount s n, 0]) ++
  [[pack [(0, 3), (16, c)], evtJmp s c, 0, 0]]

def infoList (s : State) (f : Nat) : List W32 :=
  let es := (s.ctxsWhere (fun c => decide (c.st ≠ .free) && decide (c.fn = f))).flatMap (infoCtx s)
  [pack [(0, es.length)], 0, 0, 0] ++ es.flatten

/-- The bytes of a page. -/
def infoPage (s : State) (f page : Nat) : List Byte :=
  match page with
  | 0 => viewBytes (viewBar s) 0 16
  | 1 => (infoList s f).flatMap bytesOf
  | 2 => viewBytes (viewBar s) 0xF0000 8
  | _ => viewBytes (viewBar s) 0xD0000 192

def mGetInfo : Meaning where
  check r _ := firstOf [(decide (4 ≤ pf r.p 4 0 4), .badParam, 0)]
  act r s := s.addJob r .transfer

def execGetInfo (p : Pkt) (s : State) : Ans := .next (submit .getInfo mGetInfo p s)

/-- The reply has been written. -/
def endGetInfo (r : Run) (s : State) : State :=
  s.reply r (pw r.p 5).toNat (pq r.p 6) (infoPage s r.p.fn.val (pf r.p 4 0 4))

/-! ### SCHED_CANCEL (Table 4.20) -/

/-- A timed action is cancelled before its activation: a pre-run under way is discarded (R184), a locked pending set is READY
again (R403). -/
def State.undoTimed (s : State) (r : Run) : State :=
  match r.op with
  | .prgStart => if (s.ctx r.p.ctx).startS = s.lcAt r.p.act then s.discardPreRun r.p.ctx.val else s
  | .scnStartAt => (s.members (pf r.p 4 0 8)).foldl (fun s c => if (s.ctx c).startS = s.lcAt r.p.act then s.discardPreRun c else s) s
  | .aocCtrl => if pf r.p 4 8 2 = 3 then s.updAoc (pf r.p 4 0 5) (fun a => { a with pending := if a.pending = 2 then 1 else a.pending }) else s
  | _ => s

/-- The timed action of the sender that the packet names; the one accepted first where tags repeat. -/
def cancelTarget (r : Run) (s : State) : Option Timed :=
  s.sched.find? (fun t => t.run.timed && decide (t.run.op ≠ .fwSchedule) && decide (t.run.p.fn = r.p.fn) &&
    decide (t.run.p.tag.toNat = pf r.p 4 0 16) && decide (t.run.p.ring.val = pf r.p 4 16 4))

def actSchedCancel (r : Run) (s : State) : State :=
  match cancelTarget r s with
  | some t => (({ s with sched := s.sched.filter (fun x => decide (x.run.seq ≠ t.run.seq)) } : State).undoTimed t.run).complete r .ok 1
  | none => s.complete r .ok 0

def mSchedCancel : Meaning where
  act := actSchedCancel

def execSchedCancel (p : Pkt) (s : State) : Ans := .next (submit .schedCancel mSchedCancel p s)

end Sys2Proof.Machine
end

