-- ==== Sys2Proof/Machine/Packets.lean ====
section
/-! DEFINITION. Packets as a whole: what each opcode means, the scheduler's activations, fetching, completions, and the ends of
transfers, good and bad (spec/04_host_interface_commands.md R17, R101 to R103, R113 to R121, spec/16 R431). -/
namespace Sys2Proof.Machine

/-- What each opcode does. -/
def meaningOf : Op → Meaning
  | .nop => mNop | .ping => mPing | .getInfo => mGetInfo | .timeSet => mTimeSet | .schedCancel => mSchedCancel
  | .ctxOpen => mCtxOpen | .ctxClose => mCtxClose | .ctxReset => mCtxReset | .ctxBind => mCtxBind | .ctxClaim => mCtxClaim
  | .ctxRelease => mCtxRelease | .ctxStatus => mCtxStatus
  | .segAlloc => mSegAlloc | .segWrite => mSegWrite | .segFree => mSegFree | .segPin => mSegPin | .segRead => mSegRead
  | .segMirror => mSegMirror
  | .prgLoad => mPrgLoad | .prgCheck => mPrgCheck | .prgArm => mPrgArm | .prgStart => mPrgStart | .prgStop => mPrgStop
  | .jmpArm => mJmpArm | .ctrSet => mCtrSet
  | .scnDefine => mScnDefine | .scnStartAt => mScnStartAt | .scnAbort => mScnAbort | .scnDelete => mScnDelete
  | .fchConfig => mFchConfig | .fchMode => mFchMode | .pchConfig => mPchConfig | .pchLoad => mPchLoad | .pchStrobe => mPchStrobe
  | .pchQueue => mPchQueue | .vocConfig => mVocConfig
  | .clkConfig => mClkConfig | .clkStep => mClkStep | .clkSync => mClkSync
  | .tmuConfig => mTmuConfig | .tmuRun => mTmuRun | .tmuRead => mTmuRead
  | .calRun => mCalRun | .calSave => mCalSave | .calRestore => mCalRestore | .aocCtrl => mAocCtrl
  | .evtRoute => mEvtRoute | .evtLut => mEvtLut | .evtFire => mEvtFire
  | .bnkPower => mBnkPower | .bnkHandover => mBnkHandover
  | .fwStage => mFwStage | .fwSchedule => mFwSchedule | .fwStatus => mFwStatus | .fwCancel => mFwCancel
  | .logRead => mLogRead | .faultAck => mFaultAck | .memDiag => mMemDiag
  | .unknown _ => mUnknown

/-! ### Packets that wait (R115) -/

/-- Those of the list that nothing blocks any more start, in their order. -/
def releaseFrom : List Run → State → State
  | [], s => s
  | r :: rs, s =>
    if s.mgmtUp && !blocked r s then
      releaseFrom rs (launch (meaningOf r.op) { r with gen := (s.ctx r.p.ctx).gen, born := s.lc }
        { s with waiting := s.waiting.filter (fun x => decide (x.seq ≠ r.seq)) })
    else releaseFrom rs s

def State.release (s : State) : State := releaseFrom s.waiting s

/-! ### The hardware scheduler (R17, R114, R117) -/

def Timed.before (a b : Timed) : Bool := decide (a.act.toNat < b.act.toNat) || (decide (a.act = b.act) && decide (a.run.seq < b.run.seq))

/-- The next action: the earliest, and of equals the one accepted first. A firmware activation is the restart comparator's. -/
def State.nextTimed (s : State) : Option Timed :=
  (s.sched.filter (fun t => decide (t.run.op ≠ .fwSchedule))).foldl (fun b t => match b with
    | none => some t
    | some x => if t.before x then some t else some x) none

def execTimedActionActivation (s : State) : Ans :=
  match s.nextTimed with
  | none => .next s
  | some t =>
    let s := s.advanceTo (s.lcAt t.act)
    let s : State := { s with sched := s.sched.filter (fun x => decide (x.run.seq ≠ t.run.seq)) }
    .next { perform (meaningOf t.run.op) { t.run with born := s.lc } t.reps t.act s with actAt := some s.lc }

/-! ### Fetching (R100 to R103) -/

/-- Fetched untimed packets that have not completed. -/
def State.inFlight (s : State) (p : Nat → Bool) : Nat :=
  (s.waiting.filter (fun r => p r.p.fn)).length + (s.jobs.filter (fun j => !j.run.timed && p j.run.p.fn)).length +
  (s.sched.filter (fun t => !t.run.timed && p t.run.p.fn)).length + (s.held.filter (fun c => c.untimed && !c.interim && p c.fn)).length

def lengthBad (len size : Nat) : Bool :=
  decide (len % 4 ≠ 0) || decide (len < 4) || decide (1024 < len) || decide (2 ^ size ≤ len / 4)

def State.stopRing (s : State) (f r code : Nat) : State := s.updRing f r (fun k => { k with error := true, errCode := BitVec.ofNat 3 code })

/-- A ring the device comes to fetch from: enabled, without error, not empty, its completion ring not full (R100 to R102). -/
def State.ringReady (s : State) (f r : Nat) : Bool :=
  let k := s.ring f r
  let q := s.cqr f k.cqF.toNat
  k.enable && !k.error && decide (k.head ≠ k.tail) && !(q.usable && q.full)

/-- The ring of the function whose turn it is: the first one ready, in rotation (R103). -/
def State.ringTurn (s : State) (f : Nat) : Option Nat :=
  ((List.range 16).map (fun i => ((s.fnWin f).fromRing + i) % 16)).find? (fun r => s.ringReady f r)

/-- The function and the ring whose turn it is; a function at its limit is passed over (R103). -/
def State.fetchTurn (s : State) : Option (Nat × Nat) :=
  if 256 ≤ s.inFlight (fun _ => true) then none
  else ((List.range 64).map (fun i => (s.sys.fromFn + i) % 64)).findSome? (fun f =>
    if 64 ≤ s.inFlight (fun x => decide (x = f)) then none else (s.ringTurn f).map (fun r => (f, r)))

/-- The turn passes on. -/
def State.passTurn (s : State) (f r : Nat) : State :=
  (s.updSys (fun y => { y with fromFn := (f + 1) % 64 })).updFn f (fun w => { w with fromRing := (r + 1) % 16 })

/-- The device comes to fetch the packet at HEAD, whose header carries `length`; only the ring whose turn it is is fetched from. A ring
whose packet TAIL does not cover yet gives its turn up. -/
def execPacketFetch (fn : Fin 64) (ring : Fin 16) (length : BitVec 16) (s : State) : Ans :=
  let k := s.ring fn ring
  let q := s.cqr fn k.cqF.toNat
  let n := 2 ^ k.sizeF.toNat
  if !s.mgmtUp || decide (s.fetchTurn ≠ some (fn.val, ring.val)) then .next s
  else
  let s := s.passTurn fn ring
  if !q.usable then .next (s.stopRing fn ring 5)
  else if lengthBad length.toNat k.sizeF.toNat then .next (s.stopRing fn ring 3)
  else if (k.tail.toNat + n - k.head.toNat) % n < length.toNat / 4 then .next s
  else .next (s.updRing fn ring (fun k => { k with head := BitVec.ofNat 16 ((k.head.toNat + length.toNat / 4) % n) }))

/-! ### Completions (R101, R102, R108) -/

def execCompletionWrite (fn : Fin 64) (cq : Fin 16) (s : State) : Ans :=
  match s.held.find? (fun c => decide (c.fn = fn.val) && decide (c.cq = cq.val)) with
  | none => .next s
  | some c =>
    let q := s.cqr fn cq
    let rest : State := { s with held := s.held.erase c }
    if c.suppressed || s.linkHeld || !q.usable then .next rest.release
    else if q.full || !s.mgmtUp then .next s
    else .next (rest.postEntry fn cq (pack [(0, c.tag.toNat), (16, c.ctx), (27, b2n c.interim), (28, c.ring)])
      (pack [(0, statusByte c.status), (8, c.result.toNat)]) c.time).release

/-! ### Transfers (R120, R121, Table 4.23) -/

/-- The transfer of a packet stops with `d` of its buffer read: what its target holds then. -/
def dropTransfer (r : Run) (d : List Byte) (st : Status) (res : Nat) (s : State) : State :=
  match r.op with
  | .segWrite => failSegWrite r d s
  | .prgLoad => failPrgLoad r d s
  | .pchQueue => failPchQueue r d s
  | .calRestore => s.dropBatch st res
  | _ => s

/-- The transfer of a packet is complete. -/
def finishTransfer (r : Run) (d : List Byte) (s : State) : State :=
  match r.op with
  | .segWrite => (takeSegWrite r d s).complete r .ok 0
  | .prgLoad => (takePrgLoad r d s).complete r .ok 0
  | .pchQueue => (takePchQueue r d s).complete r .ok 0
  | .fwStage => (takeFwStage r d s).complete r .ok 0
  | .calRestore => takeCalRestore r d s
  | .segRead => endSegRead r s
  | .calSave => endCalSave r s
  | .logRead => endLogRead r s
  | .getInfo => endGetInfo r s
  | _ => s.complete r .ok 0

/-- The packet in execution that a ring and a tag name. -/
def State.jobOf (s : State) (fn ring : Nat) (tag : BitVec 16) (p : JobKind → Bool) : Option Job :=
  s.jobs.find? (fun j => p j.kind && decide (j.run.p.fn.val = fn) && decide (j.run.p.ring.val = ring) && decide (j.run.p.tag = tag))

/-- The packet is no longer in execution, and what it still reads at BULK class is given up. -/
def State.dropJob (s : State) (j : Job) : State := ({ s with jobs := s.jobs.erase j } : State).endBulk j.run.seq

/-- The transfer of a packet has ended; it cannot end while a unit of it waits for a pseudo-channel (R330). -/
def execHostTransferEnd (fn : Fin 64) (ring : Fin 16) (tag : BitVec 16) (data : List Byte) (s : State) : Ans :=
  match s.jobOf fn ring tag (fun k => decide (k = .transfer)) with
  | some j => .next (if s.heldUp j.run then s else finishTransfer j.run data (s.dropJob j))
  | none => .next s

/-- A packet whose transfer reads host memory. -/
def reads : Op → Bool
  | .segWrite | .prgLoad | .pchQueue | .fwStage | .calRestore => true
  | _ => false

/-- The retry of a read of host memory has failed too. -/
def execHostReadFailure (t : ReadTarget) (s : State) : Ans :=
  match t with
  | .ring fn ring =>
    if !(s.ring fn ring).enable || (s.ring fn ring).error then .next s
    else .next ((s.stopRing fn ring 1).fault 0x903 1 (.f fn) none ring [word (256 * ring), 0, 0, 0, 0, word fn])
  | .data fn ring tag d =>
    match s.jobOf fn ring tag (fun k => decide (k = .transfer)) with
    | some j =>
      if reads j.run.op then
        let s := dropTransfer j.run d .fault d.length (s.dropJob j)
        let s := s.fault 0x903 1 (.f fn) (if usesCtx j.run.op then some j.run.p.ctx.val else none) ring (detQ j.run .fault d.length d.length)
        .next (s.complete j.run .fault d.length)
      else .next s
    | none => .next s

/-! ### Command timeouts (Table 4.25, R120) -/

/-- Timeouts that have a command of their own, or are not reached. -/
def ownTimeout : JobKind → Bool
  | .sync | .tmuRun _ | .handover _ => true
  | _ => false

/-- What becomes of what the packet had done: allocations return, transfers stop, what had not taken effect does not. -/
def undoJob (j : Job) (d : List Byte) (s : State) : State :=
  match j.kind with
  | .transfer => dropTransfer j.run d .timeout 0 s
  | .pinCopy k took =>
    match (s.seg k).pin with
    | some (b, o, false) =>
      let s := (s.freeBank b o (s.seg k).bytes).updSeg k (fun g => { g with pin := none })
      if took ∧ (s.bank b).used = [] then s.releaseBank b else s
    | _ => s
  | .mirrorCopy k =>
    match (s.seg k).newExt with
    | some (e, n) => (s.freeExtents e n).updSeg k (fun g => { g with newExt := none })
    | none => s
  | .jmpArm c i => s.disarm c i
  | .fchStart c _ _ => s.unstart c
  | .pchSwitch n =>
    if (s.pch n).swStage = 0 then (s.dropSwitch n).updPch n (fun p => { p with st := .disabled, force := p.clear, ramp := none }) else s
  | .bnkPower b true => s.updBank b (fun k => { k with waiting := none })
  | .bnkPower b false => (s.updBank b (fun k => { k with trans := none })).nextTransition b
  | .start c => s.discardPreRun c
  | .sceneStart k => (s.members k).foldl (fun s c => s.discardPreRun c) s
  | .cal | .calRestoreCommit => s.dropBatch .timeout 0
  | _ => s

/-- Bytes a packet transfers. -/
def xferBytes (r : Run) (s : State) : Nat :=
  match r.op with
  | .segWrite | .segRead => xferLen r.p (s.seg (slotOf (pw r.p 4)))
  | .prgLoad => 32 * loadCount r.p
  | .pchQueue => 4 * queueCount r.p
  | .calSave => min (pw r.p 5).toNat blobLen
  | .calRestore => (pw r.p 5).toNat
  | .fwStage => stageLen r.p
  | .logRead => 64 * pf r.p 5 0 13
  | .getInfo => min (pw r.p 5).toNat (infoPage s r.p.fn.val (pf r.p 4 0 4)).length
  | .segMirror => (if (s.seg (slotOf (pw r.p 4))).mirrored then 1 else 2) * (s.seg (slotOf (pw r.p 4))).fetched
  | _ => 0

/-- The command timeout in LC (Table 4.25): 1 ns is 1.6 LC. -/
def timeoutLc (j : Job) (s : State) : Nat :=
  match j.run.op with
  | .segWrite | .segRead | .prgLoad | .pchQueue | .calSave | .calRestore | .fwStage | .logRead | .getInfo | .segMirror =>
    16000000 + ceilDiv (16 * xferBytes j.run s) 10
  | .clkConfig => 3200000
  | .calRun => match crKind j.run.p with | 0 => 16000000000 | 1 => 48000000000 | _ => 160000000
  | .memDiag => 1600000000
  | .fwSchedule => 8000000000
  | _ => 160000000

/-- A packet in execution reaches its timeout, which does not run on while the packet waits for a pseudo-channel (R330). -/
def execCommandTimeout (fn : Fin 64) (ring : Fin 16) (tag : BitVec 16) (done : List Byte) (s : State) : Ans :=
  match s.jobOf fn ring tag (fun k => !ownTimeout k) with
  | some j =>
    if s.heldUp j.run then .next s else
    let s := s.advanceTo (j.run.born + timeoutLc j s)
    .next ((undoJob j done (s.dropJob j)).timeoutRun j.run 0)
  | none => .next s

/-! ### Packets across a management restart (R431, Table 16.2) -/

/-- A packet being interpreted is abandoned. -/
def abandonRun (s : State) (r : Run) : State := s.timeoutRun r 0x800000

/-- A transfer, or a restore before its commit, stops. -/
def abandonJob (s : State) (j : Job) : State := (undoJob j [] (s.dropJob j)).timeoutRun j.run 0

def State.abandonPackets (s : State) : State :=
  let ws := s.waiting
  let s := ws.foldl abandonRun { s with waiting := [] }
  (s.jobs.filter (fun j => decide (j.kind = .transfer) || decide (j.kind = .calRestoreCommit))).foldl abandonJob s

/-- Insert in the order of R435. -/
def insertRec (r : FaultRec) : List FaultRec → List FaultRec
  | [] => [r]
  | x :: xs => if r.before x then r :: x :: xs else x :: insertRec r xs

/-- Held faults enter the log in date order, and an overflow of the hold queue is recorded. -/
def State.enterHeld (s : State) : State :=
  let hs := s.log.hold.foldl (fun l r => insertRec r l) []
  let lost := s.log.droppedNow
  let s := hs.foldl (fun s r => s.enterRec r) { s with log := { s.log with hold := [], droppedNow := false } }
  if lost then s.fault 0xA07 0 .p none 0 [] else s

/-- The management processor runs again: held faults are entered, held ring writes take effect, and packets start. -/
def State.resumeMgmt (s : State) : State := s.enterHeld.applyHeld.release

end Sys2Proof.Machine
end

