-- ==== Sys2Proof/Machine/PowerBoot.lean ====
section
/-! DEFINITION. Power and boot: the supplies, PWRGD, the boot and its choice of a set, recovery mode, and the warm restart
(spec/02_module_connectors_power.md R43 to R48, spec/17_firmware_boot_update.md R448 to R467). -/
namespace Sys2Proof.Machine

/-! ### What outlives what -/

/-- What of a fast channel lasts until the next power-up: FAILED, and its retired elements (R242, R243). -/
def Fch.lasting (f : Fch) : Fch :=
  { st := if f.st = .failed then .failed else .muted, spares := f.spares, retired := f.retired, retiredList := f.retiredList
    bgPaused := f.bgPaused, table := f.table, spareList := f.spareList }

/-- FAILED lasts until the next power-up (R273, R337). -/
def Pch.lasting (p : Pch) : Pch := if p.st = .failed then { st := .failed } else {}
def Pc.lasting (p : Pc) : Pc := if p.phase = .failed then { phase := .failed } else {}

/-- While CLRn is low every channel that is not FAILED reads CLEARED (R240, R267). -/
def State.holdClear (s : State) : State :=
  if s.power.clrnLow then
    let s := s.each (List.range 32) (fun c s => if (s.fch c).st = .failed then s else s.updFch c (fun f => { f with st := .cleared }))
    s.each (List.range 16) (fun n s => if (s.pch n).st = .failed then s else s.updPch n (fun p => { p with st := .cleared }))
  else s

/-- Every unit takes its reset state, as on the way into recovery mode and out of it (R466, R467, R479). The SYS_, CLK_, FW_,
LOG_ and TMP_ windows, the rings and the time stay, and so does what has failed until the next power-up (DEDUCED, log entry 70). -/
def State.freshUnits (s : State) : State :=
  ({ State.reset with
    fchs := Tbl.mapVals {} (fun _ f => f.lasting) s.fchs
    pchs := Tbl.mapVals {} (fun _ p => p.lasting) s.pchs
    mem := { State.reset.mem with pcs := Tbl.mapVals {} (fun _ p => p.lasting) s.mem.pcs }
    pending := s.pending, fresh := s.fresh, lc := s.lc, tb := s.tb, power := s.power, smb := s.smb, out := s.out, fns := s.fns
    sys := s.sys, waiting := s.waiting, held := s.held, seq := s.seq, clk := s.clk, divAt := s.divAt, cal := { wallAt := s.lc }
    log := s.log, procs := s.procs, tmp := s.tmp, fw := s.fw } : State).holdClear

/-- The firmware state the MRAM and the fuses keep (R449, R450, R456). -/
def Fw.kept (f : Fw) : Fw := { imgs := f.imgs, preferred := f.preferred, floor := f.floor, running := f.preferred, firstSet := f.preferred, trying := f.preferred }

/-- Everything the module loses without power, or while PWRGD is held low (R43, R47): the MRAM copies, the fuses, the pins and
the always-on domain are kept. -/
def State.powerLost (s : State) : State :=
  { State.reset with
    pending := s.pending, fresh := s.fresh, lc := s.lc, tb := s.tb, power := s.power, smb := s.smb, out := s.out
    log := { mramRecs := s.log.mramRecs, mramEngines := s.log.mramEngines, mramRows := s.log.mramRows }, fw := s.fw.kept }

/-! ### Shutting down (R47, R48, R444, R445) -/

/-- The power-loss record of the MRAM copy (form W of Table 16.7). -/
def State.lossRec (s : State) (cause : Nat) : FaultRec := { s.mkRec 0xA08 0 .p none 0 s.tb [word cause] with previous := true }

/-- The power-down sequence starts: fast channels ramp over 16 LC, precision channels reach their clear state, all else is lost. -/
def State.shutdown (s : State) (cause : Nat) (more : List FaultRec) : State :=
  let r := s.lossRec cause
  let s := s.each (List.range 32) (fun c s => s.hwStopFch c)
  let s := s.each (List.range 16) (fun n s => if (s.pch n).st = .failed then s else s.clearPch n .disabled)
  let s : State := { s with log := { s.log with mramRecs := r :: more } }
  { s.powerLost with
    fchs := s.fchs, pchs := s.pchs, markers := s.markers, divAt := s.divAt
    power := { s.power with phase := .shutdown, pwrgd := false, downAt := s.lc, cause := cause } }

def SupplyCause.code : SupplyCause → Nat
  | .p12vUnder => 1 | .p12vOver => 2 | .p3v3Under => 3 | .p3v3Over => 4

/-- What the supply monitors latch (Table 2.11). -/
def State.noteSupply (s : State) (c : SupplyCause) : State :=
  match c with
  | .p12vUnder => { s with power := { s.power with p12v := .under }, smb := { s.smb with vinUv := true, unitOff := true } }
  | .p12vOver => { s with power := { s.power with p12v := .high }, smb := { s.smb with vinOv := true } }
  | .p3v3Under => { s with power := { s.power with p3v3 := .under } }
  | .p3v3Over => { s with power := { s.power with p3v3 := .high } }

/-- A supply fault outlasts its filter. With SHUT in the same lane cycle it is the supply fault that is recorded. DESIGN CHOICE, log entry
66: while PWRGD is low the management processor is in reset, and no record is written. -/
def execSupplyFault (cause : SupplyCause) (s : State) : Ans :=
  let k := SupplyCause.code cause
  match s.power.phase with
  | .running => .next ((s.noteSupply cause).shutdown k [])
  | .starting | .pwrgdLow =>
    let s := s.noteSupply cause
    .next { s with power := { s.power with phase := .shutdown, pwrgd := false, downAt := s.lc, cause := k } }
  | .shutdown =>
    let s := s.noteSupply cause
    if s.power.cause = 5 ∧ s.power.downAt = s.lc then
      .next { s with power := { s.power with cause := k }, log := { s.log with mramRecs := s.log.mramRecs.map (fun r =>
        if r.code = 0xA08#12 then { r with detail := [word k, 0, 0, 0, 0, 0, 0, 0] } else r) } }
    else .next s
  | .off => .next (s.noteSupply cause)

/-- 2 ms, 3,200,000 LC, after the fault: the precision outputs open and the regulators shut down. -/
def execOutputSwitchOpen (s : State) : Ans :=
  if s.power.phase = .shutdown then
    let s := s.advanceTo (s.power.downAt + 3200000)
    .next { s.powerLost with power := { s.power with phase := .off, switchesClosed := false } }
  else .next s

/-- Both supplies are in range: the regulators start. -/
def execPowerUp (s : State) : Ans :=
  if s.power.phase = .off then
    .next { s with
      power := { s.power with phase := .starting, p12v := .ok, p3v3 := .ok, cause := 0 } }
  else .next s

/-- PWRGD goes high: LANE runs from the bypass synthesiser, the boot ROM starts, and the records of the MRAM copy enter the
empty log (R82, R439). -/
def execPwrgdRise (hot : Bool) (s : State) : Ans :=
  if s.power.phase = .starting ∨ s.power.phase = .pwrgdLow then
    let rs := s.log.mramRecs
    let s : State := { s.powerLost with lc := 0, tb := 0, power := { s.power with phase := .running, pwrgd := true, switchesClosed := true, cause := 0 } }
    let s := rs.foldl (fun s r => s.enterRec r) { s.holdClear with log := { s.log with mramRecs := [] } }
    .next (if hot then ({ s with smb := { s.smb with otFault := true } } : State).shutdown 5 [] else s)
  else .next s

/-- PWRGD held low for 10 µs while the module runs (R43); pins PF0 to PF15 are at high impedance until it rises (R249). -/
def execPwrgdHeldLow (s : State) : Ans :=
  if s.power.phase = .running then
    let r := s.lossRec 7
    let s : State := { s with log := { s.log with mramRecs := [r] } }
    .next { s.powerLost with power := { s.power with phase := .pwrgdLow, pwrgd := false, switchesClosed := false, cause := 7 } }
  else .next s

/-! ### Recovery mode (R466) -/

/-- A processor that is not held stopped until the next power-up (R428) is held in reset, or runs. -/
def State.setProcs (s : State) (ps : List Nat) (st : Nat) : State :=
  s.each ps (fun p s => if (s.proc p).st = 2 then s else s.updProc p (fun x => { x with st := st }))

/-- Packets in execution and accepted timed actions, whose hardware is out of service, end with TIMEOUT. -/
def State.endAll (s : State) : State :=
  let js := s.jobs.filter (fun j => decide (j.kind ≠ .fwSchedule))
  let ts := s.sched.filter (fun t => decide (t.run.op ≠ .fwSchedule))
  let s : State := { s with jobs := s.jobs.filter (fun j => decide (j.kind = .fwSchedule)), sched := s.sched.filter (fun t => decide (t.run.op = .fwSchedule)) }
  ts.foldl (fun s t => s.timeoutRun t.run 0) (js.foldl (fun s j => s.timeoutRun j.run 0) s)

/-- RESULT of R464. -/
def Fw.rejection (f : Fw) : Nat := match f.firstFail with | some (r, _) => r.toNat | none => 0

/-- FW_SCHEDULE completes with FW_REJECTED (R464). -/
def State.rejectSchedule (s : State) : State :=
  let s := s.updFw (fun f => { f with rejects := sat 65535 (f.rejects + 1) })
  s.endKind (fun k => decide (k = .fwSchedule)) .fwRejected s.fw.rejection

/-- LANE runs from the bypass synthesiser and no reference is followed. -/
def State.clockToBypass (s : State) : State :=
  (s.laneSwitch false).updClk (fun k => { k with
    locked := false, refSrc := 0, align := .free, enable := false, q := 0, band := 0, arm := none, rampEnd := none, slewEnd := none
    slewing := false, rangeWarn := false, qualified := false, selfHold := false })

/-- The recovery interpreter runs: cause 1 to 4. A warm restart that ends so completes FW_SCHEDULE first. -/
def State.enterRecovery (s : State) (cause : Nat) : State :=
  let s := s.endAll
  let s := if s.fw.warm then s.rejectSchedule else s
  let s := s.clockToBypass.freshUnits
  let s := (s.setProcs (List.range 8) 1).updProc 0 (fun p => { p with st := 0 })
  let s := s.updSys (fun y => { y with ready := true, recovery := true, restarting := false, mgmtVer := 0, vfEnable := false, numVfs := 0 })
  let s := s.updFw (fun f => { f with
    running := 3, cause := cause, boot := 1, warm := false, reboot := false, sched := 0, actTime := 0, firstFail := none
    rcvImage := 0, rcvFinal := false, rcvOffset := 0, rcvLen := 0, rcvStatus := 0, rcvWrites := 0 })
  let s := s.each (List.range 64) (fun k s => s.updPc k (fun p => { p with phase := if p.phase = .failed then .failed else .recovery }))
  ((s.each ((List.range 63).map (fun k => k + 1)) (fun f s => s.updFn f (fun _ => {}))).enterHeld.fault 0xE05 5 .p none 0 [word cause]).applyHeld.release

/-- The reboot that ends recovery mode, with the inactive set first (R467). -/
def State.rebootRecovery (s : State) : State :=
  let s := s.abandonPackets.endAll
  let first := s.fw.inactive
  let s := s.freshUnits.setProcs (List.range 8) 1
  let s := s.updSys (fun y => { y with ready := false, recovery := false })
  s.updFw (fun f => { f with boot := 0, reboot := true, warmAt := s.lc, firstSet := first, trying := first, firstFail := none, cause := 0 })

/-! ### Boot (R450 to R456, Tables 17.3 to 17.5) -/

def FwSet.num : FwSet → Nat
  | .a => 0 | .b => 1 | .safe => 2 | .recovery => 3

/-- CHECK of an image of set A or B: 0x80 passed, else the code of Table 17.3. -/
def State.setCheck (s : State) (ty : Nat) (code : BitVec 8) : State :=
  if s.fw.trying < 2 then s.updImg s.fw.trying ty (fun i => { i with check := if code = 0 then 0x80 else code }) else s

/-- Word k of the header of the image of a type in the set tried. -/
def State.headWord (s : State) (ty k : Nat) : W32 := imgWord (s.img s.fw.trying ty) (8 * s.fw.trying + ty) k

/-- The image of a type in the set tried is one whose bytes the spec does not give: what its header fails is the command's to say. -/
def State.presetImg (s : State) (ty : Nat) : Bool := (s.img s.fw.trying ty).preset && (s.img s.fw.trying ty).complete

/-- FORMAT of Table 17.3: MAGIC, HEADER_LEN, the reserved fields, and a length that exceeds the slot. -/
def State.formatBad (s : State) (ty : Nat) : Bool :=
  decide (s.headWord ty 0 ≠ 0x32514657) || decide (bits (s.headWord ty 1) 0 16 ≠ 512) || decide (bits (s.headWord ty 1) 20 12 ≠ 0) ||
  decide (bits (s.headWord ty 3) 24 8 ≠ 0) || ([5, 6, 7] ++ (List.range 20).map (fun k => 84 + k)).any (fun k => decide (s.headWord ty k ≠ 0)) ||
  decide (slotSize ty < 512 + (s.headWord ty 4).toNat)

/-- Checks 0x01 to 0x05 of a staged image: EMPTY, FORMAT, TYPE, HWREV, FLOOR; 0 where they pass (R452). -/
def State.headCheck (s : State) (ty : Nat) : BitVec 8 :=
  let rev := s.headWord ty 3
  if !(s.img s.fw.trying ty).complete then 1
  else if s.formatBad ty then 2
  else if bits (s.headWord ty 1) 16 4 ≠ ty then 3
  else if Config.hwRev.toNat < bits rev 8 8 ∨ bits rev 16 8 < Config.hwRev.toNat then 4
  else if bits rev 0 7 < s.fw.floor then 5
  else 0

/-- The first check an image fails: the digest and the signature, 0x06 and 0x07, are the command's to say, and so is the digest that is
all the safe set is checked by (R454). -/
def State.checkOf (s : State) (ty : Nat) (c : BitVec 8) : BitVec 8 :=
  if 2 ≤ s.fw.trying ∨ s.presetImg ty then c
  else if s.headCheck ty ≠ 0 then s.headCheck ty
  else if c = 6 ∨ c = 7 then c else 0

/-- The COMPAT entries of image i for type j contain the VERSION of image j (R453). -/
def State.compat (s : State) (i j : Nat) : Bool :=
  decide (s.headWord j 2 ≠ 0) && (List.range 8).any (fun k => decide (s.headWord i (20 + 8 * j + k) = s.headWord j 2))

/-- The first pair of types, in order, that was not tested together; of a pair with an image the spec gives no bytes of, the command's
to say (R453). -/
def State.untestedPair (s : State) (said : Option (Fin 8 × Fin 8)) : Option (Nat × Nat) :=
  ((List.range 64).map (fun n => (n / 8, n % 8))).find? (fun x => decide (x.1 ≠ x.2) &&
    (if s.presetImg x.1 || s.presetImg x.2 then decide (said.map (fun y => (y.1.val, y.2.val)) = some x) else !s.compat x.1 x.2))

/-- RCVRn sampled 5 ms, 8,000,000 LC, after PWRGD, or at a reboot from recovery (Table 17.5). -/
def execRcvrnSample (low : Bool) (s : State) : Ans :=
  let s : State := { s with power := { s.power with rcvrnLow := low } }
  if s.power.pwrgd = true ∧ s.fw.boot = 0 ∧ s.fw.warm = false ∧ s.fw.firstFail.isNone then
    let s := if s.fw.reboot then s else s.advanceTo 8000000
    .next (if low then s.enterRecovery 1 else s)
  else .next s

/-- The set tried is not GOOD: the other A/B set is next, then the safe set or recovery mode (Table 17.4). -/
def State.failSet (s : State) (res : Nat) (untested : Bool) : State :=
  let res : BitVec 24 := BitVec.ofNat 24 (res + 65536 * s.fw.trying)
  let s := (s.setProcs (List.range 8) 1).updFw (fun f => { f with boot := 0 })
  match s.fw.firstFail with
  | none => s.updFw (fun f => { f with firstFail := some (res, untested), trying := 1 - f.firstSet })
  | some (r, u) =>
    if u || untested then s.updFw (fun f => { f with trying := 2, pairFail := if u then r else res })
    else s.enterRecovery 2

/-- MGMT of the set runs. In a warm restart command processing resumes only at its end. -/
def State.startMgmt (s : State) : State :=
  let s := s.updFw (fun f => { f with boot := 1, running := f.trying })
  let s := s.updSys (fun y => { y with mgmtVer := s.runningVer 0 })
  let s := s.updProc 0 (fun p => { p with st := 0 })
  if s.sys.restarting then s else s.resumeMgmt

/-- The boot ROM has checked MGMT of the set it is to try, and started it where it passed. -/
def execBootMgmtStart (set : FwSet) (mgmt : ImgCheck) (s : State) : Ans :=
  if s.power.pwrgd = true ∧ s.fw.boot = 0 ∧ FwSet.num set = s.fw.trying then
    let c := s.checkOf 0 mgmt.code
    let s := s.setCheck 0 c
    .next (if c = 0 then s.startMgmt else if s.fw.trying = 2 then s.enterRecovery 3 else s.failSet c.toNat false)
  else .next s

/-- The lowest SVN of a set's eight images. -/
def State.lowestSvn (s : State) (set : Nat) : Nat :=
  (List.range 8).foldl (fun m t => min m (bits (imgWord (s.img set t) (8 * set + t) 3) 0 7)) 127

/-- The security floor rises to the lowest SVN of the set that runs (R456). -/
def State.raiseFloor (s : State) : State :=
  let n := s.lowestSvn s.fw.running
  let old := s.fw.floor
  if s.fw.running < 2 ∧ old < n then (s.updFw (fun f => { f with floor := n })).fault 0xE06 0 .p none 0 [word old, word n] else s

/-- FW_ACTIVATED (Table 17.12). -/
def State.logActivated (s : State) (us : Nat) : State := s.fault 0xE01 0 .p none 0 [word s.fw.running, s.sys.mgmtVer, word us]

/-- What choosing a second set, or the safe set, is recorded as (Table 17.4). -/
def State.logChoice (s : State) : State :=
  if s.fw.running = 2 then s.fault 0xE04 3 .p none 0 [word s.fw.pairFail.toNat]
  else if s.fw.firstFail.isNone then s
  else if s.fw.warm ∨ s.fw.reboot then s.fault 0xE02 0 .p none 0 [word s.fw.rejection]
  else s.fault 0xE03 3 .p none 0 [word s.fw.rejection]

/-- HBM3 training is complete (Table 2.8): a pseudo-channel that has not failed is in TEST. -/
def State.trainMem (s : State) : State :=
  (s.each (List.range 64) (fun k s => if (s.pc k).phase = .start then (s.retrained k).updPc k (fun p => { p with phase := .test }) else s)).updMem
    (fun m => { m with trained := true })

/-- The set tried is GOOD, or is the safe set: it is the running set. After a power-up or a reboot the memory has trained and the
power-up SELF starts; a warm restart does neither (R463). -/
def State.goodSet (s : State) : State :=
  let t := s.fw.trying
  let switch := decide (t < 2) && s.fw.firstFail.isNone && (s.fw.warm || s.fw.reboot)
  let s := s.updFw (fun f => { f with boot := 2, preferred := if switch then t else f.preferred })
  let s := if t < 2 then (s.unstage t).raiseFloor else s
  let s := s.logChoice
  if s.fw.warm then s
  else
    let s := if s.fw.reboot && switch then s.logActivated ((s.lc - s.fw.warmAt) / 1600) else s
    let s := if s.fw.reboot && decide (t < 2) && !switch then s.updFw (fun f => { f with rejects := sat 65535 (f.rejects + 1) }) else s
    ((s.updFw (fun f => { f with reboot := false, firstFail := none })).setProcs (List.range 8) 0).trainMem.startSelf

/-- The first image, in type order from 1, that failed a check: code and type. -/
def firstBad : List (BitVec 8) → Nat → Option (Nat × Nat)
  | [], _ => none
  | c :: cs, n => if c = 0 then firstBad cs (n + 1) else some (c.toNat, n)

def markChecks : List (BitVec 8) → Nat → State → State
  | [], _, s => s
  | c :: cs, n, s => markChecks cs (n + 1) (s.setCheck n c)

/-- The checks of the images of types 1 to 7 of the set tried. -/
def State.checksOf (s : State) (checks : List ImgCheck) : List (BitVec 8) :=
  (List.range 7).map (fun n => s.checkOf (n + 1) (checks.getD n {}).code)

/-- MGMT has checked the other images, and loaded them where they passed. -/
def execBootImagesLoaded (checks : List ImgCheck) (untested : Option (Fin 8 × Fin 8)) (digestFail : Bool) (s : State) : Ans :=
  if s.power.pwrgd = true ∧ s.fw.boot = 1 ∧ s.sys.recovery = false then
    if s.fw.trying = 2 then .next (if digestFail then s.enterRecovery 3 else s.goodSet)
    else
      let cs := s.checksOf checks
      let s := markChecks cs 1 s
      .next (match firstBad cs 1, s.untestedPair untested with
        | some (c, t), _ => s.failSet (c + 256 * t) false
        | none, some (i, j) => (s.setCheck i 0x08).failSet (0x08 + 256 * i + 4096 * j) true
        | none, none => s.goodSet)
  else .next s

/-- Check 0x09: MGMT before it runs, or another image after its loading. -/
def execImageStartTimeout (type : Fin 8) (s : State) : Ans :=
  if s.power.pwrgd = true ∧ s.sys.recovery = false ∧ s.fw.trying < 2 ∧ s.fw.boot < 2 ∧ (s.fw.boot = 0 ↔ type.val = 0) then
    .next ((s.setCheck type 0x09).failSet (0x09 + 256 * type.val) false)
  else .next s

/-! ### The warm restart (R463, R464, R470) -/

/-- In lane cycle T every processor is held in reset; packets end as Table 16.2 states. -/
def execWarmRestart (s : State) : Ans :=
  match s.activation with
  | some t =>
    if s.fw.sched = 2 then
      let s := s.advanceTo (s.lcAt t.act)
      let s : State := { s with sched := s.sched.filter (fun x => decide (x.run.op ≠ .fwSchedule)), jobs := s.jobs ++ [{ run := { t.run with born := s.lc }, kind := .fwSchedule }] }
      let s := (s.setProcs (List.range 8) 1).updSys (fun y => { y with ready := false, restarting := true })
      let first := s.fw.inactive
      let s := s.updFw (fun f => { f with
        sched := 3, restarts := sat 65535 (f.restarts + 1), warm := true, warmAt := s.lc, boot := 0, firstSet := first, trying := first, firstFail := none })
      let s := (s.dropJobs (fun j => decide (j.kind = .sync))).updClk (fun k => { k with arm := none })
      .next (s.abandonPackets.abandonBatch 3)
    else .next s
  | none => .next s

/-- The restart has taken `durationUs`: command processing resumes and FW_SCHEDULE completes. -/
def execWarmRestartEnd (durationUs : Nat) (s : State) : Ans :=
  if s.fw.warm = true ∧ s.sys.restarting = true ∧ s.fw.boot = 2 then
    let s := s.advanceTo (s.fw.warmAt + 1600 * durationUs)
    let s := (s.setProcs (List.range 8) 0).updSys (fun y => { y with ready := true, restarting := false })
    let s := s.enterHeld
    let s := if s.fw.firstFail.isNone then
        let js := s.jobs.filter (fun j => decide (j.kind = .fwSchedule))
        (js.foldl (fun s j => s.completeAt j.run .ok durationUs j.run.p.act) (s.dropJobs (fun j => decide (j.kind = .fwSchedule)))).logActivated durationUs
      else s.rejectSchedule
    let s := s.updFw (fun f => { f with sched := 0, actTime := 0, warm := false, firstFail := none })
    .next s.applyHeld.release
  else .next s

/-! ### The recovery window (R467, Tables 17.8 to 17.10) -/

/-- A write of FW_RCV_CMD: `buf` is what the host has put into the buffer from its start. -/
def State.rcvCmd (s : State) (v : W32) (buf : List Byte) : State :=
  if !s.sys.recovery then s else
  let ty := bits v 0 4
  let s := s.updFw (fun f => { f with rcvImage := ty, rcvFinal := bit v 9, rcvBuf := Tbl.setMany 0 f.rcvBuf 0 (buf.take 983040) })
  let off := s.fw.rcvOffset
  let len := s.fw.rcvLen
  let s := if !bit v 8 then s
    else if !slotRange ty off len || decide (983040 < len) then s.updFw (fun f => { f with rcvStatus := 0x21 })
    else if s.staging ty then s.updFw (fun f => { f with rcvStatus := 0x12 })
    else (s.writeSlot ty off (Tbl.getMany 0 s.fw.rcvBuf 0 len) (bit v 9)).updFw (fun f => { f with rcvStatus := 0, rcvWrites := sat 65535 (f.rcvWrites + 1) })
  if bit v 10 then s.rebootRecovery else s

def execFwRcvCmdWrite (v : W32) (buf : List Byte) (s : State) : Ans := .next (s.rcvCmd v buf)
def execFwRcvCmdReboot (v : W32) (s : State) : Ans := .next (s.rcvCmd v [])

end Sys2Proof.Machine
end

