-- ==== Sys2Proof/Machine/UartSmb.lean ====
section
/-! DEFINITION. The service UART (spec/17_firmware_boot_update.md R468) and the SMBus target
(spec/02_module_connectors_power.md R49). The UART's framing and CRC are the link's: a command is a frame that has been taken, an
answer is its contents. -/
namespace Sys2Proof.Machine

/-! ### The service UART -/

/-- The answer to a frame: TYPE + 0x80 and a payload that begins with a status. The UART needs PWRGD high. -/
def State.uartReply (s : State) (type : BitVec 8) (st : Status) (d : List Byte) : State :=
  if s.power.pwrgd then s.emit (.uart (type + 0x80) (BitVec.ofNat 8 (statusByte st) :: d)) else s

def execUartPing (echo : W32) (s : State) : Ans := .next (s.uartReply 0x01 .ok (bytesOf echo))

/-- The fields of a WRITE frame are in range (Table 17.11). -/
def uartWriteOk (image final : BitVec 8) (off : W32) (data : List Byte) : Bool :=
  decide (final.toNat ≤ 1) && decide (4 ≤ data.length) && decide (data.length ≤ 4096) && slotRange image.toNat off.toNat data.length

def execUartWrite (image final : BitVec 8) (off : W32) (data : List Byte) (s : State) : Ans :=
  .next (if !s.power.pwrgd then s
    else if !s.sys.recovery then s.uartReply 0x02 .notOwner []
    else if !uartWriteOk image final off data then s.uartReply 0x02 .badParam []
    else if s.staging image.toNat then s.uartReply 0x02 .busy []
    else (s.writeSlot image.toNat off.toNat data (decide (final = 1))).uartReply 0x02 .ok [])

def execUartStatus (s : State) : Ans := .next (s.uartReply 0x03 .ok (viewBytes (viewFw s) 0 8))

/-- The reply is sent before the reboot (R467). -/
def execUartReboot (s : State) : Ans :=
  .next (if !s.power.pwrgd then s
    else if !s.sys.recovery then s.uartReply 0x04 .notOwner []
    else (s.uartReply 0x04 .ok []).rebootRecovery)

/-- The UART reads every record in full, as function PF0 does. -/
def execUartLog (first count : BitVec 16) (s : State) : Ans :=
  .next (if decide (1 ≤ count.toNat) && decide (count.toNat ≤ 32) && decide (first.toNat < 4096)
    then s.uartReply 0x05 .ok (s.logBytes 0 first.toNat count.toNat) else s.uartReply 0x05 .badParam [])

/-- A gap of more than 10 ms discards the frame: nothing is answered and nothing changes. -/
def execUartFrameDiscard (s : State) : Ans := .next s

/-- A bad CRC is answered with TYPE 0xFF, an unknown TYPE with BAD_OPCODE. -/
def execUartBadFrame (badCrc : Bool) (type : BitVec 8) (s : State) : Ans :=
  .next (if badCrc then s.uartReply 0x7F .badParam []
    else if decide (1 ≤ type.toNat) && decide (type.toNat ≤ 5) then s else s.uartReply type .badOpcode [])

/-! ### SMBus status (Table 2.11; bit places of PMBus 1.3) -/

def State.statusInput (s : State) : Nat := 128 * b2n s.smb.vinOv + 16 * b2n s.smb.vinUv + 8 * b2n s.smb.unitOff
/-- OT_WARNING is live: a die is at WARN or above. -/
def State.statusTemp (s : State) : Nat := 128 * b2n s.smb.otFault + 64 * b2n (decide (1 ≤ s.tmp.level))
def State.statusCml (s : State) : Nat := 128 * b2n s.smb.cmlInvalid + 32 * b2n s.smb.cmlPec
def State.statusLow (s : State) : Nat :=
  64 * b2n (!s.power.pwrgd) + 8 * b2n s.smb.vinUv + 4 * b2n (decide (s.statusTemp ≠ 0)) + 2 * b2n (decide (s.statusCml ≠ 0)) + b2n s.smb.vinOv
def State.statusHigh (s : State) : Nat := 32 * b2n (decide (s.statusInput ≠ 0)) + 8 * b2n (!s.power.pwrgd)

/-- SMBALERTn is asserted (driven low). -/
def State.smbAlert (s : State) : Bool := decide (s.statusInput ≠ 0) || decide (s.statusTemp ≠ 0)

def smbByte (n : Nat) : List Byte := [BitVec.ofNat 8 n]
def smbWord (v : BitVec 16) : List Byte := [v.extractLsb' 0 8, v.extractLsb' 8 8]
def smbBlock (d : List Byte) : List Byte := BitVec.ofNat 8 d.length :: d

/-- The packet error checking byte of SMBus 3.1: CRC-8 with x^8 + x^2 + x + 1 over every byte of the transfer. PRESUMED, log entry 69. -/
def pecByte (l : List Byte) : Byte :=
  l.foldl (fun c b => (List.range 8).foldl (fun x _ => if x.msb then (x <<< 1) ^^^ 0x07 else x <<< 1) (c ^^^ b)) 0

/-- The target's 7-bit address. -/
def State.smbTarget (s : State) : Nat := 0x58 + s.power.smbAddr.toNat

/-- The address byte of a write (0) or a read (1). -/
def State.smbHead (s : State) (rd : Nat) : Byte := BitVec.ofNat 8 (2 * s.smbTarget + rd)

/-- The always-on domain runs while P3V3AUX is in range. -/
def State.smbUp (s : State) : Bool := decide (s.power.p3v3 = .ok)

/-- The answer to a read of a command code, with its error checking byte; without P3V3AUX there is none. -/
def State.smbSend (s : State) (code : Byte) (d : List Byte) : State :=
  if s.smbUp then s.emit (.smb (d ++ [pecByte ([s.smbHead 0, code, s.smbHead 1] ++ d)])) else s

/-- Latched bits clear, apart from those whose condition remains: an under-voltage until the supply is in range or too high, an
over-voltage until it is in range or too low. DESIGN CHOICE, log entry 69: P12V comes back into range at POWER_UP. -/
def State.clearLatched (s : State) : State :=
  if !s.smbUp then s
  else { s with smb := { s.smb with
    vinOv := s.smb.vinOv && decide (s.power.p12v = .high), vinUv := s.smb.vinUv && decide (s.power.p12v = .under)
    unitOff := s.smb.unitOff && decide (s.power.p12v = .under)
    otFault := s.smb.otFault && decide (s.tmp.level = 3), cmlInvalid := false, cmlPec := false } }

def execClearFaults (s : State) : Ans := .next s.clearLatched

def execCapability (s : State) : Ans := .next (s.smbSend 0x19 [0xB0])
def execStatusByte (s : State) : Ans := .next (s.smbSend 0x78 (smbByte s.statusLow))
def execStatusWord (s : State) : Ans := .next (s.smbSend 0x79 (smbByte s.statusLow ++ smbByte s.statusHigh))
def execStatusInput (s : State) : Ans := .next (s.smbSend 0x7C (smbByte s.statusInput))
def execStatusTemperature (s : State) : Ans := .next (s.smbSend 0x7D (smbByte s.statusTemp))
def execStatusCml (s : State) : Ans := .next (s.smbSend 0x7E (smbByte s.statusCml))

/-! ### SMBus readings -/

/-- The command code is refused, and the invalid-command bit set. -/
def State.smbRefuse (s : State) : State :=
  if s.smbUp then ({ s with smb := { s.smb with cmlInvalid := true } } : State).emit .smbNack else s

def execReadVin (s : State) : Ans := .next (s.smbSend 0x88 (smbWord s.smb.readings.vin))
def execReadIin (s : State) : Ans := .next (s.smbSend 0x89 (smbWord s.smb.readings.iin))
def execReadPin (s : State) : Ans := .next (s.smbSend 0x97 (smbWord s.smb.readings.pin))
def execReadTemperature1 (s : State) : Ans := .next (s.smbSend 0x8D (smbWord s.smb.readings.temp1))
def execReadTemperature2 (s : State) : Ans :=
  .next (if s.power.pwrgd then s.smbSend 0x8E (smbWord s.smb.readings.temp2) else s.smbRefuse)
def execReadTemperature3 (s : State) : Ans :=
  .next (if s.power.pwrgd then s.smbSend 0x8F (smbWord s.smb.readings.temp3) else s.smbRefuse)
def execPmbusRevision (s : State) : Ans := .next (s.smbSend 0x98 [0x33])
/-- "ABAPANY" and "ZD-3251". -/
def mfrIdText : List Byte := [0x41, 0x42, 0x41, 0x50, 0x41, 0x4E, 0x59]
def mfrModelText : List Byte := [0x5A, 0x44, 0x2D, 0x33, 0x32, 0x35, 0x31]
def execMfrId (s : State) : Ans := .next (s.smbSend 0x99 (smbBlock mfrIdText))
def execMfrModel (s : State) : Ans := .next (s.smbSend 0x9A (smbBlock mfrModelText))
def execMfrRevision (s : State) : Ans := .next (s.smbSend 0x9B (smbBlock Config.revText))
def execMfrSerial (s : State) : Ans := .next (s.smbSend 0x9E (smbBlock Config.serialText))

/-- Every 10 ms. -/
def execSmbReadingRefresh (r : SmbReadings) (s : State) : Ans := .next { s with smb := { s.smb with readings := r } }

/-- The transfer carries CLEAR_FAULTS and one byte after it, which the target takes as its packet error checking byte. -/
def clearPec (code : BitVec 8) : SmbXfer → Option Byte
  | .write [p] => if code = 0x03 then some p else none
  | _ => none

/-- Any other write, or another command code. CLEAR_FAULTS with a wrong packet error checking byte is refused, does nothing and sets the
PEC bit; spelled with a right one, or with none, it clears. -/
def execSmbOtherCommand (xfer : SmbXfer) (code : BitVec 8) (s : State) : Ans :=
  .next (if xfer = .write [] ∧ code = 0x03 then s.clearLatched
    else match clearPec code xfer with
    | none => s.smbRefuse
    | some p =>
      if p = pecByte [s.smbHead 0, 0x03] then s.clearLatched
      else if s.smbUp then ({ s with smb := { s.smb with cmlPec := true } } : State).emit .smbNack
      else s)

end Sys2Proof.Machine
end

