-- ==== Sys2Proof/Machine/HostIf.lean ====
section
/-! DEFINITION. The host interface: writes of registers without a row of their own, configuration requests, the link and its
events, and Function Level Resets (spec/04_host_interface_commands.md R90, R91, R97 to R99, spec/19_register_reference.md R472 to
R479). -/
namespace Sys2Proof.Machine

/-! ### Register writes (R473) -/

/-- A write-1-to-clear field of n bits at bit `lo`. -/
def w1c {n : Nat} (old : BitVec n) (v : W32) (lo : Nat) : BitVec n := old &&& ~~~((v >>> lo).setWidth n)

def State.writeSys (s : State) (o : Nat) (v : W32) : State :=
  match o with
  | 0x04 => s.updSys (fun y => { y with linkHold := bit v 0 })
  | 0x10 => s.updSys (fun y => { y with irqFault := y.irqFault && !bit v 0 })
  | 0x14 => s.updSys (fun y => { y with irqWas := some (s.lc, y.ripe s.lc), irqShadow := v.setWidth 5 })
  | 0x18 => s.commitSys v
  | _ => s

/-- SAT_SUM and SAT_OUT: the count clears with its flag, and FIRST once both are clear (Tables 7.10, 7.11). -/
def Summer.clear (m : Summer) (v : W32) : Summer :=
  let m := if bit v 8 then { m with satSum := false, sumLc := 0 } else m
  let m := if bit v 9 then { m with satOut := false, outLc := 0 } else m
  if m.satSum || m.satOut then m else { m with first := 0 }

def State.writeEvt (s : State) (o : Nat) (v : W32) : State :=
  if 0x1000 ≤ o ∧ o < 0x3000 ∧ o % 8 = 0 then s.updCon ((o - 0x1000) / 8) (fun c => { c with overrun := c.overrun && !bit v 1 })
  else if 0x3000 ≤ o ∧ o < 0x4000 then
    s.each [0, 1, 2, 3] (fun j s => if bit v (8 * j + 7) then s.updJump ((o - 0x3000) / 4) j (fun x => { x with overrun := false }) else s)
  else if 0x4000 ≤ o ∧ o < 0x4080 ∧ o % 8 = 0 then s.updEo ((o - 0x4000) / 8) (fun e => { e with overrun := e.overrun && !bit v 1 })
  else s

/-- A half of CAL_WALL; the other goes on as it stands (R420). -/
def State.writeWall (s : State) (hi : Bool) (v : W32) : State :=
  let w := s.wallNow
  s.updCal (fun c => { c with wall := if hi then w64 (lo32 w) v else w64 v (hi32 w), wallAt := s.lc })

/-- A 4-byte write in a block window of function PF0. -/
def State.writeBlock (s : State) (w o : Nat) (v : W32) : State :=
  if s.sys.recovery && !servedInRecovery w then s else
  match w with
  | 0 => s.writeSys o v
  | 1 => if o = 0x04 then s.updClk (fun k => { k with events := w1c k.events v 0 }) else s
  | 2 => if o = 0x8000 then { s with ctxSel := bits v 0 10 } else s
  | 4 => if 0x8000 ≤ o ∧ o < 0x8200 ∧ o % 16 = 0 then s.updSummer ((o - 0x8000) / 16) (fun m => m.clear v) else s
  | 5 => if o < 0x800 ∧ o % 64 = 0x0C then s.updFch (o / 64) (fun f => { f with events := w1c f.events v 0 }) else s
  | 6 => if o < 0x400 ∧ o % 64 = 0x28 then s.updPch (o / 64) (fun p => { p with events := w1c p.events v 0 }) else s
  | 7 => if o = 0x18 then s.requestMaint v else s
  | 9 => if o < 0x800 ∧ o % 16 = 4 then s.bankNext (o / 16) v else s
  | 10 => s.writeEvt o v
  | 13 => if o = 0x08 then s.writeWall false v else if o = 0x0C then s.writeWall true v else s
  | 17 => if o = 0x04 then { s with tmp := { s.tmp with events := w1c s.tmp.events v 0 } } else s
  | _ => s

/-- A 4-byte write in a function's window (Table 4.3). -/
def State.writeFnWin (s : State) (f o : Nat) (v : W32) : State :=
  match o with
  | 0x10 => s.fnFire f v
  | 0x14 => s.fnStrobe f v
  | _ => if (0x100 ≤ o ∧ o < 0x300) ∨ (0x400 ≤ o ∧ o < 0x600) then s.ringReg f o v else s

/-- A 4-byte write in the recovery window: the buffer lies at 0x1_0000 of it (Tables 17.8 to 17.10). -/
def State.writeRcv (s : State) (o : Nat) (v : W32) : State :=
  match o with
  | 0x00 => s.rcvCmd v []
  | 0x08 => s.updFw (fun f => { f with rcvOffset := v.toNat })
  | 0x0C => s.updFw (fun f => { f with rcvLen := bits v 0 20 })
  | _ => if 0x10000 ≤ o then s.updFw (fun f => { f with rcvBuf := Tbl.setMany 0 f.rcvBuf (o - 0x10000) (bytesOf v) }) else s

/-- A 4-byte write at an aligned offset of a function's BAR0 (Table 4.2); reserved offsets ignore it. -/
def State.writeBar (s : State) (f a : Nat) (v : W32) : State :=
  if f = 0 then
    if a < 0x120000 then s.writeBlock (a / 65536) (a % 65536) v
    else if 0x200000 ≤ a ∧ a < 0x210000 then s.writeFnWin 0 (a - 0x200000) v
    else if 0x300000 ≤ a ∧ s.sys.recovery = true then s.writeRcv (a - 0x300000) v
    else s
  else if s.fnLive f ∧ a < 0x10000 then s.writeFnWin f a v
  else s

/-- A 4-byte write in the MSI-X table, 16 bytes a vector as the PCI Express Base Specification lays it out: address, data and
the mask bit. A vector that is unmasked with its pending bit set is due. -/
def State.writeMsix (s : State) (f a : Nat) (v : W32) : State :=
  if !s.fnLive f || decide (512 ≤ a) then s else
  let k := a / 16
  if a % 16 < 12 then s.updFn f (fun w => { w with msix := Tbl.set 0 w.msix (a / 4) v })
  else if bit v 0 then s.updFn f (fun w => { w with vecOpen := w.vecOpen.filter (fun x => decide (x ≠ k)) })
  else s.updFn f (fun w => { w with
    vecOpen := insertNat k w.vecOpen
    vecPending := if w.pba.contains k && !w.msixMask then insertNat k w.vecPending else w.vecPending
    pba := if w.msixMask then w.pba else w.pba.filter (fun x => decide (x ≠ k)) })

/-- A write that is not aligned to its size is ignored; 8 bytes are two writes in ascending order. -/
def execRegisterWrite (fn : Fin 64) (bar2 : Bool) (addr : BitVec 22) (wide : Bool) (v : W64) (s : State) : Ans :=
  let a := addr.toNat
  let put := fun (s : State) (a : Nat) (v : W32) => if bar2 then s.writeMsix fn a v else s.writeBar fn a v
  .next (if !s.power.pwrgd then s
    else if wide then (if a % 8 = 0 then put (put s a (lo32 v)) (a + 4) (hi32 v) else s)
    else if a % 4 = 0 then put s a (lo32 v) else s)

/-! ### Function Level Resets (R97, R98, Table 19.16) -/

/-- R97 on one function; its held ring writes go with its window. -/
def State.flrFn (s : State) (f : Nat) : State :=
  (s.flr f).updSys (fun y => { y with heldWrites := y.heldWrites.filter (fun w => decide (w.1 ≠ f)) })

def State.countFlr (s : State) : State := s.updSys (fun y => { y with flrs := sat 65535 (y.flrs + 1) })

/-- The virtual functions that exist. -/
def State.vfs (s : State) : List Nat := if s.sys.vfEnable then (List.range s.sys.numVfs).map (fun k => k + 1) else []

/-- VF Enable is cleared, which resets every virtual function. -/
def State.dropVfs (s : State) : State :=
  let s := s.each s.vfs (fun f s => s.flrFn f)
  s.updSys (fun y => { y with vfEnable := false })

/-- A firmware activation is cancelled with its packet (Table 17.7), an armed SYNC with its own, and a restore not yet committed. -/
def State.dropPf0 (s : State) : State :=
  let s := if s.fw.sched = 1 ∨ s.fw.sched = 2 then s.unschedule else s
  let s := s.updClk (fun k => { k with arm := none })
  if (s.cal.batch.map (fun b => b.kind)) = some 3 then s.closeBatch else s

/-- What a Function Level Reset of function PF0 does. -/
def State.flr0 (s : State) : State :=
  let s := (s.dropVfs.flrFn 0).dropPf0
  let s := s.each (List.range 64) (fun f s => s.updFn f (fun _ => {}))
  s.updSys (fun y => { y with numVfs := 0, cplTimeout := 0, irqFault := false, irqShadow := 0, irqForce := 0, irqWas := none, heldWrites := [] })

def execFlrVf (fn : Fin 64) (s : State) : Ans :=
  .next (if s.power.pwrgd && decide (fn.val ≠ 0) && s.fnLive fn then (s.flrFn fn).countFlr else s)

/-- The return of a virtual function from D3hot acts as its reset. -/
def execD3hotToD0 (fn : Fin 64) (s : State) : Ans :=
  .next (if s.power.pwrgd && decide (fn.val ≠ 0) && s.fnLive fn then s.flrFn fn else s)

def execFlrPf0 (s : State) : Ans := .next (if s.power.pwrgd then s.flr0.countFlr else s)

/-! ### Configuration requests (R90, R91) -/

/-- NumVFs that the endpoint accepts. -/
def State.numVfsOk (s : State) (n : Nat) (ari : Bool) : Bool := !s.sys.recovery && decide (n ≤ if ari then 63 else 7)

/-- The SR-IOV control fields: NumVFs is taken while VF Enable is clear; clearing VF Enable resets every virtual function. -/
def State.writeSriov (s : State) (en : Bool) (n : Nat) (ari : Bool) : State :=
  let s := if s.sys.vfEnable && !en then s.dropVfs else s
  let s := if !s.sys.vfEnable && s.numVfsOk n ari then s.updSys (fun y => { y with numVfs := n }) else s
  if en && !s.sys.recovery then s.updSys (fun y => { y with vfEnable := true }) else s

/-- What a function's configuration space shows. -/
def State.cfgItem (s : State) (f : Nat) : CfgItem → Nat
  | .vendorId => Config.vendorId.toNat
  | .deviceId => if f = 0 then 0x3251 else 0x3252
  | .classCode => 0x118000
  | .maxPayload => 512
  | .maxReadRequest => 4096
  | .maxSpeed => 5
  | .maxWidth => 8
  | .flr | .ari | .aer | .ecrc | .tenBitTags => 1
  | .totalVfs => if f = 0 ∧ s.sys.recovery = false then 63 else 0
  | .numVfs => if f = 0 then s.sys.numVfs else 0
  | .vfEnable => if f = 0 then b2n s.sys.vfEnable else 0
  | .msixVectors => 32
  | .msixEnable => b2n (s.fnWin f).msixOn
  | .functionMask => b2n (s.fnWin f).msixMask
  | .timeoutRanges => 0xF
  | .timeoutValue => s.sys.cplTimeout.toNat
  | .noSoftReset | .unsupported => 0

/-- The MSI-X control bits of a function: pending vectors that nothing masks any more are due. -/
def FnWin.ctrlMsix (w : FnWin) (on mask : Bool) : FnWin :=
  let open_ := w.pba.filter (fun k => !mask && w.vecOpen.contains k)
  { w with msixOn := on, msixMask := mask, pba := w.pba.filter (fun k => !open_.contains k), vecPending := open_.foldl (fun l k => insertNat k l) w.vecPending }

/-- A write of the configuration space. -/
def State.cfgWrite (s : State) (f : Nat) : CfgReq → State
  | .writeSriov en n ari => if f = 0 then s.writeSriov en n.toNat ari else s
  | .writeMsix on mask => if s.fnLive f then s.updFn f (fun w => w.ctrlMsix on mask) else s
  | .writeTimeout v => if f = 0 then s.updSys (fun y => { y with cplTimeout := v }) else s
  | .spaceLoaded | .read _ => s

/-- Request Retry Status until the boot ROM has loaded the configuration space. -/
def execConfigurationRequest (fn : Fin 64) (r : CfgReq) (s : State) : Ans :=
  .next (if !s.power.pwrgd then s else
    match r with
    | .spaceLoaded => s.updSys (fun y => { y with cfgLoaded := true })
    | .read item => s.emit (.config (if s.sys.cfgLoaded then some (s.cfgItem fn item) else none))
    | w => if s.sys.cfgLoaded then (s.cfgWrite fn w).emit (.config (some 0)) else s.emit (.config none))

/-! ### The link (R44, R99) -/

/-- The link has trained: PERSTn is deasserted and PWRGD high. -/
def execLinkTraining (width : BitVec 4) (speed : BitVec 3) (s : State) : Ans :=
  if s.power.pwrgd then
    .next { s with power := { s.power with perst := false }, sys := { s.sys with width := width, speed := speed } }
  else .next s

/-- Every ring's ENABLE is cleared; all other fields of the windows are kept. -/
def State.disableRings (s : State) : State :=
  s.each (List.range 64) (fun f s => s.updFn f (fun w => { w with
    rings := Tbl.mapVals {} (fun _ k => { k with enable := false }) w.rings
    cqs := Tbl.mapVals {} (fun _ k => { k with enable := false }) w.cqs
    vecPending := [], msixOn := false, msixMask := false }))

/-- PERSTn assertion, hot reset and link-down. -/
def execLinkEvent (e : LinkEvent) (s : State) : Ans :=
  let asserts := decide (e = .perst)
  if !s.power.pwrgd then
    .next (if asserts then { s with power := { s.power with perst := true } } else s)
  else
    let s : State := { s with
      power := { s.power with perst := s.power.perst || asserts }
      sys := { s.sys with width := 0, speed := 0, linkEvents := sat 65535 (s.sys.linkEvents + 1) } }
    if s.sys.linkHold then
      .next ((s.disableRings.updSys (fun y => { y with vfEnable := false, numVfs := 0, cplTimeout := 0 })).fault 0x904 0 .p none 0 [])
    else .next s.flr0

end Sys2Proof.Machine
end

