-- ==== Sys2Proof/Machine/Thermal.lean ====
section
/-! DEFINITION. Processor watchdogs and restarts, and the thermal levels (spec/16_faults_recovery_thermal.md R426 to R431, R441 to
R446). -/
namespace Sys2Proof.Machine

/-! ### Processor restarts (R427, R428) -/

/-- The restarts of a processor in the last 60 s, 96,000,000,000 LC. -/
def State.recentRestarts (s : State) (p : Nat) : List Nat := (s.proc p).restarts.filter (fun t => decide (s.lc < t + 96000000000))

/-- The third restart within 60 s is not attempted. -/
def State.thirdRestart (s : State) (p : Nat) : Bool := decide (2 ≤ (s.recentRestarts p).length)

/-- The processor runs from the image loaded for it, outside a boot and a warm restart. -/
def State.procRuns (s : State) (p : Nat) : Bool :=
  s.power.pwrgd && decide ((s.proc p).st = 0) && !s.sys.restarting && decide (if p = 0 then 1 ≤ s.fw.boot else s.fw.boot = 2) && !s.sys.recovery

def State.restartProc (s : State) (p : Nat) : State :=
  let l := s.recentRestarts p
  s.updProc p (fun x => { x with st := 1, restarts := l ++ [s.lc] })

/-- It is held stopped until the next power-up. -/
def State.holdProc (s : State) (p : Nat) : State := s.updProc p (fun x => { x with st := 2 })

/-- 100 ms without a watchdog service: packets end as Table 16.2 states, and the device restarts it or enters recovery mode. -/
def execMgmtWatchdog (s : State) : Ans :=
  .next (if !s.procRuns 0 then s
    else if s.thirdRestart 0 then ((s.fault 0xA02 5 .p none 0 []).abandonPackets).enterRecovery 4
    else ((s.restartProc 0).fault 0xA01 2 .p none 0 []).abandonPackets)

/-- 50 ms without a heartbeat to the management processor, from the calibration or the memory-PHY processor. A SELF or TRACE is
abandoned with the calibration processor (R424). -/
def execProcHeartbeatLoss (memPhy : Bool) (s : State) : Ans :=
  let p := if memPhy then 2 else 1
  .next (if !s.procRuns p || !s.mgmtUp then s
    else
      let held := s.thirdRestart p
      let s := if held then (s.holdProc p).fault 0xA04 5 .p none p [] else (s.restartProc p).fault 0xA03 2 .p none p []
      if memPhy then s else
        let s := s.abandonBatch 3
        if held then s.updCal (fun c => { c with bgRun := false }) else s)

/-- The contexts that hold a channel of a converter die. -/
def State.dieHolders (s : State) (n : Nat) : List Nat :=
  (dieChannels n).foldl (fun l c => match s.chCtx c with | some x => insertNat x l | none => l) []

/-- A record on each of the contexts and function PF0, or on function PF0 alone. -/
def State.tellHolders (s : State) (cs : List Nat) (code unit : Nat) : State :=
  if cs.isEmpty then s.fault code 2 .p none unit [] else cs.foldl (fun s c => s.fault code 2 .cAndP (some c) unit []) s

/-- 10 ms without a watchdog service: converter controller n, or the precision controller. -/
def execCtrlWatchdog (n : Fin 5) (s : State) : Ans :=
  let p := 3 + n.val
  .next (if !s.procRuns p then s
    else if n.val < 4 then
      if s.thirdRestart p then
        ((s.holdProc p).fault 0xA06 5 .p none p []).each (dieChannels n) (fun c s => s.failFch c)
      else (s.restartProc p).tellHolders (s.dieHolders n) 0xA05 p
    else if s.thirdRestart p then
      ((s.holdProc p).fault 0xA0A 5 .p none p []).each (List.range 16) (fun k s => s.failPch k)
    else (s.restartProc p).tellHolders (s.pchHolders.map (fun e => e.1)) 0xA09 p)

/-- A restarted processor runs again. The management processor reloads the others. -/
def execProcessorRestartEnd (p : Fin 8) (s : State) : Ans :=
  .next (if !s.power.pwrgd || decide ((s.proc p).st ≠ 1) || s.sys.restarting || s.sys.recovery then s
    else if p = 0 then (if 1 ≤ s.fw.boot then (s.updProc 0 (fun x => { x with st := 0 })).resumeMgmt else s)
    else if s.fw.boot = 2 ∧ s.mgmtUp = true then s.updProc p (fun x => { x with st := 0 })
    else s)

/-! ### Temperature (R441 to R446) -/

/-- The highest level of any sensor. -/
def State.topLevel (s : State) : Nat := (List.range 9).foldl (fun m k => max m (s.sensor k).level) 0

/-- Detail form T. -/
def detT (level : Nat) (reading : BitVec 16) (thr : Int) : List W32 :=
  [word level, word reading.toNat, word (BitVec.ofInt 16 thr).toNat]

def State.tmpEvent (s : State) (i : Nat) : State := { s with tmp := { s.tmp with events := orBits s.tmp.events i } }

/-- The device enters a level: WARN, LIMIT or SHUT. -/
def State.enterLevel (s : State) (k : Nat) (v : BitVec 16) (l : Nat) : State :=
  let s := if l ≤ 2 then s.tmpEvent (l - 1) else s
  s.fault (0xB00 + l) 0 .a none k (detT l v (levelThr l))

/-- A reading that ends a run of 20 ms: the sensor takes its new level, and the device the highest of all. A reading that changes no
level, or gives another than the command names, is only a reading. -/
def execTempLevelChange (sensor : Fin 9) (reading : BitVec 16) (level : Fin 4) (s : State) : Ans :=
  if !s.power.pwrgd then .next s else
  let k := sensor.val
  let s := s.readSensor k reading
  let old := (s.sensor k).level
  if (s.sensor k).levelAt s.lc ≠ level.val ∨ level.val = old then .next s else
  let s := s.updSensor k (fun x =>
    { x with level := level, transitions := sat 65535 (x.transitions + (max old level - min old level)) }.track reading s.lc)
  let dev := s.tmp.level
  let s : State := { s with tmp := { s.tmp with level := s.topLevel } }
  let new := s.tmp.level
  if new < dev then
    .next ((s.tmpEvent 2).fault 0xB04 0 .a none k (detT new reading (levelThr dev - 768)))
  else
    let s := s.each ((List.range (new - dev)).map (fun i => dev + 1 + i)) (fun l s => s.enterLevel k reading l)
    .next (if dev < new ∧ new = 3 then
      ({ s with smb := { s.smb with otFault := true } } : State).shutdown 5 []
    else s)

/-- A die's comparator at 125 °C: the shutdown of SHUT, with cause 6. While PWRGD is low the management processor is in reset, and only
the MRAM copy takes the record (R445; DESIGN CHOICE, log entry 66: no power-loss record then). -/
def execTempTrip (sensor : Fin 9) (s : State) : Ans :=
  let hot : State := { s with smb := { s.smb with otFault := true } }
  let r0 := { s.mkRec 0xB05 0 .a none sensor s.tb (detT 4 (s.sensor sensor).reading 32000) with previous := true }
  if s.power.phase = .starting ∨ s.power.phase = .pwrgdLow then
    .next { hot with log := { hot.log with mramRecs := hot.log.mramRecs ++ [r0] }
                     power := { hot.power with phase := .shutdown, pwrgd := false, downAt := s.lc, cause := 6 } }
  else if s.power.phase ≠ .running then .next s else
  let r := s.mkRec 0xB05 0 .a none sensor s.tb (detT 4 (s.sensor sensor).reading 32000)
  let up := s.mgmtUp
  let s := if up then s.logRec r else s
  .next (({ s with smb := { s.smb with otFault := true } } : State).shutdown 6 (if up then [] else [{ r with previous := true }]))

/-- The reading with which the top face has been above 45 °C, or at or below 43 °C, for 1 s; any other is only a reading. -/
def execColdplateHigh (reading : BitVec 16) (high : Bool) (s : State) : Ans :=
  if !s.power.pwrgd then .next s else
  let s := s.readSensor 9 reading
  if !((s.tmp.faceSince.map (fun t => decide (t + 1600000000 ≤ s.lc))).getD false) || high == s.tmp.coldRaised then .next s
  else if high then
    let s := s.tmpEvent 3
    .next (({ s with tmp := { s.tmp with coldRaised := true, faceSince := none } } : State).fault 0xB06 0 .p none 9 (detT s.tmp.level reading 11520))
  else .next { s with tmp := { s.tmp with coldRaised := false, faceSince := none } }

end Sys2Proof.Machine
end

