-- ==== Sys2Proof/Machine/Dispatch.lean ====
section
/-! DEFINITION. The dispatch: one arm per command of spec/opcode_table.json, in the table's order. -/
namespace Sys2Proof.Machine

def exec (i : Instr) (s : State) : Host.Outcome State Fault Refusal :=
  match i with
  | .nop p => Sys2Proof.Machine.execNop p s
  | .ping p => Sys2Proof.Machine.execPing p s
  | .getInfo p => Sys2Proof.Machine.execGetInfo p s
  | .timeSet p => Sys2Proof.Machine.execTimeSet p s
  | .schedCancel p => Sys2Proof.Machine.execSchedCancel p s
  | .ctxOpen p => Sys2Proof.Machine.execCtxOpen p s
  | .ctxClose p => Sys2Proof.Machine.execCtxClose p s
  | .ctxReset p => Sys2Proof.Machine.execCtxReset p s
  | .ctxBind p => Sys2Proof.Machine.execCtxBind p s
  | .ctxClaim p => Sys2Proof.Machine.execCtxClaim p s
  | .ctxRelease p => Sys2Proof.Machine.execCtxRelease p s
  | .ctxStatus p => Sys2Proof.Machine.execCtxStatus p s
  | .segAlloc p => Sys2Proof.Machine.execSegAlloc p s
  | .segWrite p => Sys2Proof.Machine.execSegWrite p s
  | .segFree p => Sys2Proof.Machine.execSegFree p s
  | .segPin p => Sys2Proof.Machine.execSegPin p s
  | .segRead p => Sys2Proof.Machine.execSegRead p s
  | .segMirror p => Sys2Proof.Machine.execSegMirror p s
  | .prgLoad p => Sys2Proof.Machine.execPrgLoad p s
  | .prgCheck p => Sys2Proof.Machine.execPrgCheck p s
  | .prgArm p => Sys2Proof.Machine.execPrgArm p s
  | .prgStart p => Sys2Proof.Machine.execPrgStart p s
  | .prgStop p => Sys2Proof.Machine.execPrgStop p s
  | .jmpArm p => Sys2Proof.Machine.execJmpArm p s
  | .ctrSet p => Sys2Proof.Machine.execCtrSet p s
  | .scnDefine p => Sys2Proof.Machine.execScnDefine p s
  | .scnStartAt p => Sys2Proof.Machine.execScnStartAt p s
  | .scnAbort p => Sys2Proof.Machine.execScnAbort p s
  | .scnDelete p => Sys2Proof.Machine.execScnDelete p s
  | .fchConfig p => Sys2Proof.Machine.execFchConfig p s
  | .fchMode p => Sys2Proof.Machine.execFchMode p s
  | .pchConfig p => Sys2Proof.Machine.execPchConfig p s
  | .pchLoad p => Sys2Proof.Machine.execPchLoad p s
  | .pchStrobe p => Sys2Proof.Machine.execPchStrobe p s
  | .pchQueue p => Sys2Proof.Machine.execPchQueue p s
  | .vocConfig p => Sys2Proof.Machine.execVocConfig p s
  | .clkConfig p => Sys2Proof.Machine.execClkConfig p s
  | .clkStep p => Sys2Proof.Machine.execClkStep p s
  | .clkSync p => Sys2Proof.Machine.execClkSync p s
  | .tmuConfig p => Sys2Proof.Machine.execTmuConfig p s
  | .tmuRun p => Sys2Proof.Machine.execTmuRun p s
  | .tmuRead p => Sys2Proof.Machine.execTmuRead p s
  | .calRun p => Sys2Proof.Machine.execCalRun p s
  | .calSave p => Sys2Proof.Machine.execCalSave p s
  | .calRestore p => Sys2Proof.Machine.execCalRestore p s
  | .aocCtrl p => Sys2Proof.Machine.execAocCtrl p s
  | .evtRoute p => Sys2Proof.Machine.execEvtRoute p s
  | .evtLut p => Sys2Proof.Machine.execEvtLut p s
  | .evtFire p => Sys2Proof.Machine.execEvtFire p s
  | .bnkPower p => Sys2Proof.Machine.execBnkPower p s
  | .bnkHandover p => Sys2Proof.Machine.execBnkHandover p s
  | .fwStage p => Sys2Proof.Machine.execFwStage p s
  | .fwSchedule p => Sys2Proof.Machine.execFwSchedule p s
  | .fwStatus p => Sys2Proof.Machine.execFwStatus p s
  | .fwCancel p => Sys2Proof.Machine.execFwCancel p s
  | .logRead p => Sys2Proof.Machine.execLogRead p s
  | .faultAck p => Sys2Proof.Machine.execFaultAck p s
  | .memDiag p => Sys2Proof.Machine.execMemDiag p s
  | .timedActionActivation => Sys2Proof.Machine.execTimedActionActivation s
  | .packetFetch fn ring length => Sys2Proof.Machine.execPacketFetch fn ring length s
  | .completionWrite fn cq => Sys2Proof.Machine.execCompletionWrite fn cq s
  | .faultNotice fn => Sys2Proof.Machine.execFaultNotice fn s
  | .msixVectorSend fn vec => Sys2Proof.Machine.execMsixVectorSend fn vec s
  | .sysCrCtrlWrite fn ring v => Sys2Proof.Machine.execSysCrCtrlWrite fn ring v s
  | .sysCrTailDoorbell fn ring v => Sys2Proof.Machine.execSysCrTailDoorbell fn ring v s
  | .sysCqCtrlWrite fn cq v => Sys2Proof.Machine.execSysCqCtrlWrite fn cq v s
  | .sysCqHeadDoorbell fn cq v => Sys2Proof.Machine.execSysCqHeadDoorbell fn cq v s
  | .sysFnFire fn v => Sys2Proof.Machine.execSysFnFire fn v s
  | .sysFnStrobe fn v => Sys2Proof.Machine.execSysFnStrobe fn v s
  | .sysCommitIrq v => Sys2Proof.Machine.execSysCommitIrq v s
  | .clkTbLoRead win => Sys2Proof.Machine.execClkTbLoRead win s
  | .ctxLeadRead => Sys2Proof.Machine.execCtxLeadRead s
  | .sqlLeadRead => Sys2Proof.Machine.execSqlLeadRead s
  | .sqlUrgMaxRead => Sys2Proof.Machine.execSqlUrgMaxRead s
  | .sqlPortLatRead p => Sys2Proof.Machine.execSqlPortLatRead p s
  | .memMaintRequest v => Sys2Proof.Machine.execMemMaintRequest v s
  | .bnkOwnerNextWrite b v => Sys2Proof.Machine.execBnkOwnerNextWrite b v s
  | .fwRcvCmdWrite v buf => Sys2Proof.Machine.execFwRcvCmdWrite v buf s
  | .fwRcvCmdReboot v => Sys2Proof.Machine.execFwRcvCmdReboot v s
  | .registerWrite fn bar2 addr wide v => Sys2Proof.Machine.execRegisterWrite fn bar2 addr wide v s
  | .configurationRequest fn r => Sys2Proof.Machine.execConfigurationRequest fn r s
  | .uartPing echo => Sys2Proof.Machine.execUartPing echo s
  | .uartWrite image final off data => Sys2Proof.Machine.execUartWrite image final off data s
  | .uartStatus => Sys2Proof.Machine.execUartStatus s
  | .uartReboot => Sys2Proof.Machine.execUartReboot s
  | .uartLog first count => Sys2Proof.Machine.execUartLog first count s
  | .uartFrameDiscard => Sys2Proof.Machine.execUartFrameDiscard s
  | .clearFaults => Sys2Proof.Machine.execClearFaults s
  | .capability => Sys2Proof.Machine.execCapability s
  | .statusByte => Sys2Proof.Machine.execStatusByte s
  | .statusWord => Sys2Proof.Machine.execStatusWord s
  | .statusInput => Sys2Proof.Machine.execStatusInput s
  | .statusTemperature => Sys2Proof.Machine.execStatusTemperature s
  | .statusCml => Sys2Proof.Machine.execStatusCml s
  | .readVin => Sys2Proof.Machine.execReadVin s
  | .readIin => Sys2Proof.Machine.execReadIin s
  | .readPin => Sys2Proof.Machine.execReadPin s
  | .readTemperature1 => Sys2Proof.Machine.execReadTemperature1 s
  | .readTemperature2 => Sys2Proof.Machine.execReadTemperature2 s
  | .readTemperature3 => Sys2Proof.Machine.execReadTemperature3 s
  | .pmbusRevision => Sys2Proof.Machine.execPmbusRevision s
  | .mfrId => Sys2Proof.Machine.execMfrId s
  | .mfrModel => Sys2Proof.Machine.execMfrModel s
  | .mfrRevision => Sys2Proof.Machine.execMfrRevision s
  | .mfrSerial => Sys2Proof.Machine.execMfrSerial s
  | .smbReadingRefresh r => Sys2Proof.Machine.execSmbReadingRefresh r s
  | .powerUp => Sys2Proof.Machine.execPowerUp s
  | .pwrgdRise hot => Sys2Proof.Machine.execPwrgdRise hot s
  | .pwrgdHeldLow => Sys2Proof.Machine.execPwrgdHeldLow s
  | .supplyFault cause => Sys2Proof.Machine.execSupplyFault cause s
  | .outputSwitchOpen => Sys2Proof.Machine.execOutputSwitchOpen s
  | .linkTraining width speed => Sys2Proof.Machine.execLinkTraining width speed s
  | .linkEvent e => Sys2Proof.Machine.execLinkEvent e s
  | .flrVf fn => Sys2Proof.Machine.execFlrVf fn s
  | .d3hotToD0 fn => Sys2Proof.Machine.execD3hotToD0 fn s
  | .flrPf0 => Sys2Proof.Machine.execFlrPf0 s
  | .hostReadFailure t => Sys2Proof.Machine.execHostReadFailure t s
  | .rcvrnSample low => Sys2Proof.Machine.execRcvrnSample low s
  | .bootMgmtStart set mgmt => Sys2Proof.Machine.execBootMgmtStart set mgmt s
  | .bootImagesLoaded checks untested digestFail => Sys2Proof.Machine.execBootImagesLoaded checks untested digestFail s
  | .imageStartTimeout type => Sys2Proof.Machine.execImageStartTimeout type s
  | .adpllLock band tune => Sys2Proof.Machine.execAdpllLock band tune s
  | .requalify ok => Sys2Proof.Machine.execRequalify ok s
  | .lossOfLock => Sys2Proof.Machine.execLossOfLock s
  | .lossOfReference => Sys2Proof.Machine.execLossOfReference s
  | .refReturned => Sys2Proof.Machine.execRefReturned s
  | .returnEnd gapPs changePpb => Sys2Proof.Machine.execReturnEnd gapPs changePpb s
  | .clkStepRampEnd => Sys2Proof.Machine.execClkStepRampEnd s
  | .phaseSlewEnd => Sys2Proof.Machine.execPhaseSlewEnd s
  | .syncMark marginPs frac => Sys2Proof.Machine.execSyncMark marginPs frac s
  | .syncLoad => Sys2Proof.Machine.execSyncLoad s
  | .clkSyncWaitExpiry => Sys2Proof.Machine.execClkSyncWaitExpiry s
  | .timerTick k => Sys2Proof.Machine.execTimerTick k s
  | .play c => Sys2Proof.Machine.execPlay c s
  | .hop c => Sys2Proof.Machine.execHop c s
  | .mark c => Sys2Proof.Machine.execMark c s
  | .wait c => Sys2Proof.Machine.execWait c s
  | .waitEvt c => Sys2Proof.Machine.execWaitEvt c s
  | .trig c => Sys2Proof.Machine.execTrig c s
  | .branch c => Sys2Proof.Machine.execBranch c s
  | .branchEvt c => Sys2Proof.Machine.execBranchEvt c s
  | .loop c => Sys2Proof.Machine.execLoop c s
  | .ctr c => Sys2Proof.Machine.execCtr c s
  | .call c => Sys2Proof.Machine.execCall c s
  | .ret c => Sys2Proof.Machine.execRet c s
  | .jmpen c => Sys2Proof.Machine.execJmpen c s
  | .endStep c => Sys2Proof.Machine.execEndStep c s
  | .endReached c => Sys2Proof.Machine.execEndReached c s
  | .eventStepTimeout c => Sys2Proof.Machine.execEventStepTimeout c s
  | .eventDelivery ch => Sys2Proof.Machine.execEventDelivery ch s
  | .foxJump c slot frac => Sys2Proof.Machine.execFoxJump c slot frac s
  | .stepStall c => Sys2Proof.Machine.execStepStall c s
  | .stepSpin c => Sys2Proof.Machine.execStepSpin c s
  | .engineSelfCheckError e => Sys2Proof.Machine.execEngineSelfCheckError e s
  | .migrationComplete e => Sys2Proof.Machine.execMigrationComplete e s
  | .preRunStart c => Sys2Proof.Machine.execPreRunStart c s
  | .startInstant c => Sys2Proof.Machine.execStartInstant c s
  | .actionLate v lateLc => Sys2Proof.Machine.execActionLate v lateLc s
  | .voiceActionEnd v => Sys2Proof.Machine.execVoiceActionEnd v s
  | .voiceUnderrun v overload first count => Sys2Proof.Machine.execVoiceUnderrun v overload first count s
  | .voiceRampEnd v => Sys2Proof.Machine.execVoiceRampEnd v s
  | .stopDrainEnd c => Sys2Proof.Machine.execStopDrainEnd c s
  | .resetComplete c => Sys2Proof.Machine.execResetComplete c s
  | .closeDrainEnd c => Sys2Proof.Machine.execCloseDrainEnd c s
  | .orphansReclaimed c => Sys2Proof.Machine.execOrphansReclaimed c s
  | .zeroingComplete z => Sys2Proof.Machine.execZeroingComplete z s
  | .followUpdate slot => Sys2Proof.Machine.execFollowUpdate slot s
  | .startBoundary c => Sys2Proof.Machine.execStartBoundary c s
  | .stopRampEnd c => Sys2Proof.Machine.execStopRampEnd c s
  | .clrnFall => Sys2Proof.Machine.execClrnFall s
  | .clrnRise => Sys2Proof.Machine.execClrnRise s
  | .sampleLinkLoss die => Sys2Proof.Machine.execSampleLinkLoss die s
  | .monitorWindowEnd c ratio content train sat => Sys2Proof.Machine.execMonitorWindowEnd c ratio content train sat s
  | .driverCurrentLimit c => Sys2Proof.Machine.execDriverCurrentLimit c s
  | .elementSwap c spare out => Sys2Proof.Machine.execElementSwap c spare out s
  | .elementMeasurementEnd c trim plausible trimmable => Sys2Proof.Machine.execElementMeasurementEnd c trim plausible trimmable s
  | .outputStageFault o => Sys2Proof.Machine.execOutputStageFault o s
  | .queueTick n => Sys2Proof.Machine.execQueueTick n s
  | .ldstbRise g => Sys2Proof.Machine.execLdstbRise g s
  | .strobeTransfer g => Sys2Proof.Machine.execStrobeTransfer g s
  | .disableRampEnd n => Sys2Proof.Machine.execDisableRampEnd n s
  | .settleHoldTake n => Sys2Proof.Machine.execSettleHoldTake n s
  | .settleHoldRelease n => Sys2Proof.Machine.execSettleHoldRelease n s
  | .holdForced n => Sys2Proof.Machine.execHoldForced n s
  | .pchSwitchHold n => Sys2Proof.Machine.execPchSwitchHold n s
  | .pchSwitchRelease n => Sys2Proof.Machine.execPchSwitchRelease n s
  | .pchSwitchEnd n => Sys2Proof.Machine.execPchSwitchEnd n s
  | .clearHoldRefresh => Sys2Proof.Machine.execClearHoldRefresh s
  | .complianceTrip n => Sys2Proof.Machine.execComplianceTrip n s
  | .monitorFrame pch items => Sys2Proof.Machine.execMonitorFrame pch items s
  | .precLinkLoss => Sys2Proof.Machine.execPrecLinkLoss s
  | .precLinkReturn => Sys2Proof.Machine.execPrecLinkReturn s
  | .streamFetchIssue => Sys2Proof.Machine.execStreamFetchIssue s
  | .urgentFetchIssue => Sys2Proof.Machine.execUrgentFetchIssue s
  | .fetchLanded tag seq r => Sys2Proof.Machine.execFetchLanded tag seq r s
  | .fetchTimeout tag => Sys2Proof.Machine.execFetchTimeout tag s
  | .requestPromotion r => Sys2Proof.Machine.execRequestPromotion r s
  | .writeEnqueue pc unit port => Sys2Proof.Machine.execWriteEnqueue pc unit port s
  | .perBankRefresh pc b => Sys2Proof.Machine.execPerBankRefresh pc b s
  | .allBankRefresh pc => Sys2Proof.Machine.execAllBankRefresh pc s
  | .rowIdleClose pc b => Sys2Proof.Machine.execRowIdleClose pc b s
  | .stackTempRead t0 t1 => Sys2Proof.Machine.execStackTempRead t0 t1 s
  | .rowCounterWindow pc b => Sys2Proof.Machine.execRowCounterWindow pc b s
  | .neighbourRefresh pc b row => Sys2Proof.Machine.execNeighbourRefresh pc b row s
  | .scrubRead r => Sys2Proof.Machine.execScrubRead r s
  | .mirrorRepair dpa => Sys2Proof.Machine.execMirrorRepair dpa s
  | .readDelayTrack pc lane up margin => Sys2Proof.Machine.execReadDelayTrack pc lane up margin s
  | .writeDelayCheck pc lane delay margin => Sys2Proof.Machine.execWriteDelayCheck pc lane delay margin s
  | .maintWindowClose => Sys2Proof.Machine.execMaintWindowClose s
  | .freezeTimeout pc => Sys2Proof.Machine.execFreezeTimeout pc s
  | .rowRetireCopyEnd pc => Sys2Proof.Machine.execRowRetireCopyEnd pc s
  | .phySelfCheckFail pc => Sys2Proof.Machine.execPhySelfCheckFail pc s
  | .pcRecoveryEnd pc step2 ok => Sys2Proof.Machine.execPcRecoveryEnd pc step2 ok s
  | .pinCopyEnd slot => Sys2Proof.Machine.execPinCopyEnd slot s
  | .mirrorCopyEnd slot => Sys2Proof.Machine.execMirrorCopyEnd slot s
  | .jmpArmCopyEnd c slot => Sys2Proof.Machine.execJmpArmCopyEnd c slot s
  | .bankTransitionEnd b => Sys2Proof.Machine.execBankTransitionEnd b s
  | .handoverTake b => Sys2Proof.Machine.execHandoverTake b s
  | .handoverTimeout b => Sys2Proof.Machine.execHandoverTimeout b s
  | .inputEdge input rising frac => Sys2Proof.Machine.execInputEdge input rising frac s
  | .holdOffEnd input level => Sys2Proof.Machine.execHoldOffEnd input level s
  | .tmuSettled input => Sys2Proof.Machine.execTmuSettled input s
  | .tdcCalibration input => Sys2Proof.Machine.execTdcCalibration input s
  | .tmuResult k => Sys2Proof.Machine.execTmuResult k s
  | .tmuBlockTimeout k => Sys2Proof.Machine.execTmuBlockTimeout k s
  | .eoPulseStart n => Sys2Proof.Machine.execEoPulseStart n s
  | .eoPulseEnd n => Sys2Proof.Machine.execEoPulseEnd n s
  | .lutCellFire l => Sys2Proof.Machine.execLutCellFire l s
  | .adaptationUpdate c small grown residual change => Sys2Proof.Machine.execAdaptationUpdate c small grown residual change s
  | .autoCommit c => Sys2Proof.Machine.execAutoCommit c s
  | .calBatchEnd e => Sys2Proof.Machine.execCalBatchEnd e s
  | .calCommit => Sys2Proof.Machine.execCalCommit s
  | .mgmtWatchdog => Sys2Proof.Machine.execMgmtWatchdog s
  | .procHeartbeatLoss memPhy => Sys2Proof.Machine.execProcHeartbeatLoss memPhy s
  | .ctrlWatchdog n => Sys2Proof.Machine.execCtrlWatchdog n s
  | .processorRestartEnd p => Sys2Proof.Machine.execProcessorRestartEnd p s
  | .tempLevelChange sensor reading level => Sys2Proof.Machine.execTempLevelChange sensor reading level s
  | .tempTrip sensor => Sys2Proof.Machine.execTempTrip sensor s
  | .coldplateHigh reading high => Sys2Proof.Machine.execColdplateHigh reading high s
  | .fwQuietCheck => Sys2Proof.Machine.execFwQuietCheck s
  | .warmRestart => Sys2Proof.Machine.execWarmRestart s
  | .warmRestartEnd durationUs => Sys2Proof.Machine.execWarmRestartEnd durationUs s
  | .commandTimeout fn ring tag done => Sys2Proof.Machine.execCommandTimeout fn ring tag done s
  | .hostTransferEnd fn ring tag data => Sys2Proof.Machine.execHostTransferEnd fn ring tag data s
  | .sampleLinkReturn die => Sys2Proof.Machine.execSampleLinkReturn die s
  | .pcRetrainEnd pc ok => Sys2Proof.Machine.execPcRetrainEnd pc ok s
  | .markerTransition m => Sys2Proof.Machine.execMarkerTransition m s
  | .voiceActionStart v => Sys2Proof.Machine.execVoiceActionStart v s
  | .unknownOpcode op p => Sys2Proof.Machine.execUnknownOpcode op p s
  | .uartBadFrame badCrc type => Sys2Proof.Machine.execUartBadFrame badCrc type s
  | .smbOtherCommand xfer code => Sys2Proof.Machine.execSmbOtherCommand xfer code s
  | .refDeviationMeasure dev => Sys2Proof.Machine.execRefDeviationMeasure dev s

end Sys2Proof.Machine
end

