-- ==== Sys2Proof/Safety.lean ====
section
/-! DEFINITION. What a safe run is: commands that answer a next state, and the invariants every state keeps; and the terms in
which the statements speak of packets: one that starts at once, and its final completion. -/
namespace Sys2Proof.Machine

/-- Both waveform memories, the DRAM of spec/10_waveform_memory_fetch.md R278 and the banks of R339, are canonical. -/
def State.MemWf (s : State) : Prop := Memory.wf s.sql.dram ∧ Memory.wf s.bnk.ram

/-- The next state of a step, where it has one. -/
def State.stepsTo (s t : State) : Prop := step s = .next t

/-- No fault and no refusal in this step. -/
def State.Safe (s : State) : Prop := ∃ t, step s = .next t

/-- The machine as a packet's checks see it: one more place taken in the order of acceptance. -/
def State.seen (s : State) : State := { s with seq := s.seq + 1 }

/-- An untimed packet starts at once and passes the checks of R491 and its chapter's own: PWRGD is high, the management
processor runs, and nothing earlier on its ring holds it back (R115). -/
def startsNow (op : Op) (p : Pkt) (s : State) : Bool :=
  let r := newRun op p s
  s.power.pwrgd && s.mgmtUp && !blocked r s.seen && decide (p.act = 0) &&
  decide (preChecks r s.seen = none) && decide ((meaningOf op).accept r s.seen = none) &&
  decide (periodCheck op p = none) && decide ((meaningOf op).check r s.seen = none)

/-- A timed packet in time passes the checks made at acceptance and finds room in the scheduler (R110, R113, R491). -/
def acceptsNow (op : Op) (p : Pkt) (s : State) : Bool :=
  let r := newRun op p s
  s.power.pwrgd && s.mgmtUp && !blocked r s.seen && decide (p.act ≠ 0) && decide (s.tb.toNat + leadOf op ≤ p.act.toNat) &&
  decide (preChecks r s.seen = none) && decide ((meaningOf op).accept r s.seen = none) &&
  decide (s.countSched (fun t => t.run.timed) < 4096) &&
  decide (s.countSched (fun t => t.run.timed && decide (t.run.p.fn = p.fn)) < 1024)

/-- The final completion of an untimed packet, the last one seen, dated now (R101, R107, R108). -/
def finalOf (op : Op) (p : Pkt) (st : Status) (res : Nat) (s : State) : Cpl where
  fn := p.fn.val
  cq := (s.ring p.fn.val p.ring.val).cqF.toNat
  ring := p.ring.val
  tag := p.tag
  ctx := p.ctx.val
  status := st
  result := BitVec.ofNat 24 res
  time := s.tb
  interim := false
  suppressed := p.noCpl && (decide (st = .ok) || decide (st = .accepted))
  untimed := true
  op := op
  p := p
  seq := s.seq - 1

/-- `t` with the packet's final completion decided as well. -/
def State.answered (t : State) (op : Op) (p : Pkt) (st : Status) (res : Nat) : State :=
  { t with held := t.held ++ [finalOf op p st res t] }

/-- `t` with the packet, which began in `s`, still executing and waiting for `k`. -/
def State.going (t : State) (op : Op) (p : Pkt) (k : JobKind) (s : State) : State :=
  { t with jobs := t.jobs ++ [{ run := { newRun op p s with born := t.lc }, kind := k }] }

/-- `s` with the timed packet accepted: held by the scheduler for its activation count, its interim completion ACCEPTED decided
(R17, R113). -/
def State.accepting (s : State) (op : Op) (p : Pkt) : State :=
  { s with
    seq := s.seq + 2
    sched := s.sched ++ [{ run := { newRun op p s with timed := true, seq := s.seq + 1 }, act := p.act, period := periodOf op p, reps := repeatOf op p }]
    held := s.held ++ [{ finalOf op p .accepted 0 s with interim := true, untimed := false, seq := s.seq + 1 }] }

/-- All that raising a fault leaves alone: everything but the counts of its context, its notices, the log and the events. -/
def State.calm (s : State) : State :=
  { s with ctxs := [], fns := [], sys := {}, log := {}, evch := [], regs := [] }

/-- A context but for the counts of its faults (Table 5.8). -/
def Ctx.unfaulted (c : Ctx) : Ctx := { c with late := 0, other := 0, lastIdx := none, faulted := false }
/-- A window but for the notices that wait and its completion rings. -/
def FnWin.unnoticed (w : FnWin) : FnWin := { w with notices := [], cqs := [] }
/-- A completion ring but for its count of notices missed. -/
def CplRing.unmissed (q : CplRing) : CplRing := { q with missed := 0 }
/-- An event channel but for its counts. -/
def EvCh.uncounted (e : EvCh) : EvCh := { e with events := 0, coalesced := 0, lastAt := none }
/-- The endpoint but for the fault bit of its interrupt register. -/
def Sys.uninterrupted (y : Sys) : Sys := { y with irqFault := false }

/-- From `s` to `t` nothing changed but what raising faults touches: the log, the fault counts of contexts, notices, and
events registered for delivery (R428, R435, R436). -/
structure State.FaultOnly (s t : State) : Prop where
  calm : t.calm = s.calm
  ctx : ∀ c, (t.ctx c).unfaulted = (s.ctx c).unfaulted
  fn : ∀ f, (t.fnWin f).unnoticed = (s.fnWin f).unnoticed
  cq : ∀ f r, ((t.fnWin f).cqr r).unmissed = ((s.fnWin f).cqr r).unmissed
  sys : t.sys.uninterrupted = s.sys.uninterrupted
  ev : ∀ k, (t.ev k).uncounted = (s.ev k).uncounted
  regs : s.regs <+: t.regs

/-- No record entered in the present lane cycle comes after `r` in the order of R435. -/
def State.InOrder (s : State) (r : FaultRec) : Prop :=
  s.log.burstAt = s.lc → s.log.burst = 0 ∨ r.before (Tbl.get {} s.log.recs ((s.log.next + 4095) % 4096)) = false

/-- From `s` to `t` the log took exactly one record, `r` with the next sequence number, at the next index (R435). -/
def State.Enters (s t : State) (r : FaultRec) : Prop :=
  t.log.next = (s.log.next + 1) % 4096 ∧ t.log.seq = s.log.seq + 1 ∧ Tbl.get {} t.log.recs s.log.next = { r with seq := s.log.seq }

/-- The opcode and packet of a command that is a packet. -/
def packetOf : Instr → Option (Op × Pkt)
  | .nop p => some (.nop, p) | .ping p => some (.ping, p) | .getInfo p => some (.getInfo, p)
  | .timeSet p => some (.timeSet, p) | .schedCancel p => some (.schedCancel, p) | .ctxOpen p => some (.ctxOpen, p)
  | .ctxClose p => some (.ctxClose, p) | .ctxReset p => some (.ctxReset, p) | .ctxBind p => some (.ctxBind, p)
  | .ctxClaim p => some (.ctxClaim, p) | .ctxRelease p => some (.ctxRelease, p) | .ctxStatus p => some (.ctxStatus, p)
  | .segAlloc p => some (.segAlloc, p) | .segWrite p => some (.segWrite, p) | .segFree p => some (.segFree, p)
  | .segPin p => some (.segPin, p) | .segRead p => some (.segRead, p) | .segMirror p => some (.segMirror, p)
  | .prgLoad p => some (.prgLoad, p) | .prgCheck p => some (.prgCheck, p) | .prgArm p => some (.prgArm, p)
  | .prgStart p => some (.prgStart, p) | .prgStop p => some (.prgStop, p) | .jmpArm p => some (.jmpArm, p)
  | .ctrSet p => some (.ctrSet, p) | .scnDefine p => some (.scnDefine, p) | .scnStartAt p => some (.scnStartAt, p)
  | .scnAbort p => some (.scnAbort, p) | .scnDelete p => some (.scnDelete, p) | .fchConfig p => some (.fchConfig, p)
  | .fchMode p => some (.fchMode, p) | .pchConfig p => some (.pchConfig, p) | .pchLoad p => some (.pchLoad, p)
  | .pchStrobe p => some (.pchStrobe, p) | .pchQueue p => some (.pchQueue, p) | .vocConfig p => some (.vocConfig, p)
  | .clkConfig p => some (.clkConfig, p) | .clkStep p => some (.clkStep, p) | .clkSync p => some (.clkSync, p)
  | .tmuConfig p => some (.tmuConfig, p) | .tmuRun p => some (.tmuRun, p) | .tmuRead p => some (.tmuRead, p)
  | .calRun p => some (.calRun, p) | .calSave p => some (.calSave, p) | .calRestore p => some (.calRestore, p)
  | .aocCtrl p => some (.aocCtrl, p) | .evtRoute p => some (.evtRoute, p) | .evtLut p => some (.evtLut, p)
  | .evtFire p => some (.evtFire, p) | .bnkPower p => some (.bnkPower, p) | .bnkHandover p => some (.bnkHandover, p)
  | .fwStage p => some (.fwStage, p) | .fwSchedule p => some (.fwSchedule, p) | .fwStatus p => some (.fwStatus, p)
  | .fwCancel p => some (.fwCancel, p) | .logRead p => some (.logRead, p) | .faultAck p => some (.faultAck, p)
  | .memDiag p => some (.memDiag, p)
  | .unknownOpcode b p => some (.unknown b, p)
  | _ => none

/-- The commands that may store to a waveform memory, or empty it: the ends of transfers and copies, zeroing, bank transitions,
fetches, whose data goes to landing slots (a failed one's as zeros), poison and repair, what reaches a packet that does so, and what wipes the units on the way to recovery or power-down. Every
other command leaves each byte of both memories alone. -/
def mayStore : Instr → Bool
  | .memDiag _ | .timedActionActivation | .completionWrite _ _ | .hostReadFailure _ | .hostTransferEnd _ _ _ _ | .commandTimeout _ _ _ _ => true
  | .zeroingComplete _ | .pinCopyEnd _ | .mirrorCopyEnd _ | .jmpArmCopyEnd _ _ | .bankTransitionEnd _ => true
  | .streamFetchIssue | .urgentFetchIssue | .fetchLanded _ _ _ | .scrubRead _ | .mirrorRepair _ | .freezeTimeout _ | .rowRetireCopyEnd _ => true
  | .pwrgdRise _ | .pwrgdHeldLow | .supplyFault _ | .outputSwitchOpen | .rcvrnSample _ | .bootMgmtStart _ _ => true
  | .bootImagesLoaded _ _ _ | .imageStartTimeout _ | .warmRestart | .warmRestartEnd _ | .fwRcvCmdWrite _ _ | .fwRcvCmdReboot _ => true
  | .registerWrite _ _ _ _ _ | .uartReboot | .mgmtWatchdog | .processorRestartEnd _ | .tempLevelChange _ _ _ | .tempTrip _ => true
  | _ => false

end Sys2Proof.Machine
end

