-- ==== Sys2Proof/WellFormed.lean ====
section
/-! DEFINITION. Which commands the hardware can be sent: the checks on the parts of a command that its row ties together.
What a well-formed command may still get wrong (a reserved bit, a bad LENGTH for its opcode, a unit that is not owned) is
answered by its meaning, as spec/04_host_interface_commands.md R491 orders. -/
namespace Sys2Proof

/-- A fetched packet: LENGTH is a multiple of 4 within 4 to 1,024 (R102: another stops the ring) and the payload is all
the words after the header. -/
def Pkt.wf (p : Pkt) : Bool :=
  decide (p.length.toNat % 4 = 0) && decide (4 ≤ p.length.toNat) && decide (p.length.toNat ≤ 1024) &&
    decide (p.payload.length = p.length.toNat - 4)

/-- The opcodes of the catalogue (Tables 4.20 to 4.23). -/
def catalogued (op : BitVec 8) : Bool :=
  let n := op.toNat
  decide (n ≤ 0x04) || (decide (0x10 ≤ n) && decide (n ≤ 0x16)) || (decide (0x20 ≤ n) && decide (n ≤ 0x25)) ||
  (decide (0x30 ≤ n) && decide (n ≤ 0x36)) || (decide (0x40 ≤ n) && decide (n ≤ 0x43)) || (decide (0x50 ≤ n) && decide (n ≤ 0x56)) ||
  (decide (0x60 ≤ n) && decide (n ≤ 0x62)) || (decide (0x70 ≤ n) && decide (n ≤ 0x72)) || (decide (0x80 ≤ n) && decide (n ≤ 0x83)) ||
  (decide (0x90 ≤ n) && decide (n ≤ 0x92)) || (decide (0xA0 ≤ n) && decide (n ≤ 0xA1)) || (decide (0xE0 ≤ n) && decide (n ≤ 0xE3)) ||
  (decide (0xF0 ≤ n) && decide (n ≤ 0xF2))

/-- The packet a command carries, if its row is an opcode. -/
def Instr.pkt? : Instr → Option Pkt
  | .nop p => some p
  | .ping p => some p
  | .getInfo p => some p
  | .timeSet p => some p
  | .schedCancel p => some p
  | .ctxOpen p => some p
  | .ctxClose p => some p
  | .ctxReset p => some p
  | .ctxBind p => some p
  | .ctxClaim p => some p
  | .ctxRelease p => some p
  | .ctxStatus p => some p
  | .segAlloc p => some p
  | .segWrite p => some p
  | .segFree p => some p
  | .segPin p => some p
  | .segRead p => some p
  | .segMirror p => some p
  | .prgLoad p => some p
  | .prgCheck p => some p
  | .prgArm p => some p
  | .prgStart p => some p
  | .prgStop p => some p
  | .jmpArm p => some p
  | .ctrSet p => some p
  | .scnDefine p => some p
  | .scnStartAt p => some p
  | .scnAbort p => some p
  | .scnDelete p => some p
  | .fchConfig p => some p
  | .fchMode p => some p
  | .pchConfig p => some p
  | .pchLoad p => some p
  | .pchStrobe p => some p
  | .pchQueue p => some p
  | .vocConfig p => some p
  | .clkConfig p => some p
  | .clkStep p => some p
  | .clkSync p => some p
  | .tmuConfig p => some p
  | .tmuRun p => some p
  | .tmuRead p => some p
  | .calRun p => some p
  | .calSave p => some p
  | .calRestore p => some p
  | .aocCtrl p => some p
  | .evtRoute p => some p
  | .evtLut p => some p
  | .evtFire p => some p
  | .bnkPower p => some p
  | .bnkHandover p => some p
  | .fwStage p => some p
  | .fwSchedule p => some p
  | .fwStatus p => some p
  | .fwCancel p => some p
  | .logRead p => some p
  | .faultAck p => some p
  | .memDiag p => some p
  | .unknownOpcode _ p => some p
  | _ => none

/-- Well-formed commands. -/
def Instr.wf (i : Instr) : Bool :=
  match i with
  | .unknownOpcode op p => p.wf && !catalogued op
  -- an aligned register access (R473); a 32-bit write carries 32 bits
  | .registerWrite _ _ a wide v => if wide then decide (a.toNat % 8 = 0) else decide (a.toNat % 4 = 0) && decide (v.toNat < 2 ^ 32)
  -- a buffer of at most 983,040 bytes (Table 17.9)
  | .fwRcvCmdWrite _ buf => decide (buf.length ≤ 983040)
  -- 4 to 4,096 data bytes (Table 17.11)
  | .uartWrite _ _ _ d => decide (4 ≤ d.length) && decide (d.length ≤ 4096)
  -- an unknown TYPE, or any TYPE with a bad CRC (R468)
  | .uartBadFrame bad ty => bad || decide (ty.toNat = 0) || decide (5 < ty.toNat)
  -- the images of types 1 to 7 (Table 17.1)
  | .bootImagesLoaded cs _ _ => decide (cs.length = 7)
  -- a frame reads the sixteen channels and three system items (R395, R396)
  | .monitorFrame ps is => decide (ps.length = 16) && decide (is.length = 3)
  -- the VFs are functions 1 to 63 (R3)
  | .flrVf f => decide (f.val ≠ 0)
  | .d3hotToD0 f => decide (f.val ≠ 0)
  -- SR-IOV control is in the capability of PF0 (R91)
  | .configurationRequest f (.writeSriov _ _ _) => decide (f.val = 0)
  | .configurationRequest f (.writeTimeout _) => decide (f.val = 0)
  -- 1, 2, 4 or 8 lanes at one of the five speeds (Table 19.5)
  | .linkTraining w sp => (decide (w = 1) || decide (w = 2) || decide (w = 4) || decide (w = 8)) && decide (sp ≠ 0) && decide (sp.toNat ≤ 5)
  -- TIMER sources have k from 6 to 40 (Table 13.1)
  | .timerTick k => decide (6 ≤ k.val)
  | i => match i.pkt? with | some p => p.wf | none => true

end Sys2Proof
end

