-- ==== Sys2Proof/Certificates/Slice0/Obligations.lean ====
section
/-! DEFINITION. The statements about the model, for the provers. Each says which rules of spec/ it formalises; where it rests on
a choice of the model, its docstring names the log entry. -/

open Sys2Proof Sys2Proof.Machine

/-- A step takes the command at the front of the queue and runs it with the queue's rest. On an empty queue the lane clock runs
while PWRGD is high: the model's choice, log entry 1. -/
def Obligations.StepRunsFrontCommand : Prop :=
  (∀ (c : Instr) (cs : List Instr) (s : State), s.pending = c :: cs → step s = exec c { s with pending := cs }) ∧
  (∀ s : State, s.pending = [] → s.power.pwrgd = true → step s = .next { s with
    lc := s.lc + 1, tb := s.tb + 1, lockmon := s.lockmonIn 1, summers := (State.cycles 1 s).summers, conv := (State.cycles 1 s).conv }) ∧
  (∀ s : State, s.pending = [] → s.power.pwrgd = false → step s = .next s)

/-- Both memories stay canonical through every step, so that equal memories are equal data. -/
def Obligations.EveryStepKeepsMemoryCanonical : Prop :=
  ∀ s t : State, s.MemWf → step s = .next t → t.MemWf

/-- The invariant of EveryStepKeepsMemoryCanonical holds after reset. -/
def Obligations.ResetMemoryCanonical : Prop :=
  State.reset.MemWf ∧ State.reset.sql.dram = [] ∧ State.reset.bnk.ram = [] ∧ State.reset.pending = []

/-- No command stops the block, and none touches the queue of those that wait. -/
def Obligations.EveryCommandCompletesAndLeavesTheQueue : Prop :=
  ∀ (c : Instr) (s : State), ∃ t, exec c s = .next t ∧ t.pending = s.pending

/-- The memory frame of every command that stores nothing. -/
def Obligations.OtherCommandsLeaveMemoryUnchanged : Prop :=
  ∀ (c : Instr) (s t : State), mayStore c = false → exec c s = .next t →
    ∀ a : Nat, Memory.read t.sql.dram a = Memory.read s.sql.dram a ∧ Memory.read t.bnk.ram a = Memory.read s.bnk.ram a

/-- Steps 1 to 3 of the order of checks: one final completion and no effect. -/
def Obligations.PacketTurnedAwayOnlyCompletes : Prop :=
  ∀ (c : Instr) (op : Op) (p : Pkt) (s : State) (st : Status) (res : Nat),
    packetOf c = some (op, p) → s.power.pwrgd = true → s.mgmtUp = true → blocked (newRun op p s) s.seen = false →
    preChecks (newRun op p s) s.seen = some (st, res) →
    exec c s = .next { s.seen with
      held := s.held ++ [finalOf op p st res s.seen]
      fw := if op = .fwSchedule then { s.fw with lastStatus := BitVec.ofNat 8 (statusByte st), lastResult := BitVec.ofNat 24 res } else s.fw }

/-- The ordering of one command ring, and the pause of packets while the management processor is not running. -/
def Obligations.PacketWaitsItsTurn : Prop :=
  ∀ (c : Instr) (op : Op) (p : Pkt) (s : State), packetOf c = some (op, p) →
    (s.power.pwrgd = true → (s.mgmtUp = false ∨ blocked (newRun op p s) s.seen = true) →
      exec c s = .next { s.seen with waiting := s.waiting ++ [newRun op p s] }) ∧
    (s.power.pwrgd = false → exec c s = .next s.seen)

/-- Acceptance of a timed packet, and the limits of the hardware scheduler; R403 for the commits a NEUTRAL withdraws. -/
def Obligations.TimedPacketIsAcceptedAndHeld : Prop :=
  ∀ (c : Instr) (op : Op) (p : Pkt) (s : State), packetOf c = some (op, p) →
    s.power.pwrgd = true → s.mgmtUp = true → blocked (newRun op p s) s.seen = false →
    preChecks (newRun op p s) s.seen = none → (meaningOf op).accept (newRun op p s) s.seen = none →
    p.act ≠ 0 → s.tb.toNat + leadOf op ≤ p.act.toNat →
    (s.countSched (fun t => t.run.timed) < 4096 →
      s.countSched (fun t => t.run.timed && decide (t.run.p.fn = p.fn)) < 1024 →
      let neutral := decide (op = .aocCtrl) && decide (acAction p = 2)
      let out := fun (x : Timed) => neutral && (decide (x.run.op = .aocCtrl) && decide (acChan x.run.p = acChan p) && decide (acAction x.run.p = 3))
      let now : Cpl := { finalOf op p .accepted 0 s with interim := true, untimed := false, seq := s.seq + 1 }
      ∃ t e, exec c s = .next t ∧ t.sched = s.sched.filter (fun x => !out x) ++ [e] ∧ e.run.op = op ∧ e.run.p = p ∧ e.run.timed = true ∧
        e.act = p.act ∧ e.period = periodOf op p ∧ e.reps = repeatOf op p ∧
        (s.held ++ [now]) <+: t.held ∧ (s.sched.all (fun x => !out x) = true → t.held = s.held ++ [now])) ∧
    ((4096 ≤ s.countSched (fun t => t.run.timed) ∨ 1024 ≤ s.countSched (fun t => t.run.timed && decide (t.run.p.fn = p.fn))) →
      ∃ t, exec c s = .next t ∧ t.sched = s.sched ∧ t.held = s.held ++ [finalOf op p .noResource 0 s.seen])

/-- REJECT: nothing is done, and the late outcome is logged. The record is entered at acceptance: log entry 12. -/
def Obligations.LatePacketIsRejectedAndLogged : Prop :=
  ∀ (c : Instr) (op : Op) (p : Pkt) (s : State), packetOf c = some (op, p) →
    s.power.pwrgd = true → s.mgmtUp = true → blocked (newRun op p s) s.seen = false →
    preChecks (newRun op p s) s.seen = none → (meaningOf op).accept (newRun op p s) s.seen = none →
    periodCheck op p = none → (meaningOf op).check (newRun op p s) s.seen = none →
    p.act ≠ 0 → p.act.toNat < s.tb.toNat + leadOf op → p.late = 0 →
    let r := s.mkRec 0x901 0 (.f p.fn) (if usesCtx op then some p.ctx.val else none) p.ring.val s.tb (detQ (newRun op p s) .late 0 0)
    ∃ t, exec c s = .next t ∧ (s.InOrder r → s.Enters t r) ∧
      State.FaultOnly { s.seen with
        held := s.held ++ [finalOf op p .late 0 s.seen]
        fw := if op = .fwSchedule then { s.fw with lastStatus := BitVec.ofNat 8 (statusByte .late), lastResult := 0 } else s.fw } t

/-- R112. -/
def Obligations.FwScheduleMustCarryReject : Prop :=
  ∀ (p : Pkt) (s : State), s.power.pwrgd = true → s.mgmtUp = true → blocked (newRun .fwSchedule p s) s.seen = false → p.late ≠ 0 →
    ∃ t, exec (.fwSchedule p) s = .next t ∧ t.held = s.held ++ [finalOf .fwSchedule p .badParam 0 s.seen] ∧
      t.sched = s.sched ∧ t.fw.sched = s.fw.sched

/-- Steps 2 and 3 of the order of checks. -/
def Obligations.DeviceStateAndPermissionChecks : Prop :=
  ∀ (c : Instr) (op : Op) (p : Pkt) (s : State), packetOf c = some (op, p) →
    s.power.pwrgd = true → s.mgmtUp = true → blocked (newRun op p s) s.seen = false → formCheck op p s.tb = none →
    (s.sys.recovery = true → op ≠ .nop → op ≠ .ping → op ≠ .getInfo → op ≠ .logRead → op ≠ .fwStage → op ≠ .fwStatus →
      ∃ t, exec c s = .next t ∧ t.held = s.held ++ [finalOf op p .unsupportedInRecovery 0 s.seen]) ∧
    (s.sys.recovery = false → s.sys.ready = false → op ≠ .nop → op ≠ .ping → op ≠ .getInfo → op ≠ .logRead → op ≠ .fwStatus →
      ∃ t, exec c s = .next t ∧ t.held = s.held ++ [finalOf op p .busy 0 s.seen]) ∧
    (s.sys.recovery = false → s.sys.ready = true → pf0Only op = true → p.fn ≠ 0 →
      ∃ t, exec c s = .next t ∧ t.held = s.held ++ [finalOf op p .notOwner 0 s.seen]) ∧
    (s.sys.recovery = false → s.sys.ready = true → namesCtx op = true → (s.ctx p.ctx).st ≠ .free → (s.ctx p.ctx).fn ≠ p.fn.val →
      ∃ t, exec c s = .next t ∧ t.held = s.held ++ [finalOf op p .notOwner 0 s.seen])

/-- Table 4.20; the whole next state of each packet. -/
def Obligations.HousekeepingPacketsComplete : Prop :=
  ∀ (p : Pkt) (s : State),
    (startsNow .nop p s = true → exec (.nop p) s = .next (s.seen.answered .nop p .ok 0)) ∧
    (startsNow .ping p s = true → exec (.ping p) s = .next (s.seen.answered .ping p .ok ((pw p 4).toNat % 2 ^ 24))) ∧
    (startsNow .getInfo p s = true → exec (.getInfo p) s = .next (s.seen.going .getInfo p .transfer s)) ∧
    (startsNow .schedCancel p s = true →
      let named := fun (e : Timed) => e.run.timed && decide (e.run.op ≠ .fwSchedule) && decide (e.run.p.fn = p.fn) &&
        decide (e.run.p.tag.toNat = pf p 4 0 16) && decide (e.run.p.ring.val = pf p 4 16 4)
      (s.sched.any named = false → exec (.schedCancel p) s = .next (s.seen.answered .schedCancel p .ok 0)) ∧
      (∀ e, s.sched.find? named = some e →
        exec (.schedCancel p) s = .next ((({ s.seen with
          sched := s.sched.filter (fun x => decide (x.run.seq ≠ e.run.seq)) } : State).undoTimed e.run).answered .schedCancel p .ok 1))) ∧
    (∀ b, s.power.pwrgd = true → s.mgmtUp = true → blocked (newRun (.unknown b) p s) s.seen = false →
      exec (.unknownOpcode b p) s = .next (s.seen.answered (.unknown b) p .badOpcode 0))

/-- R53 to R55, R67, R68, R79, R84 and R494: the whole next state of each clock packet. What `fault`
does says FaultIsEnteredOrHeld; what `endKind`, `laneSwitch`, `flushNco` and `tmuLoad` may change say the lemmas of Laws/Ops.lean;
`traceLost` marks a TRACE under way that the reference is lost. -/
def Obligations.ClockPacketsTakeEffect : Prop :=
  ∀ (p : Pkt) (s : State),
    (startsNow .timeSet p s = true →
      let u := ({ s.seen.flushNco with tb := pq p 4, clk := { s.clk with tbState := .set } } : State).tmuLoad
      exec (.timeSet p) s = .next ((u.fault 0x503 0 .p none 0 [lo32 s.tb, hi32 s.tb, lo32 (pq p 4), hi32 (pq p 4)]).answered .timeSet p .ok 0)) ∧
    (startsNow .clkConfig p s = true →
      let s0 := s.seen.endKind (fun k => decide (k = .clkLock) || decide (k = .clkSlew)) .busy 1
      let u := s0.traceLost.laneSwitch false
      let off := BitVec.ofNat 16 (pf p 4 16 16)
      (clkOn p = false → s.clk.selfHold = true →
        exec (.clkConfig p) s = .next (({ s0 with clk := { s.clk with enable := false, q := 0, qualified := false } } : State).answered .clkConfig p .ok 0)) ∧
      (clkOn p = false → s.clk.selfHold = false →
        exec (.clkConfig p) s = .next (({ u with clk := { u.clk with
          locked := false, refSrc := 0, band := 0, slewEnd := none, rangeWarn := false, align := .free, slewing := u.clk.rampEnd.isSome
          enable := false, q := 0, qualified := false } } : State).answered .clkConfig p .ok 0)) ∧
      (clkOn p = true → (s.clk.following = false ∨ clkChanges p s.clk = true) →
        exec (.clkConfig p) s = .next (({ u with clk := { u.clk with
          locked := false, band := 0, slewEnd := none, rangeWarn := false, slewing := u.clk.rampEnd.isSome
          enable := true, refHz := (pw p 5).toNat, bw := BitVec.ofNat 2 (pf p 4 1 2), retHost := pb p 4 3, phaseOffset := off
          q := ratioQ (pw p 5).toNat, align := .acquiring, refSrc := 1, offset := 0, qualified := false } } : State).going .clkConfig p .clkLock s)) ∧
      (clkOn p = true → s.clk.following = true → clkChanges p s.clk = false →
        let old := s.clk.offsetNow s.lc
        let back := decide (s.clk.align = .lost ∧ s.clk.qualified = true)
        let k := { s.clk with
          retHost := pb p 4 3, phaseOffset := off, slewEnd := none, align := if back then .returning else s.clk.align
          refSrc := if back then 1 else s.clk.refSrc, slewing := s.clk.rampEnd.isSome || decide (s.clk.align = .returning) || back }
        (old = off → exec (.clkConfig p) s = .next (({ s0 with clk := k } : State).answered .clkConfig p .ok 0)) ∧
        (old ≠ off → exec (.clkConfig p) s = .next (({ s0 with clk := { k with
          slewEnd := some (s.lc + slewLc old off), slewFrom := old, slewAt := s.lc, slewing := true } } : State).going .clkConfig p .clkSlew s)))) ∧
    (startsNow .clkStep p s = true →
      (s.clk.rampEnd = none → exec (.clkStep p) s = .next (({ s.seen with clk := { s.clk with
        rampEnd := some (s.lc + 16000), rampDelta := stepDelta p, rampSeq := s.seq, slewing := true
        align := if s.clk.align = .aligned then .locked else s.clk.align
        before := if s.clk.before = .aligned then .locked else s.clk.before } } : State).going
          .clkStep p (.clkStep (stepDelta p) s.lc) s)) ∧
      (s.clk.rampEnd ≠ none → exec (.clkStep p) s = .next (s.seen.going .clkStep p (.clkStep (stepDelta p) 0) s))) ∧
    (startsNow .clkSync p s = true →
      (syncArms p = true → exec (.clkSync p) s = .next (({ s.seen with clk := { s.clk with
        arm := some { loadTb := pb p 4 1, tbValue := pq p 5, waitLc := syncWait p, armedAt := s.lc } } } : State).going .clkSync p .sync s)) ∧
      (syncArms p = false → (s.clk.arm = none ∨ ∃ a, s.clk.arm = some a ∧ a.mark.isSome = true) →
        exec (.clkSync p) s = .next (s.seen.answered .clkSync p .ok 0)) ∧
      (∀ a, syncArms p = false → s.clk.arm = some a → a.mark = none → exec (.clkSync p) s =
        .next ((({ s.seen with clk := { s.clk with arm := none } } : State).endKind (fun k => decide (k = .sync)) .busy 1).answered .clkSync p .ok 1)))

/-- R428, R431 and R435: what raising a fault does, whichever command raises it. -/
def Obligations.FaultIsEnteredOrHeld : Prop :=
  ∀ (s : State) (code rung unit : Nat) (on : Raise) (ctx : Option Nat) (n : W64) (d : List W32),
    let t := s.faultAt code rung on ctx unit n d
    let r := s.mkRec code rung on ctx unit n d
    s.FaultOnly t ∧
    (s.mgmtUp = true → s.InOrder r → s.Enters t r ∧
      (∀ k, k ≠ s.log.next → Tbl.get {} t.log.recs k = Tbl.get {} s.log.recs k) ∧
      Tbl.get 0 t.log.groups (r.code.toNat / 256) = min (2 ^ 32 - 1) (Tbl.get 0 s.log.groups (r.code.toNat / 256) + 1) ∧
      Tbl.get 0 t.log.rungs rung = min (2 ^ 32 - 1) (Tbl.get 0 s.log.rungs rung + 1) ∧
      (∀ c, ctx = some c → (t.ctx c).faulted = true ∧ (t.ctx c).lastIdx = some s.log.next) ∧
      (∀ c, ctx ≠ some c → t.ctx c = s.ctx c)) ∧
    (s.mgmtUp = true → s.log.burstAt = s.lc → s.log.burst = 1 →
      let i := (s.log.next + 4095) % 4096
      let x := Tbl.get {} s.log.recs i
      r.before x = true → x.code ≠ 0 → x.code ≠ 0x106#12 → r.code ≠ 0 → r.code ≠ 0x106#12 →
      Tbl.get {} t.log.recs i = { r with seq := x.seq } ∧ Tbl.get {} t.log.recs s.log.next = { x with seq := s.log.seq } ∧
      t.log.next = (s.log.next + 1) % 4096 ∧ t.log.seq = s.log.seq + 1) ∧
    (s.mgmtUp = false → s.log.hold.length < 256 → t = { s with log := { s.log with hold := s.log.hold ++ [r] } }) ∧
    (s.mgmtUp = false → 256 ≤ s.log.hold.length →
      t = { s with log := { s.log with dropped := min 65535 (s.log.dropped + 1), droppedNow := true } })

/-- R54, R60, R66, R70 to R76, Tables 3.3, 3.5 and 3.6. The window of R72 as lane cycles before the command is log entry 65; the phase
error is a free value (Table 3.9 gives no rule for it). -/
def Obligations.LockAndReferenceEvents : Prop :=
  ∀ (s : State) (band : BitVec 8) (tune : BitVec 16) (ok : Bool) (gap ppb : Nat) (dev : BitVec 32),
    (s.clk.enable = true → s.clk.align = .acquiring →
      let u := s.laneSwitch true
      exec (.adpllLock band tune) s = .next (({ u with clk := { u.clk with
        locked := true, refSrc := 1, align := if s.clk.q = 1 then .aligned else .locked, band := band
        tuning := some (band, tune), locks := sat 65535 (s.clk.locks + 1), offset := 0
        events := orBits s.clk.events 0 } } : State).endKind (fun k => decide (k = .clkLock)) .ok 0)) ∧
    (¬ (s.clk.enable = true ∧ s.clk.align = .acquiring) → exec (.adpllLock band tune) s = .next s) ∧
    (s.clk.enable = true → s.clk.locked = false → exec (.requalify ok) s = .next { s with clk := { s.clk with
      align := if ok then .acquiring else .free, refSrc := if ok then 1 else 0 } }) ∧
    (¬ (s.clk.enable = true ∧ s.clk.locked = false) → exec (.requalify ok) s = .next s) ∧
    (s.clk.locked = true → s.refDecides = false →
      let owners := s.mutedOwners
      let u := (s.each (Tbl.keysWhere (fun _ _ => true) s.fchs) stopForLock).laneSwitch false
      let v := ({ u with clk := { u.clk with
        locked := false, refSrc := if u.clk.selfHold then 0 else 1, align := if u.clk.selfHold then .free else .acquiring
        losses := sat 65535 (u.clk.losses + 1), selfHold := false, slewEnd := none, offset := 0, rangeWarn := false
        events := orBits u.clk.events 1, slewing := u.clk.rampEnd.isSome } } : State).abandonBatch 2
      let w := if u.clk.selfHold then { v with clk := { v.clk with band := 0 } } else v
      let x := if owners.isEmpty then w.fault 0x501 2 .p none 0 [] else owners.foldl (fun s c => s.fault 0x501 2 .cAndP (some c) 0 []) w
      exec .lossOfLock s = .next (x.fireSrc (srcIs 7 2048) x.lc)) ∧
    (s.clk.locked = false ∨ s.refDecides = true → exec .lossOfLock s = .next s) ∧
    (s.clk.align = .locked ∨ s.clk.align = .aligned ∨ s.clk.align = .returning →
      let r := s.mkRec 0x502 3 .a none 0 s.tb []
      ∃ t, exec .lossOfReference s = .next t ∧ State.FaultOnly { s.traceLost with clk := { s.clk with
        before := if s.clk.align = .returning then s.clk.before else s.clk.align
        align := .lost, refSrc := 2, rangeWarn := false, qualified := false, losses := sat 65535 (s.clk.losses + 1), refLostAt := some s.lc
        events := orBits s.clk.events 2, slewing := s.clk.rampEnd.isSome || s.clk.slewEnd.isSome } } t ∧
        (s.mgmtUp = true → s.InOrder r → s.Enters t r)) ∧
    (¬ (s.clk.align = .locked ∨ s.clk.align = .aligned ∨ s.clk.align = .returning) → exec .lossOfReference s = .next s) ∧
    (s.clk.align = .lost → exec .refReturned s = .next { s with clk := if s.clk.retHost then
        { s.clk with qualified := true, events := orBits s.clk.events 3 }
      else { s.clk with qualified := true, events := orBits s.clk.events 3, align := .returning, refSrc := 1, slewing := true } }) ∧
    (s.clk.align ≠ .lost → exec .refReturned s = .next s) ∧
    (s.clk.align = .returning → gap * s.clk.q ≤ 150000000 → ppb ≤ 50 → ∃ t, exec (.returnEnd gap ppb) s = .next t ∧
      t = { s with clk := t.clk } ∧ t.clk.align = s.clk.before ∧ t.clk.events = orBits s.clk.events 4 ∧ t.clk.tbState = s.clk.tbState) ∧
    (s.clk.align = .returning → ¬ (gap * s.clk.q ≤ 150000000 ∧ ppb ≤ 50) → ∃ t, exec (.returnEnd gap ppb) s = .next t ∧
      t = { s with clk := t.clk } ∧ t.clk.align = (if s.clk.q = 1 ∧ s.clk.offset = 0 then .aligned else .locked) ∧
      t.clk.events = s.clk.events ∧ t.clk.tbState = suspect s.clk.tbState) ∧
    (s.clk.align ≠ .returning → exec (.returnEnd gap ppb) s = .next s) ∧
    (s.clk.refSrc = 1 →
      let u : State := { s with fresh := s.fresh + 1, clk := { s.clk with
        freqErr := dev.toInt, phaseErr := (Config.freeWord s.fresh).setWidth 16
        rangeWarn := decide (549755813 < dev.toInt.natAbs) && decide (dev.toInt.natAbs ≤ 604731395) } }
      (dev.toInt.natAbs ≤ 604731395 → exec (.refDeviationMeasure dev) s = .next u) ∧
      (604731395 < dev.toInt.natAbs → exec (.refDeviationMeasure dev) s = exec .lossOfReference u)) ∧
    (s.clk.refSrc ≠ 1 → exec (.refDeviationMeasure dev) s = .next s)

/-- R68, R80, R81, R85 and Table 3.8; the timers of Table 13.1. Time moves by `advanceTo`: the lane cycle and the count
with it, LOCKMON and the channels' streams. -/
def Obligations.RampSlewSyncAndTimerEvents : Prop :=
  (∀ (s : State) (l : Nat), s.lc < l → s.advanceTo l = { s with
    lc := l, tb := s.tbAt l, lockmon := s.lockmonIn (l - s.lc)
    summers := (State.cycles (l - s.lc) s).summers, conv := (State.cycles (l - s.lc) s).conv }) ∧
  (∀ (s : State) (l : Nat), l ≤ s.lc → s.advanceTo l = s) ∧
  (∀ s : State, s.clk.rampEnd = none → exec .clkStepRampEnd s = .next s) ∧
  (∀ (s : State) (e : Nat), s.clk.rampEnd = some e →
    let u := ({ s.advanceTo e with clk := { s.clk with
      rampEnd := none, offset := s.clk.offset + s.clk.rampDelta, events := orBits s.clk.events 7
      slewing := s.clk.slewEnd.isSome || decide (s.clk.align = .returning) } } : State).endJobs
        (fun j => isStep j.kind && decide (j.run.seq = s.clk.rampSeq)) .ok 0
    exec .clkStepRampEnd s = .next (nextRamp (u.jobs.filter (fun j => isStep j.kind)) u)) ∧
  (∀ s : State, s.clk.slewEnd = none → exec .phaseSlewEnd s = .next s) ∧
  (∀ (s : State) (e : Nat), s.clk.slewEnd = some e → exec .phaseSlewEnd s =
    .next (({ s.advanceTo e with clk := { s.clk with slewEnd := none } } : State).fixSlew.endKind (fun k => decide (k = .clkSlew)) .ok 0)) ∧
  (∀ (s : State) (m f : BitVec 16), (s.clk.arm = none ∨ ∃ a, s.clk.arm = some a ∧ a.mark ≠ none) → exec (.syncMark m f) s = .next s) ∧
  (∀ (s : State) (m f : BitVec 16) (a : Arm), s.clk.arm = some a → a.mark = none → exec (.syncMark m f) s =
    .next { s with clk := { s.clk with
      arm := some { a with mark := some (s.lc + 128 +
        (if s.clk.q ≤ 1 then (f.toNat + s.clk.phaseOffset.toNat + 32768) / 65536 else (f.toNat + s.clk.phaseOffset.toNat) / 65536)) }
      syncMargin := m, events := if m.toInt < 250 then orBits s.clk.events 6 else s.clk.events } }) ∧
  (∀ s : State, (s.clk.arm = none ∨ ∃ a, s.clk.arm = some a ∧ a.mark = none) → exec .syncLoad s = .next s) ∧
  (∀ (s : State) (a : Arm) (b : Nat), s.clk.arm = some a → a.mark = some b →
    let u := if a.loadTb then ({ (s.advanceTo b).flushNco with tb := a.tbValue } : State).tmuLoad else s.advanceTo b
    exec .syncLoad s = .next (({ u with
      clk := { u.clk with arm := none, align := .aligned, tbState := if a.loadTb then .synced else u.clk.tbState, events := orBits u.clk.events 5 }
      divAt := u.lc } : State).endKind (fun k => decide (k = .sync)) .ok 0)) ∧
  (∀ s : State, (s.clk.arm = none ∨ ∃ a, s.clk.arm = some a ∧ a.mark ≠ none) → exec .clkSyncWaitExpiry s = .next s) ∧
  (∀ (s : State) (a : Arm), s.clk.arm = some a → a.mark = none → exec .clkSyncWaitExpiry s =
    .next ((s.jobs.filter (fun j => decide (j.kind = .sync))).foldl (fun s j => s.timeoutRun j.run 0)
      (({ s.advanceTo (a.armedAt + a.waitLc) with clk := { s.clk with arm := none } } : State).dropJobs (fun j => decide (j.kind = .sync))))) ∧
  (∀ (s : State) (k : Fin 41), exec (.timerTick k) s =
    .next ((s.advanceTo (nextTick s k)).fireSrc (srcIs 5 k) (s.advanceTo (nextTick s k)).lc)) ∧
  (∀ s : State, exec (.clkTbLoRead none) s = .next { s with
    clk := { s.clk with tbHi := hi32 s.tb }, out := s.out ++ [.readAnswer (BitVec.setWidth 64 (lo32 s.tb))] }) ∧
  (∀ (s : State) (f : Fin 64), exec (.clkTbLoRead (some f)) s = .next { s.updFn f (fun w => { w with tbHi := hi32 s.tb }) with
    out := s.out ++ [.readAnswer (BitVec.setWidth 64 (lo32 s.tb))] })

/-- R135 to R138, R492. What `resetCtx` does to everything else is Table 5.5's; `allocTurn` is R146's pointer. -/
def Obligations.ContextsOpenBindResetClose : Prop :=
  ∀ (p : Pkt) (s : State),
    (startsNow .ctxOpen p s = true → ∀ c, openTarget p s.seen = some c →
      let u := s.seen.allocTurn poolCtx (if openAny p then p.fn.val else c)
      (s.genWaits c = true → exec (.ctxOpen p) s = .next (u.going .ctxOpen p (.ctxOpenWait c) s)) ∧
      (s.genWaits c = false → ∃ t, exec (.ctxOpen p) s = .next t ∧
        t = (u.updCtx c (fun x => { st := .opened, fn := p.fn.val, gen := (x.gen + 1) % 256, minLead := x.minLead })).answered .ctxOpen p .ok
          (c + ((s.ctx c).gen + 1) % 256 * 65536) ∧
        (t.ctx c).st = .opened ∧ (t.ctx c).fn = p.fn.val ∧ (t.ctx c).gen = ((s.ctx c).gen + 1) % 256 ∧
        ∀ x, x ≠ c → t.ctx x = s.ctx x)) ∧
    (startsNow .ctxBind p s = true → ∀ k, bindTarget p s.seen = some k → ∃ t, exec (.ctxBind p) s = .next t ∧
      t = ((s.seen.allocTurn poolThread p.ctx.val).updCtx p.ctx.val (fun x => { x with
        st := .bound, engine := some (k / 4), slot := k % 4, cache := x.pinned })).answered .ctxBind p .ok (k / 4 + 256 * (k % 4)) ∧
      (t.ctx p.ctx.val).st = .bound ∧ (t.ctx p.ctx.val).engine = some (k / 4) ∧ (t.ctx p.ctx.val).slot = k % 4 ∧
      ∀ x, x ≠ p.ctx.val → t.ctx x = s.ctx x) ∧
    (startsNow .ctxReset p s = true →
      (s.genWaits p.ctx.val = true → exec (.ctxReset p) s = .next (s.seen.going .ctxReset p (.ctxOpenWait p.ctx.val) s)) ∧
      (s.genWaits p.ctx.val = false → ∃ t, exec (.ctxReset p) s = .next t ∧
        t = ((s.seen.resetCtx p.ctx.val).nextGen p.ctx.val).going .ctxReset p (.ctxReset p.ctx.val (s.ctx p.ctx.val).gen) s ∧
        ((t.ctx p.ctx.val).st = .opened ∨ (t.ctx p.ctx.val).st = .bound) ∧
        (t.ctx p.ctx.val).steps = [] ∧ (t.ctx p.ctx.val).pages = [] ∧ (t.ctx p.ctx.val).stack = [] ∧ (t.ctx p.ctx.val).pc = 0 ∧
        (t.ctx p.ctx.val).ctrs = [0, 0, 0, 0, 0, 0, 0, 0] ∧ (t.ctx p.ctx.val).preRun = false)) ∧
    (startsNow .ctxClose p s = true → ∃ t, exec (.ctxClose p) s = .next t ∧
      (t.ctx p.ctx.val).st = .closing ∧ (t.ctx p.ctx.val).engine = none ∧ (t.ctx p.ctx.val).steps = [] ∧ (t.ctx p.ctx.val).pages = [] ∧
      (t.ctx p.ctx.val).stack = [] ∧ (t.ctx p.ctx.val).ctrs = [0, 0, 0, 0, 0, 0, 0, 0] ∧
      t = ((s.seen.resetCtx p.ctx.val).updCtx p.ctx.val (fun x => { x with st := .closing, engine := none, slot := 0 })).going .ctxClose p
        (.ctxClose p.ctx.val (t.ctx p.ctx.val).gen) s)

/-- R343, R475, R493, R185 to R191 and Table 5.4. -/
def Obligations.UnitsAreClaimedAndReleasedAndScenesManaged : Prop :=
  ∀ (p : Pkt) (s : State),
    (startsNow .ctxClaim p s = true → ∀ i, claimTarget p s.seen = some i →
      let c := p.ctx.val
      let u := s.seen.allocTurn (poolUnit (kindOf p)) c
      (s.holds c (kindOf p) i = true → exec (.ctxClaim p) s = .next (s.seen.answered .ctxClaim p .ok i)) ∧
      (s.holds c (kindOf p) i = false → ∃ v, exec (.ctxClaim p) s = .next (v.answered .ctxClaim p .ok i) ∧
        (kindOf p = 0 → v = u.updFch i (fun f => { f with owner := some c, rampLc := 64 })) ∧
        (kindOf p = 1 → v = u.updVoice i (fun _ => { owner := some c })) ∧
        (kindOf p = 2 → v = u.updPch i (fun x => { x with owner := some c })) ∧
        (kindOf p = 3 → v = u.updEv i (fun _ => { owner := some c })) ∧
        (kindOf p = 4 → i < 0x400 → v = u.updCon i (fun _ => { owner := some c })) ∧
        (kindOf p = 4 → 0x400 ≤ i → v = u.updEo (i - 0x400) (fun e => {
          owner := some c, high := e.high, lastAt := e.lastAt, dues := e.dues, endAt := e.endAt })) ∧
        (kindOf p = 5 → v = u.updCell i (fun _ => { owner := some c })) ∧
        (kindOf p = 6 → v = u.updBank i (fun b => { b with owner := c, untouched := false, handover := none, handovers := sat 65535 (b.handovers + 1) })) ∧
        (kindOf p = 7 → v = u.updGroup i (fun g => { g with owner := some c })) ∧
        (kindOf p = 8 → v = u.updSlot i (fun _ => { owner := some c })))) ∧
    (startsNow .ctxRelease p s = true →
      let i := instOf p
      let u := s.seen.releaseFch i
      let v := s.seen.releasePch i
      (kindOf p = 0 → (u.fch i).releasing = true → exec (.ctxRelease p) s = .next (u.going .ctxRelease p (.fchRelease i) s)) ∧
      (kindOf p = 0 → (u.fch i).releasing = false → exec (.ctxRelease p) s = .next (u.answered .ctxRelease p .ok 0)) ∧
      (kindOf p = 1 → exec (.ctxRelease p) s = .next ((s.seen.releaseVoice i).answered .ctxRelease p .ok 0)) ∧
      (kindOf p = 2 → (v.pch i).releasing = true → exec (.ctxRelease p) s = .next (v.going .ctxRelease p (.pchRelease i) s)) ∧
      (kindOf p = 2 → (v.pch i).releasing = false → exec (.ctxRelease p) s = .next (v.answered .ctxRelease p .ok 0)) ∧
      (kindOf p = 3 → exec (.ctxRelease p) s = .next ((s.seen.freeEv i).answered .ctxRelease p .ok 0)) ∧
      (kindOf p = 4 → i < 0x400 → exec (.ctxRelease p) s = .next ((s.seen.freeCon i).answered .ctxRelease p .ok 0)) ∧
      (kindOf p = 4 → 0x400 ≤ i → exec (.ctxRelease p) s = .next ((s.seen.freeEo (i - 0x400)).answered .ctxRelease p .ok 0)) ∧
      (kindOf p = 5 → exec (.ctxRelease p) s = .next ((s.seen.freeCell i).answered .ctxRelease p .ok 0)) ∧
      (kindOf p = 6 → exec (.ctxRelease p) s = .next ((s.seen.releaseBank i).answered .ctxRelease p .ok 0)) ∧
      (kindOf p = 7 → exec (.ctxRelease p) s = .next ((s.seen.freeGroup i).answered .ctxRelease p .ok 0)) ∧
      (kindOf p = 8 → exec (.ctxRelease p) s = .next ((s.seen.freeSlot i).answered .ctxRelease p .ok 0))) ∧
    (startsNow .ctxStatus p s = true → let d := ctxReply s p.ctx.val
      exec (.ctxStatus p) s = .next (({ s.seen with out := s.out ++ [.write p.fn.val (pq p 6) (d.take (pw p 5).toNat)] } : State).answered
        .ctxStatus p .ok (if (pw p 5).toNat < d.length then d.length else 0))) ∧
    (startsNow .scnDefine p s = true → ∀ k, s.freeScene = some k → exec (.scnDefine p) s = .next (((s.seen.allocTurn poolScene p.fn.val).updScene k (fun _ => {
      used := true, fn := p.fn.val, members := (List.range (pf p 4 0 10)).map (fun i => (pf p (5 + i) 0 10, pf p (5 + i) 16 8)) })).answered
        .scnDefine p .ok k)) ∧
    (acceptsNow .scnStartAt p s = true → exec (.scnStartAt p) s = .next (s.accepting .scnStartAt p)) ∧
    (startsNow .scnAbort p s = true → exec (.scnAbort p) s = .next
      ((((s.scene (scnOf p)).members.filter (fun m => !s.memberStale m)).foldl (fun s m => s.stopCtx m.1) (s.seen.cancelScene (scnOf p))).answered .scnAbort p .ok 0)) ∧
    (startsNow .scnDelete p s = true → exec (.scnDelete p) s = .next ((s.seen.updScene (scnOf p) (fun _ => {})).answered .scnDelete p .ok 0))

/-- R132, R136 to R139, R344 and Tables 5.3, 5.5 and 5.14. Of the memory it zeroes, every byte is named. -/
def Obligations.DrainsEndAndSpaceReturns : Prop :=
  ∀ (s : State) (c : Fin 1024) (b : Fin 128) (e n : Nat),
    ((s.ctx c).st = .stopping → s.stopDone c = true → exec (.stopDrainEnd c) s = .next (s.updCtx c (fun x => { x with st := .armed }))) ∧
    (¬ ((s.ctx c).st = .stopping ∧ s.stopDone c = true) → exec (.stopDrainEnd c) s = .next s) ∧
    (∀ j g, s.jobs.filter (fun x => match x.kind with | .ctxReset d _ => decide (d = c.val) | _ => false) = [j] → j.kind = .ctxReset c g →
      exec (.resetComplete c) s = .next (if s.resetDone c (fun h => decide (h = g)) = true
        then (s.dropJobs (fun x => decide (x = j))).complete j.run .ok ((g + 1) % 256 * 65536) else s)) ∧
    ((∀ j ∈ s.jobs, ∀ g, j.kind = .ctxReset c g → s.resetDone c (fun h => decide (h = g)) = false) → exec (.resetComplete c) s = .next s) ∧
    (∀ j g, s.jobs.filter (fun x => match x.kind with | .ctxClose d _ => decide (d = c.val) | _ => false) = [j] → j.kind = .ctxClose c g →
      s.resetDone c (fun h => decide (h = g)) = true → s.noOrphans c (fun h => decide (h = g)) = true →
      let u := (s.dropJobs (fun x => decide (x = j))).complete j.run .ok 0
      exec (.closeDrainEnd c) s = .next (if (s.ctx c).st = .closing ∧ (s.ctx c).genDue = 0 ∧ s.resetDone c (fun _ => true) = true ∧ s.noOrphans c (fun _ => true) = true
        then u.updCtx c (fun x => { x with st := .free, fn := 0 }) else u)) ∧
    ((∀ j ∈ s.jobs, ∀ g, j.kind = .ctxClose c g → ¬ (s.resetDone c (fun h => decide (h = g)) = true ∧ s.noOrphans c (fun h => decide (h = g)) = true)) →
      ¬ (s.resetDone c (fun _ => true) = true ∧ s.noOrphans c (fun _ => true) = true) → exec (.closeDrainEnd c) s = .next s) ∧
    (s.genWaits c = true → exec (.orphansReclaimed c) s = .next s) ∧
    (s.genWaits c = false → (s.ctx c).genDue = 1 → exec (.orphansReclaimed c) s = .next ((s.resetCtx c).nextGen c)) ∧
    (s.genWaits c = false → (s.ctx c).genDue = 2 → exec (.orphansReclaimed c) s = .next ((s.updCtx c (fun x => { x with genDue := 0 })).nextGen c)) ∧
    ((s.ctx c).genDue = 0 → s.findJob (fun k => decide (k = .ctxOpenWait c)) = none → exec (.orphansReclaimed c) s = .next s) ∧
    (∀ j, s.genWaits c = false → (s.ctx c).genDue = 0 → s.findJob (fun k => decide (k = .ctxOpenWait c)) = some j →
      let u := s.dropJobs (fun x => decide (x = j))
      (j.run.op = .ctxOpen → exec (.orphansReclaimed c) s = .next ((u.updCtx c (fun x => {
          st := .opened, fn := j.run.p.fn.val, gen := (x.gen + 1) % 256, minLead := x.minLead, genDue := 0 })).complete j.run .ok (c.val + ((s.ctx c).gen + 1) % 256 * 65536))) ∧
      (j.run.op ≠ .ctxOpen → exec (.orphansReclaimed c) s = .next (u.doReset j.run c))) ∧
    (inRange s.sql.quarantine e n = true → s.orphansInto e n = false → ∃ t, exec (.zeroingComplete (.extents e n)) s = .next t ∧
      t.sql.quarantine = dropRange s.owlAhead.sql.quarantine e n ∧ t.bnk.ram = s.bnk.ram ∧
      (∀ a, Memory.read t.sql.dram a = if 16384 * e ≤ a ∧ a < 16384 * e + 16384 * n then 0 else Memory.read s.owlAhead.sql.dram a) ∧
      (s.mem.repair = [] → s.owlAhead.sql.dram = s.sql.dram)) ∧
    (¬ (inRange s.sql.quarantine e n = true ∧ s.orphansInto e n = false) → exec (.zeroingComplete (.extents e n)) s = .next s) ∧
    (inRange (s.bank b).zeroing e n = true → (s.bank b).releasing = false → ∃ t, exec (.zeroingComplete (.bankSpace b e n)) s = .next t ∧
      (t.bank b).zeroing = dropRange (s.bank b).zeroing e n ∧ t.sql = s.sql ∧ (∀ x, x ≠ b.val → t.bank x = s.bank x) ∧
      (∀ a, Memory.read t.bnk.ram a = if bankKey b e ≤ a ∧ a < bankKey b e + n then 0 else Memory.read s.bnk.ram a)) ∧
    (¬ (inRange (s.bank b).zeroing e n = true ∧ (s.bank b).releasing = false) → exec (.zeroingComplete (.bankSpace b e n)) s = .next s) ∧
    ((s.bank b).releasing = true → (s.bank b).trans = none → (s.bank b).st = .on → ∃ t, exec (.zeroingComplete (.bank b)) s = .next t ∧
      (t.bank b).owner = 0x7FF ∧ (t.bank b).st = .hibernate ∧ (t.bank b).releasing = false ∧ (t.bank b).used = [] ∧ (t.bank b).zeroing = [] ∧
      t.sql = s.sql ∧ (∀ x, x ≠ b.val → t.bank x = s.bank x) ∧
      (∀ a, Memory.read t.bnk.ram a = if bankKey b 0 ≤ a ∧ a < bankKey b 0 + 2 ^ 20 then 0 else Memory.read s.bnk.ram a)) ∧
    (¬ ((s.bank b).releasing = true ∧ (s.bank b).trans = none ∧ (s.bank b).st = .on) → exec (.zeroingComplete (.bank b)) s = .next s) ∧
    exec .ctxLeadRead s = .next { s.updCtx s.ctxSel (fun x => { x with minLead := 65535 }) with
      out := s.out ++ [.readAnswer ((viewSel s s.ctxSel 0x8014).setWidth 64)] }

/-- R149 to R155, R279, R280 and R282. -/
def Obligations.SegmentPacketsTakeEffect : Prop :=
  ∀ (p : Pkt) (s : State),
    let c := p.ctx.val
    let k := slotOf (pw p 4)
    let g := allocSeg p
    (startsNow .segAlloc p s = true → ∀ n, s.freeSegSlot = some n →
      let put := fun (u : State) (pool : Nat) (h : Seg) => ({ (u.allocTurn pool c).updSeg n (fun x => { h with used := true, gen := x.gen, ctx := c }) with
        segFree := s.segFree.filter (fun j => decide (j ≠ n)) } : State).answered .segAlloc p .ok (n + 65536 * (s.seg n).gen)
      (∀ o, pb p 5 4 = true → s.fitBank (allocBank p) g.bytes = some o →
        exec (.segAlloc p) s = .next (put (s.seen.takeBank (allocBank p) o g.bytes) poolBank { g with bank := some (allocBank p, o) })) ∧
      (∀ e, pb p 5 4 = false → s.fitExtents g.extents = some e →
        exec (.segAlloc p) s = .next (put (s.seen.takeExtents e g.extents) poolMem { g with ext := e, nExt := g.extents }))) ∧
    (startsNow .segWrite p s = true → exec (.segWrite p) s = .next (s.seen.going .segWrite p .transfer s)) ∧
    (startsNow .segRead p s = true →
      ((s.seg k).bank.isSome = true → exec (.segRead p) s = .next (s.seen.going .segRead p .transfer s)) ∧
      ((s.seg k).bank = none → exec (.segRead p) s = .next ((s.seen.going .segRead p .transfer s).addBulk (newRun .segRead p s) .host 3 k
        (xferOff p (s.seg k) / 256) (ceilDiv (xferOff p (s.seg k) % 256 + xferLen p (s.seg k)) 256)))) ∧
    (startsNow .segFree p s = true → exec (.segFree p) s = .next ((s.seen.freeSeg k).answered .segFree p .ok 0)) ∧
    (startsNow .segPin p s = true →
      (∀ b o, unpins p = false → pinBank p s.seen (s.seg k).bytes = some b → s.fitBank b (s.seg k).bytes = some o →
        let u := if (s.bank b).owner = 0x7FF then (s.seen.allocTurn poolBank c).setOwner b c else s.seen.allocTurn poolBank c
        exec (.segPin p) s = .next ((((u.takeBank b o (s.seg k).bytes).updSeg k (fun x => { x with pin := some (b, o, false) })).going .segPin p
          (.pinCopy k (decide ((s.bank b).owner = 0x7FF))) s).addBulk (newRun .segPin p s) .pin 4 k 0 (s.seg k).units)) ∧
      (∀ b o d, unpins p = true → (s.seg k).pin = some (b, o, d) → (s.seg k).unpinning = false →
        exec (.segPin p) s = .next (((s.seen.updSeg k (fun x => { x with unpinning := true })).dropPin k).answered .segPin p .ok b)) ∧
      (unpins p = true → ((s.seg k).pin = none ∨ (s.seg k).unpinning = true) →
        exec (.segPin p) s = .next (s.seen.answered .segPin p .ok 0x80))) ∧
    (startsNow .segMirror p s = true →
      let t := mirrorTarget p s
      ((s.seg k).mirrored = pb p 5 0 → exec (.segMirror p) s = .next (s.seen.answered .segMirror p .ok 0)) ∧
      (∀ e, (s.seg k).mirrored ≠ pb p 5 0 → s.fitExtents t.extents = some e → exec (.segMirror p) s = .next
        (((((s.seen.allocTurn poolMem c).takeExtents e t.extents).updSeg k (fun x => { x with newExt := some (e, t.extents) })).going .segMirror p (.mirrorCopy k) s).addBulk
          (newRun .segMirror p s) .mirror 4 k 0 t.units)))

/-- R128 to R134, R157, R169, R175, R176, R181 to R184, R298 to R301 and R353 to R355. -/
def Obligations.ProgramPacketsTakeEffect : Prop :=
  ∀ (p : Pkt) (s : State),
    let c := p.ctx.val
    (startsNow .prgLoad p s = true → ∀ u, s.seen.takePages c (newPages p (s.ctx c)) = some u →
      exec (.prgLoad p) s = .next ((((u.allocTurn poolMem c).updCtx c (fun x => { x with
        st := .bound, charges := [], landing := 0, committed := false, forced := false })).unpinSteps c (pf p 4 0 16) (pw p 5).toNat).going .prgLoad p .transfer s)) ∧
    (startsNow .prgCheck p s = true → let t := s.seen.commitProgram c
      exec (.prgCheck p) s = .next ((s.seen.noteCheck t).answered .prgCheck p (if t.fits then .ok else .budget) t.committedRate)) ∧
    (startsNow .prgArm p s = true → let t := s.seen.commitProgram c
      ((t.fits = true ∨ p.force = true) → ∃ u : State, exec (.prgArm p) s = .next (u.answered .prgArm p .ok 0) ∧
        (u.ctx c).st = .armed ∧ (u.ctx c).entry = pf p 4 0 16 ∧ (u.ctx c).policy = policyOf (pf p 4 16 2) ∧ (u.ctx c).forced = !t.fits ∧
        (u.ctx c).stack = [] ∧ (u.ctx c).ctrs = [0, 0, 0, 0, 0, 0, 0, 0] ∧ (∀ x, x ≠ c → u.ctx x = s.ctx x) ∧
        u = { s.seen.allocTurn poolBudget c with ctxs := u.ctxs, bnk := { s.bnk with checkBank := t.badBank, checkSett := t.badSett }, sql :=
          { s.sql with lastCause := t.dramCause, arms := if t.fits then s.sql.arms else sat 65535 (s.sql.arms + 1) } }) ∧
      (t.fits = false → p.force = false → exec (.prgArm p) s = .next (((s.seen.noteCheck t).allocTurn poolBudget c).answered .prgArm p .budget 0))) ∧
    (startsNow .prgStart p s = true → exec (.prgStart p) s = .next ((s.seen.beginPreRun c (s.lc + 8192)).going .prgStart p (.start c) s)) ∧
    (startsNow .prgStop p s = true →
      let begun := (s.ctx c).fetching || Tbl.anyEntry (fun _ j => j.hit.isSome) (s.ctx c).jumps
      (pf p 4 0 1 = 0 → begun = true → (s.ctx c).noWait = true → (s.ctx c).preRun = false →
        exec (.prgStop p) s = .next ((s.seen.updCtx c (fun x => { x with stopAfter := true })).answered .prgStop p .ok 0)) ∧
      (¬ (pf p 4 0 1 = 0 ∧ begun = true ∧ (s.ctx c).noWait = true ∧ (s.ctx c).preRun = false) →
        exec (.prgStop p) s = .next ((s.seen.stopCtx c).answered .prgStop p .ok 0))) ∧
    (startsNow .jmpArm p s = true →
      let j := jslot p
      let k := slotOf (pw p 5)
      let u := (s.seen.dropArming c j).disarm c j
      let put := fun (v : State) (st : Nat) (cp : Option (Nat × Nat)) =>
        (v.updJump c j (fun x => { x with st := st, seg := k, segGen := (v.seg k).gen, entry := jentry p, copy := cp })).pinSteps c
      (disarms p = true → exec (.jmpArm p) s = .next (u.answered .jmpArm p .ok 0)) ∧
      (disarms p = false → (u.seg k).inBank.isSome = true → exec (.jmpArm p) s = .next ((put u 2 none).answered .jmpArm p .ok 0)) ∧
      (∀ b o, disarms p = false → (u.seg k).inBank.isSome = false →
        s.seen.copyBank c (sf ((s.ctx c).step (jentry p)) 0 8 8) = some b → u.fitBank b 16384 = some o →
        exec (.jmpArm p) s = .next (((put ((u.allocTurn poolBank c).takeBank b o 16384) 1 (some (b, o))).going .jmpArm p (.jmpArm c j) s).addBulk
          (newRun .jmpArm p s) (.jump c j) 4 k 0 (u.seg k).copyUnits))) ∧
    (startsNow .ctrSet p s = true → exec (.ctrSet p) s = .next (((s.seen.setCtr c (pf p 4 0 3) (pw p 5)).updCtx c (fun x => { x with
      ctrHeld := pf p 4 0 3 :: (if x.ctrLc = s.lc then x.ctrHeld else []), ctrLc := s.lc })).answered .ctrSet p .ok 0))

/-- R154, R155, R181, R282 and R319; the stored range is the one the copy's meaning uses. -/
def Obligations.CopiesEndAndStoreOnlyTheirTarget : Prop :=
  ∀ (s : State) (slot : BitVec 16) (c : Fin 1024) (n : Fin 4),
    let k := slot.toNat
    (∀ j, s.heldUp j.run = true →
      (s.findJob (isPin k) = some j → exec (.pinCopyEnd slot) s = .next s) ∧
      (s.findJob (fun j => decide (j = .mirrorCopy k)) = some j → exec (.mirrorCopyEnd slot) s = .next s) ∧
      (s.findJob (fun k => decide (k = .jmpArm c n)) = some j → exec (.jmpArmCopyEnd c n) s = .next s)) ∧
    (s.findJob (isPin k) = none → exec (.pinCopyEnd slot) s = .next s) ∧
    (∀ j, s.findJob (isPin k) = some j → s.heldUp j.run = false →
      let u := (s.dropJobs (fun x => decide (x = j))).endBulk j.run.seq
      (∀ b o, (s.seg k).pin = some (b, o, false) →
        let d := u.loadSeg k 0 (s.seg k).bytes
        ∃ t, exec (.pinCopyEnd slot) s = .next t ∧
          t = ((((u.writeBank b o d).updSeg k (fun g => { g with pin := some (b, o, true) })).liftSeg k).complete j.run .ok b) ∧
          t.sql.dram = s.sql.dram ∧ ∀ a, Memory.read t.bnk.ram a =
            if bankKey b o ≤ a ∧ a < bankKey b o + d.length then d.getD (a - bankKey b o) 0 else Memory.read s.bnk.ram a) ∧
      ((∀ b o, (s.seg k).pin ≠ some (b, o, false)) → exec (.pinCopyEnd slot) s = .next (u.complete j.run .staleGen 0))) ∧
    (s.findJob (fun j => decide (j = .mirrorCopy k)) = none → exec (.mirrorCopyEnd slot) s = .next s) ∧
    (∀ j, s.findJob (fun j => decide (j = .mirrorCopy k)) = some j → s.heldUp j.run = false →
      let u := (s.dropJobs (fun x => decide (x = j))).endBulk j.run.seq
      (∀ e m, (s.seg k).newExt = some (e, m) →
        let g : Seg := { s.seg k with ext := e, nExt := m, mirrored := !(s.seg k).mirrored, newExt := none }
        let d := u.readDram (s.seg k) 0 (s.seg k).bytes
        ∃ t, exec (.mirrorCopyEnd slot) s = .next t ∧
          t = ((((((u.updSeg k (fun _ => g)).writeDram g 0 d).enqueueRange g 4 0 (s.seg k).bytes).freeExtents (s.seg k).ext (s.seg k).nExt).liftSeg k).complete j.run .ok 0) ∧
          t.bnk.ram = s.bnk.ram ∧ ∀ a, (∀ i, i < d.length → a ∉ g.dpasOf i) → Memory.read t.sql.dram a = Memory.read s.sql.dram a) ∧
      ((s.seg k).newExt = none → exec (.mirrorCopyEnd slot) s = .next (u.complete j.run .staleGen 0))) ∧
    (s.findJob (fun k => decide (k = .jmpArm c n)) = none → exec (.jmpArmCopyEnd c n) s = .next s) ∧
    (∀ j, s.findJob (fun k => decide (k = .jmpArm c n)) = some j → s.heldUp j.run = false →
      let u := (s.dropJobs (fun x => decide (x = j))).endBulk j.run.seq
      let x := (s.ctx c).jump n
      (∀ b o, x.copy = some (b, o) →
        let d := u.loadSeg x.seg 0 (s.seg x.seg).headBytes
        ∃ t, exec (.jmpArmCopyEnd c n) s = .next t ∧
          t = (((u.writeBank b o d).updJump c n (fun y => { y with st := 2 })).complete j.run .ok 0) ∧
          t.sql.dram = s.sql.dram ∧ ∀ a, Memory.read t.bnk.ram a =
            if bankKey b o ≤ a ∧ a < bankKey b o + d.length then d.getD (a - bankKey b o) 0 else Memory.read s.bnk.ram a) ∧
      (x.copy = none → exec (.jmpArmCopyEnd c n) s = .next ((u.updJump c n (fun y => { y with st := if y.st = 1 then 2 else y.st })).complete j.run .ok 0)))

/-- R193, R194, R219, R230, R234 to R238, R250 to R264 and R403. -/
def Obligations.ChannelPacketsTakeEffect : Prop :=
  ∀ (p : Pkt) (s : State),
    (startsNow .fchConfig p s = true →
      let c := fchOf p
      let u := s.seen.updFch c (fun f => { f with rampLc := pf p 5 0 11 })
      (fchOn p = true → ((s.fch c).st = .muted ∨ (s.fch c).st = .stopping) →
        exec (.fchConfig p) s = .next ((u.updFch c (fun f => { f with st := .starting, boundary := s.startCount c })).going .fchConfig p
          (.fchStart c (s.lcAt (s.startCount c)) (s.fch c).rampEnd.isSome) s)) ∧
      (fchOn p = true → ¬ ((s.fch c).st = .muted ∨ (s.fch c).st = .stopping) →
        exec (.fchConfig p) s = .next (u.answered .fchConfig p .ok 0)) ∧
      (fchOn p = false → exec (.fchConfig p) s = .next ((u.stopFch c).answered .fchConfig p .ok 0))) ∧
    (startsNow .fchMode p s = true →
      let c := fchOf p
      ((s.fch c).st = .failed → exec (.fchMode p) s = .next (s.seen.answered .fchMode p .ok 0)) ∧
      ((s.fch c).st ≠ .failed → exec (.fchMode p) s = .next
        (((((s.seen.dropCommit c).reRate c (fmMode p)).updFch c (fun f => { f with mode := fmMode p, centre := (pw p 5).toNat })).updAoc c (fun a => { a with
          inForce := {}, pendSet := {}, pending := 0, windows := 0, lastSmall := false })).answered .fchMode p .ok 0))) ∧
    (startsNow .pchConfig p s = true →
      let n := pcOf_ p
      let c := s.pch n
      let u := s.seen.updPch n (fun c => c.configure p s.lc)
      (c.st = .disabled → pcRange p ≠ c.range → exec (.pchConfig p) s = .next ((s.seen.updPch n (fun c => { c with
        st := .switching, load := 0, swAt := s.lc, swStage := 0, swNewRange := pcRange p, swEnable := pcEnable p
        swOld := some (c.strobed, c.group, c.div, c.settleThr, c.clear)
        strobed := pcStrobed p, group := pcGroup p, div := pcDiv p, settleThr := pcThr p, clear := pcClear p
        force := 0, ramp := some (c.forceNow s.lc, 0, s.lc, s.lc + 102400) })).going .pchConfig p (.pchSwitch n) s)) ∧
      (¬ (c.st = .disabled ∧ pcRange p ≠ c.range) →
        (pcEnable p = true → c.st = .ramping → exec (.pchConfig p) s = .next (((u.endKind (fun k => decide (k = .pchDisable n)) .ok 0).updPch n (fun c => {
          c.freeze (u.endKind (fun k => decide (k = .pchDisable n)) .ok 0).lc with st := .enabled, ticksOff := false })).answered .pchConfig p .ok 0)) ∧
        (pcEnable p = true → c.st ≠ .ramping → exec (.pchConfig p) s = .next ((u.updPch n (fun c => { c with
          st := .enabled, ticksOff := false })).answered .pchConfig p .ok 0)) ∧
        (pcEnable p = false → c.st = .enabled → exec (.pchConfig p) s = .next ((u.rampPch n).going .pchConfig p (.pchDisable n) s)) ∧
        (pcEnable p = false → c.st ≠ .enabled → exec (.pchConfig p) s = .next (u.answered .pchConfig p .ok 0)))) ∧
    (startsNow .pchLoad p s = true → exec (.pchLoad p) s = .next
      ((((List.range 16).filter (fun n => pb p 4 n)).foldl (fun u n => u.updPch n (fun c => { c with
        holdCode := (pw p (5 + n)).setWidth 20, holdFresh := true, holdSrc := 0 })) s.seen).answered .pchLoad p .ok 0)) ∧
    (startsNow .pchStrobe p s = true →
      let u := (groupsOf (pw p 4)).foldl (fun u g => u.strobe g (s.boundaryFrom (s.lc + 1) 8)) s.seen
      ((pw p 6).toNat ≤ 1 → exec (.pchStrobe p) s = .next (u.answered .pchStrobe p .ok 0)) ∧
      (1 < (pw p 6).toNat → exec (.pchStrobe p) s = .next { u with sched := u.sched ++ [{
        run := newRun .pchStrobe p s, act := s.tb + BitVec.ofNat 64 (pw p 5).toNat, period := (pw p 5).toNat, reps := (pw p 6).toNat - 1 }] })) ∧
    (startsNow .pchQueue p s = true → exec (.pchQueue p) s = .next (s.seen.going .pchQueue p .transfer s)) ∧
    (startsNow .vocConfig p s = true →
      let v := vocOf p
      let u := ((s.seen.carryF v).updVoice v (fun x => if pb p 5 17 then x.setBase (signed (pw p 6)) s.lc else x)).updVoice v (fun x => { x with
        vrec := vocRec p x.vrec.base, followHeld := false, t := if pb p 5 5 then 0 else x.t, f := if pb p 5 5 then 0 else x.f, atLimit := if pb p 5 5 then false else x.atLimit })
      (pb p 5 16 = false → exec (.vocConfig p) s = .next (u.answered .vocConfig p .ok 0)) ∧
      (pb p 5 16 = true → exec (.vocConfig p) s = .next ((u.vocHop v p).answered .vocConfig p .ok 0)))

/-- R357 to R361, R369, R371, R374, R379, R381 to R388 and R496. -/
def Obligations.MeasurementAndEventPacketsTakeEffect : Prop :=
  ∀ (p : Pkt) (s : State),
    (startsNow .tmuConfig p s = true → exec (.tmuConfig p) s = .next ((s.seen.updInput (tcInput p) (fun i => { i with
      legacy := tcLegacy p, slope := tcSlope p, hyst := tcHyst p, holdoff := tcHold p, thresh := BitVec.ofInt 16 (tcThresh p)
      settling := true })).going .tmuConfig p (.tmuConfig (tcInput p)) s)) ∧
    (startsNow .tmuRun p s = true → exec (.tmuRun p) s = .next (((s.seen.takePositions p).updSlot (trSlot p) (fun k => { k with
      discards := if k.st ≠ 0 then sat 255 (k.discards + 1) else k.discards
      st := if trDest p = 0 then 1 else 2, func := trFunc p, dest := trDest p, start := trStart p, stop := trStop p
      target := trTarget p, n := trN p, timeoutLc := trTimeout p, blk := { from_ := 65536 * (s.seen.takePositions p).lc } })).going .tmuRun p (.tmuRun (trSlot p)) s)) ∧
    (startsNow .tmuRead p s = true → let d := viewBytes (viewTmu s.seen) (64 * trSlot p) 16
      exec (.tmuRead p) s = .next (({ s.seen with out := s.out ++ [.write p.fn.val (pq p 6) (d.take (pw p 5).toNat)] } : State).answered .tmuRead p .ok
        (if (pw p 5).toNat < d.length then d.length else 0))) ∧
    (startsNow .evtRoute p s = true →
      let k := erChannel p
      let u := s.seen.snapRegs k
      let v := u.updEv k (fun e => { e with source := erSource p, direct := erDirect p })
      (erRemove p = true → u.consChannel (erCons p) = some k →
        let t := (u.updEv k (fun e => { e with cons := e.cons.filter (fun x => decide (x ≠ erCons p)) })).unattach (erCons p)
        exec (.evtRoute p) s = .next (t.answered .evtRoute p .ok (t.ev k).fanout)) ∧
      (erRemove p = true → u.consChannel (erCons p) ≠ some k → exec (.evtRoute p) s = .next (u.answered .evtRoute p .ok (u.ev k).fanout)) ∧
      (erRemove p = false → (erNone p = true ∨ v.consChannel (erCons p) = some k) → exec (.evtRoute p) s = .next (v.answered .evtRoute p .ok (v.ev k).fanout)) ∧
      (erRemove p = false → erNone p = false → v.consChannel (erCons p) ≠ some k →
        let t := (v.updEv k (fun e => { e with cons := e.cons ++ [erCons p] })).attach (erCons p) k
        exec (.evtRoute p) s = .next (t.answered .evtRoute p .ok (t.ev k).fanout))) ∧
    (startsNow .evtLut p s = true →
      let l := elCell p
      let u := (elUsed p).foldl (fun u i => u.updEv (elIn p i) (fun e => { e with cells := e.cells ++ [4 * l + i] })) (s.seen.freeInputs l)
      exec (.evtLut p) s = .next ((u.updCell l (fun c => {
        owner := c.owner, truth := elTruth p, ff := elFf p, ins := [elIn p 0, elIn p 1, elIn p 2, elIn p 3], minw := elMinw p
        used := BitVec.ofNat 4 (([0, 1, 2, 3].filter (dependsOn (elTruth p))).foldl (fun a i => a + 2 ^ i) 0), cfgAt := u.lc, at_ := u.lc })).answered .evtLut p .ok 0)) ∧
    (startsNow .evtFire p s = true →
      let k := erChannel p
      let u := s.seen.register k s.lc none
      ((pw p 6).toNat ≤ 1 → exec (.evtFire p) s = .next (u.answered .evtFire p .ok 0)) ∧
      (1 < (pw p 6).toNat → exec (.evtFire p) s = .next { u with sched := u.sched ++ [{
        run := newRun .evtFire p s, act := s.tb + BitVec.ofNat 64 (pw p 5).toNat, period := (pw p 5).toNat, reps := (pw p 6).toNat - 1 }] }))

/-- R346 to R351, R399, R402, R403, R406 to R409, R421. Log entries 45 and 46 say what the spec leaves open of BNK_HANDOVER to
the present owner and of a timed NEUTRAL. -/
def Obligations.CalibrationAndBankPacketsTakeEffect : Prop :=
  ∀ (p : Pkt) (s : State),
    let b := bpBank p
    let c := acChan p
    (startsNow .calRun p s = true →
      (crKind p = 2 → exec (.calRun p) s = .next ({ s.seen with cal := { s.cal with bgRun := !crStop p } }.answered .calRun p .ok 0)) ∧
      (crKind p ≠ 2 →
        let u : State := { s.seen with cal := { s.cal with batch := some { kind := crKind p, extref := pw p 5, refBad := !s.traceRef } } }
        exec (.calRun p) s = .next ((if crKind p = 0 then u.startSelf else u).going .calRun p .cal s))) ∧
    (startsNow .calSave p s = true → exec (.calSave p) s = .next (s.seen.going .calSave p .transfer s)) ∧
    (startsNow .calRestore p s = true →
      exec (.calRestore p) s = .next (({ s.seen with cal := { s.cal with batch := some { kind := 3 } } } : State).going .calRestore p .transfer s)) ∧
    (startsNow .aocCtrl p s = true →
      (acAction p = 0 → exec (.aocCtrl p) s = .next ((s.seen.updAoc c (fun a => { a with freeze := false })).answered .aocCtrl p .ok 0)) ∧
      (acAction p = 1 → exec (.aocCtrl p) s = .next ((s.seen.updAoc c (fun a => { a with freeze := true })).answered .aocCtrl p .ok 0)) ∧
      (acAction p = 2 → exec (.aocCtrl p) s = .next (((s.seen.dropCommit c).updAoc c (fun a => { a.hostDecides s.lc with
        inForce := {}, pendSet := {}, pending := 0, lastSmall := false, windows := 0, last := s.tb, host := sat 255 (a.host + 1) })).answered .aocCtrl p .ok 0)) ∧
      (acAction p = 3 → exec (.aocCtrl p) s = .next ((s.seen.updAoc c (fun a => { (a.hostDecides s.lc).commit s.tb with
        host := sat 255 (a.host + 1) })).answered .aocCtrl p .ok 0))) ∧
    (acceptsNow .aocCtrl p s = true →
      exec (.aocCtrl p) s = .next (
        if acAction p = 3 then (s.accepting .aocCtrl p).updAoc c (fun a => { a with pending := 2 })
        else if acAction p = 2 then (s.accepting .aocCtrl p).dropCommit c
        else s.accepting .aocCtrl p)) ∧
    (startsNow .bnkPower p s = true →
      (((s.bank b).trans.isSome = true ∨ (s.bank b).releasing = true) → exec (.bnkPower p) s = .next
        (((s.seen.endKind (fun k => decide (k = .bnkPower b true)) .busy 0).updBank b (fun k => { k with
          waiting := some (bpState p, bpZero p) })).going .bnkPower p (.bnkPower b true) s)) ∧
      ((s.bank b).trans = none → (s.bank b).releasing = false → (s.bank b).st = bpState p →
        exec (.bnkPower p) s = .next (s.seen.answered .bnkPower p .ok 0)) ∧
      ((s.bank b).trans = none → (s.bank b).releasing = false → (s.bank b).st ≠ bpState p → exec (.bnkPower p) s = .next
        ((s.seen.updBank b (fun k => { k with trans := some (bpState p, bpZero p) })).going .bnkPower p (.bnkPower b false) s))) ∧
    (startsNow .bnkHandover p s = true →
      (bhOwner p = (s.bank b).owner → exec (.bnkHandover p) s = .next ((s.seen.withdrawHandover b).answered .bnkHandover p .ok 0)) ∧
      (bhOwner p ≠ (s.bank b).owner → exec (.bnkHandover p) s = .next
        (((s.seen.updBank b (fun k => { k with handover := some (bhOwner p, s.lc) })).interim (newRun .bnkHandover p s) .handoverPending).going
          .bnkHandover p (.handover b) s)))

/-- R332, R333, R437, R438, R457, R460, R465, Tables 4.23 and 17.13. Log entry 47 names what the spec leaves open of MEM_DIAG
once the freeze timeout is due. -/
def Obligations.FirmwareLogAndDiagnosticPacketsTakeEffect : Prop :=
  ∀ (p : Pkt) (s : State),
    let r := newRun .memDiag p s
    let k := diagPc p
    (startsNow .fwStage p s = true → exec (.fwStage p) s = .next
      ((s.seen.updImg s.fw.inactive (stageType p) (fun _ => { complete := false, preset := false })).going .fwStage p .transfer s)) ∧
    (acceptsNow .fwSchedule p s = true → exec (.fwSchedule p) s = .next
      { s.accepting .fwSchedule p with fw := { s.fw with sched := 1, actTime := p.act } }) ∧
    (startsNow .fwStatus p s = true →
      exec (.fwStatus p) s = .next (s.seen.reply (newRun .fwStatus p s) (pw p 5).toNat (pq p 6) (viewBytes (viewFw s.seen) 0 136))) ∧
    (startsNow .fwCancel p s = true →
      (∀ t, s.activation = some t → s.fw.sched < 3 → s.lc < s.lcAt t.act → exec (.fwCancel p) s = .next
        ((s.seen.unschedule.complete t.run .busy 1).answered .fwCancel p .ok 1)) ∧
      ((∀ t, s.activation = some t → ¬ (s.fw.sched < 3 ∧ s.lc < s.lcAt t.act)) →
        exec (.fwCancel p) s = .next (s.seen.answered .fwCancel p .ok 0))) ∧
    (startsNow .logRead p s = true → exec (.logRead p) s = .next (s.seen.going .logRead p .transfer s)) ∧
    (startsNow .faultAck p s = true →
      let x := s.record (pf p 4 0 12)
      let u := s.seen.ackRec (pf p 4 0 12)
      exec (.faultAck p) s = .next ((if x.noCtx then u else u.fixFaulted x.ctx).answered .faultAck p .ok 0)) ∧
    (startsNow .memDiag p s = true →
      (diagAction p = 0 → exec (.memDiag p) s = .next
        ((s.seen.updPc k (fun x => { x with captureRead := x.captureRead || x.frozen.isSome })).endDiag r 0)) ∧
      (∀ t, diagAction p ≠ 0 → (s.pc k).frozen = some t → t + 16000000 ≤ s.lc →
        exec (.memDiag p) s = .next ((s.seen.freezeOver k t).endDiag r 0)) ∧
      (∀ t, diagAction p ≠ 0 → (s.pc k).frozen = some t → s.lc < t + 16000000 → (s.pc k).unfreeze.isSome = true →
        exec (.memDiag p) s = .next (s.seen.endDiag r 0)) ∧
      (∀ t, diagAction p = 1 → (s.pc k).frozen = some t → s.lc < t + 16000000 → (s.pc k).unfreeze = none →
        exec (.memDiag p) s = .next ((s.seen.unfreezePc k 0).endDiag r 1)) ∧
      (diagAction p = 1 → (s.pc k).frozen = none → exec (.memDiag p) s = .next (s.seen.endDiag r 0)) ∧
      (∀ t, diagAction p = 2 → (s.pc k).frozen = some t → s.lc < t + 16000000 → (s.pc k).unfreeze = none →
        let u := s.seen.retireCaptured k 1
        exec (.memDiag p) s = .next (if (u.pc k).copying.isSome then u.going .memDiag p (.memRetire k) s else u.endDiag r 1)) ∧
      (∀ c, diagAction p = 2 → (s.pc k).frozen = none → (s.pc k).capture = some c → s.rowLive k c.bank c.row = true → (s.pc k).copying = none →
        let u := s.seen.startRetire k c.bank c.row
        exec (.memDiag p) s = .next (if (u.pc k).copying.isSome then u.going .memDiag p (.memRetire k) s else u.endDiag r 0)) ∧
      (diagAction p = 2 → (s.pc k).frozen = none →
        (∀ c, (s.pc k).capture = some c → ¬ (s.rowLive k c.bank c.row = true ∧ (s.pc k).copying = none)) →
        exec (.memDiag p) s = .next (s.seen.endDiag r 0)))

/-- R106, R120, R121, R150, R154, R429, Tables 4.23 and 4.25; the stored bytes are those of the place the meaning uses. -/
def Obligations.TransfersEndFailOrTimeOut : Prop :=
  ∀ (s : State) (fn : Fin 64) (ring : Fin 16) (tag : BitVec 16) (data : List Byte),
    let at_ := fun (p : JobKind → Bool) => s.jobOf fn ring tag p
    (at_ (fun k => decide (k = .transfer)) = none →
      exec (.hostTransferEnd fn ring tag data) s = .next s ∧ exec (.hostReadFailure (.data fn ring tag data)) s = .next s) ∧
    (∀ j, at_ (fun k => decide (k = .transfer)) = some j →
      let u := s.dropJob j
      let ends := fun (t : State) => s.heldUp j.run = false → exec (.hostTransferEnd fn ring tag data) s = .next t
      (s.heldUp j.run = true → exec (.hostTransferEnd fn ring tag data) s = .next s) ∧
      (j.run.op = .segWrite →
        let k := slotOf (pw j.run.p 4)
        let g := s.seg k
        let o := xferOff j.run.p g
        let d := data.take (xferLen j.run.p g)
        ∃ t, ends t ∧ t = ((u.storeSeg k o d).complete j.run .ok 0) ∧
          (∀ a, (g.bank = none → ∀ i, i < d.length → a ∉ g.dpasOf (o + i) ∧
              ∀ e n, g.newExt = some (e, n) → a ∉ { g with ext := e, nExt := n, mirrored := !g.mirrored : Seg }.dpasOf (o + i)) → Memory.read t.sql.dram a = Memory.read s.sql.dram a) ∧
          (∀ a, (∀ b x, g.bank = some (b, x) → ¬ (bankKey b (x + o) ≤ a ∧ a < bankKey b (x + o) + d.length)) →
            (g.bank = none → ∀ c ∈ s.copiesOf k, ¬ (bankKey c.1 (c.2.1 + o) ≤ a ∧ a < bankKey c.1 (c.2.1 + o) + min (c.2.2 - o) d.length)) →
            Memory.read t.bnk.ram a = Memory.read s.bnk.ram a)) ∧
      (j.run.op = .prgLoad → ends ((takePrgLoad j.run data u).complete j.run .ok 0)) ∧
      (j.run.op = .pchQueue → ends ((takePchQueue j.run data u).complete j.run .ok 0)) ∧
      (j.run.op = .fwStage → ends ((u.fillSlot (stageType j.run.p) (data.take (stageLen j.run.p))).complete j.run .ok 0)) ∧
      (j.run.op = .calRestore → ends (takeCalRestore j.run data u)) ∧
      (j.run.op = .segRead → ends (endSegRead j.run u)) ∧
      (j.run.op = .calSave → ends ((u.replyData j.run (pw j.run.p 5).toNat (pq j.run.p 6) (calBlob u)).complete j.run .ok blobLen)) ∧
      (j.run.op = .logRead → ends ((u.emit (.write j.run.p.fn.val (pq j.run.p 6) (s.logBytes j.run.p.fn (pf j.run.p 4 0 12) (pf j.run.p 5 0 13)))).complete
        j.run .ok (s.log.next + 4096 * b2n s.log.wrapped))) ∧
      (j.run.op = .getInfo → ends (u.reply j.run (pw j.run.p 5).toNat (pq j.run.p 6) (infoPage u j.run.p.fn.val (pf j.run.p 4 0 4)))) ∧
      (reads j.run.op = true → exec (.hostReadFailure (.data fn ring tag data)) s = .next
        (((dropTransfer j.run data .fault data.length u).fault 0x903 1 (.f fn) (if usesCtx j.run.op then some j.run.p.ctx.val else none) ring
          (detQ j.run .fault data.length data.length)).complete j.run .fault data.length)) ∧
      (reads j.run.op = false → exec (.hostReadFailure (.data fn ring tag data)) s = .next s)) ∧
    ((s.ring fn ring).enable = true → (s.ring fn ring).error = false → exec (.hostReadFailure (.ring fn ring)) s = .next
      ((s.updRing fn ring (fun k => { k with error := true, errCode := 1 })).fault 0x903 1 (.f fn) none ring [word (256 * ring), 0, 0, 0, 0, word fn])) ∧
    (¬ ((s.ring fn ring).enable = true ∧ (s.ring fn ring).error = false) → exec (.hostReadFailure (.ring fn ring)) s = .next s) ∧
    (at_ (fun k => !ownTimeout k) = none → exec (.commandTimeout fn ring tag data) s = .next s) ∧
    (∀ j, at_ (fun k => !ownTimeout k) = some j → exec (.commandTimeout fn ring tag data) s = .next (if s.heldUp j.run = true then s else
      (undoJob j data ((s.advanceTo (j.run.born + timeoutLc j s)).dropJob j)).timeoutRun j.run 0))

/-- R17, R113, R114, R117 and R491. -/
def Obligations.TimedActionsTakeEffectInOrder : Prop :=
  ∀ s : State,
    (s.sched.all (fun x => decide (x.run.op = .fwSchedule)) = true → exec .timedActionActivation s = .next s) ∧
    (s.sched.all (fun x => decide (x.run.op = .fwSchedule)) = false → ∃ t ∈ s.sched,
      t.run.op ≠ .fwSchedule ∧
      (∀ x ∈ s.sched, x.run.op ≠ .fwSchedule →
        t.act.toNat < x.act.toNat ∨ (t.act = x.act ∧ t.run.seq ≤ x.run.seq)) ∧
      let w := s.advanceTo (s.lcAt t.act)
      let u : State := { w with sched := w.sched.filter (fun x => decide (x.run.seq ≠ t.run.seq)) }
      let r : Run := { t.run with born := u.lc }
      let m := meaningOf t.run.op
      (∀ st res, orElse (periodCheck r.op r.p) (m.check r u) = some (st, res) →
        exec .timedActionActivation s = .next { m.fail r st (u.complete r st res) with actAt := some u.lc }) ∧
      (orElse (periodCheck r.op r.p) (m.check r u) = none → periodic r.op = false →
        exec .timedActionActivation s = .next { m.act r u with actAt := some u.lc }) ∧
      (orElse (periodCheck r.op r.p) (m.check r u) = none → periodic r.op = true →
        let v := m.act r u
        exec .timedActionActivation s = .next { (if t.reps ≤ 1 then v.complete r .ok r.skipped else { v with
          sched := v.sched ++ [{ run := r, act := t.act + BitVec.ofNat 64 (periodOf r.op r.p), period := periodOf r.op r.p, reps := t.reps - 1 }] })
          with actAt := some u.lc }))

/-- R95, R100 to R104, R108, R109 and R115. An entry goes to TAIL's place with the phase bit, TAIL moves on, and the ring's
vector is due where it is enabled. -/
def Obligations.PacketsAreFetchedAndCompletionsWritten : Prop :=
  ∀ (s : State) (fn : Fin 64) (ring cq : Fin 16) (len : BitVec 16) (vec : Fin 32),
    let k := s.ring fn ring
    let q := s.cqr fn k.cqF.toNat
    let size := 2 ^ k.sizeF.toNat
    let fetch := fun (t : State) => exec (.packetFetch fn ring len) s = .next t
    let u := s.passTurn fn ring
    let stop := fun (code : BitVec 3) => u.updRing fn ring (fun k => { k with error := true, errCode := code })
    let full := fun (f : Nat) => 64 ≤ s.inFlight (fun x => decide (x = f))
    let ready := fun (f r : Nat) => s.ringReady f r = true
    let serves := s.mgmtUp = true ∧ s.fetchTurn = some (fn.val, ring.val)
    let bad := len.toNat % 4 ≠ 0 ∨ len.toNat < 4 ∨ 1024 < len.toNat ∨ size ≤ len.toNat / 4
    let short := (k.tail.toNat + size - k.head.toNat) % size < len.toNat / 4
    (¬ serves → fetch s) ∧
    (s.fetchTurn = some (fn.val, ring.val) → s.inFlight (fun _ => true) < 256 ∧ ¬ full fn ∧ ready fn ring ∧
      (∃ i, (s.sys.fromFn + i) % 64 = fn.val ∧ ∀ j < i, full ((s.sys.fromFn + j) % 64) ∨ ∀ r < 16, ¬ ready ((s.sys.fromFn + j) % 64) r) ∧
      ∃ i, ((s.fnWin fn).fromRing + i) % 16 = ring.val ∧ ∀ j < i, ¬ ready fn (((s.fnWin fn).fromRing + j) % 16)) ∧
    (s.inFlight (fun _ => true) < 256 → ¬ full fn → ready fn ring → s.fetchTurn ≠ none) ∧
    (serves → ¬ (q.enable = true ∧ q.error = false) → fetch (stop 5)) ∧
    (serves → q.enable = true → q.error = false →
      (bad → fetch (stop 3)) ∧
      (¬ bad → short → fetch u) ∧
      (¬ bad → ¬ short → fetch
        (u.updRing fn ring (fun k => { k with head := BitVec.ofNat 16 ((k.head.toNat + len.toNat / 4) % size) })))) ∧
    (s.held.find? (fun c => decide (c.fn = fn.val) && decide (c.cq = cq.val)) = none → exec (.completionWrite fn cq) s = .next s) ∧
    (∀ c, s.held.find? (fun c => decide (c.fn = fn.val) && decide (c.cq = cq.val)) = some c →
      let q := s.cqr fn cq
      let u : State := { s with held := s.held.erase c }
      ((c.suppressed = true ∨ s.linkHeld = true ∨ ¬ (q.enable = true ∧ q.error = false)) →
        exec (.completionWrite fn cq) s = .next u.release) ∧
      (c.suppressed = false → s.linkHeld = false → q.enable = true → q.error = false →
        ((q.full = true ∨ s.mgmtUp = false) → exec (.completionWrite fn cq) s = .next s) ∧
        (q.full = false → s.mgmtUp = true → exec (.completionWrite fn cq) s = .next
          (u.postEntry fn cq (pack [(0, c.tag.toNat), (16, c.ctx), (27, b2n c.interim), (28, c.ring)])
            (pack [(0, statusByte c.status), (8, c.result.toNat)]) c.time).release))) ∧
    ((s.fnWin fn).notices = [] → exec (.faultNotice fn) s = .next s) ∧
    (∀ n ns, (s.fnWin fn).notices = n :: ns →
      let q := s.cqr fn 0
      let u := s.updFn fn (fun w => { w with notices := ns })
      let go := s.mgmtUp = true ∧ q.enable = true ∧ q.error = false ∧ q.full = false
      (s.linkHeld = true → exec (.faultNotice fn) s = .next u) ∧
      (s.linkHeld = false → go → exec (.faultNotice fn) s = .next (u.postEntry fn 0 (pack [(0, 0xFFFF), (16, n.ctx)])
        (pack [(0, 0x31), (8, n.index), (31, b2n n.noCtx)]) n.time)) ∧
      (s.linkHeld = false → ¬ go → exec (.faultNotice fn) s = .next s)) ∧
    (let w := s.fnWin fn
      let last := Tbl.get none w.vecLast vec
      let send := fun (t : State) => exec (.msixVectorSend fn vec) s = .next t
      let left := w.vecPending.filter (fun x => decide (x ≠ vec.val))
      (vec.val ∉ w.vecPending → send s) ∧
      (w.msixOn = false → send s) ∧
      (vec.val ∈ w.vecPending → w.msixOn = true → (w.msixMask = true ∨ vec.val ∉ w.vecOpen) → send (s.updFn fn (fun w => { w with vecPending := left, pba := insertNat vec w.pba }))) ∧
      (vec.val ∈ w.vecPending → w.msixOn = true → w.msixMask = false → vec.val ∈ w.vecOpen → (∃ t, last = some t ∧ s.lc < t + 3200) → send s) ∧
      (vec.val ∈ w.vecPending → w.msixOn = true → w.msixMask = false → vec.val ∈ w.vecOpen → (∀ t, last = some t → t + 3200 ≤ s.lc) → send
        ((s.updFn fn (fun w => { w with vecPending := left, vecLast := Tbl.set none w.vecLast vec (some s.lc) })).emit
          (.msix fn vec (w64 (Tbl.get 0 w.msix (4 * vec)) (Tbl.get 0 w.msix (4 * vec + 1))) (Tbl.get 0 w.msix (4 * vec + 2))))))

/-- R91, R96, R100, R102, R262, R366, R476, Tables 4.3 and 4.8 to 4.15. Log entry 3 says what the model does of a ring write
while the management processor does not run, log entry 4 of a SIZE of 16. -/
def Obligations.RingRegistersAndWindowDoorbells : Prop :=
  ∀ (s : State) (fn : Fin 64) (r : Fin 16) (v : W32),
    let hold := fun (o : Nat) => ({ s with sys := { s.sys with heldWrites := s.sys.heldWrites ++ [(fn.val, o, v)] } } : State)
    (s.fnLive fn = false →
      exec (.sysCrCtrlWrite fn r v) s = .next s ∧ exec (.sysCrTailDoorbell fn r v) s = .next s ∧
      exec (.sysCqCtrlWrite fn r v) s = .next s ∧ exec (.sysCqHeadDoorbell fn r v) s = .next s ∧
      exec (.sysFnFire fn v) s = .next s ∧ exec (.sysFnStrobe fn v) s = .next s) ∧
    (s.fnLive fn = true → s.mgmtUp = false →
      exec (.sysCrCtrlWrite fn r v) s = .next (hold (0x108 + 32 * r.val)) ∧
      exec (.sysCrTailDoorbell fn r v) s = .next (hold (0x10C + 32 * r.val)) ∧
      exec (.sysCqCtrlWrite fn r v) s = .next (hold (0x408 + 32 * r.val)) ∧
      exec (.sysCqHeadDoorbell fn r v) s = .next (hold (0x40C + 32 * r.val))) ∧
    (s.fnLive fn = true → s.mgmtUp = true →
      let small := decide ((v.extractLsb' 8 4 : BitVec 4).toNat < 8)
      exec (.sysCrCtrlWrite fn r v) s = .next (s.updRing fn r (fun k =>
        let j := { k with enable := bit v 0, size := v.extractLsb' 8 4, cq := v.extractLsb' 16 4 }
        if bit v 0 = true ∧ k.enable = false then { j with
          head := 0, tail := 0, error := small, errCode := if small then 4 else 0, baseF := k.base, sizeF := j.size, cqF := j.cq } else j)) ∧
      exec (.sysCrTailDoorbell fn r v) s = .next (s.updRing fn r (fun k =>
        let j := { k with tail := v.setWidth 16 }
        if k.enable = true ∧ k.error = false ∧ 2 ^ k.sizeF.toNat ≤ j.tail.toNat then { j with error := true, errCode := 2 } else j)) ∧
      exec (.sysCqCtrlWrite fn r v) s = .next (s.updCq fn r (fun k =>
        let j := { k with enable := bit v 0, irqEn := bit v 1, size := v.extractLsb' 8 4, vector := v.extractLsb' 16 5 }
        if bit v 0 = true ∧ k.enable = false then { j with
          head := 0, tail := 0, phase := true, error := small, baseF := k.base, sizeF := j.size } else j)) ∧
      exec (.sysCqHeadDoorbell fn r v) s = .next (s.updCq fn r (fun k => { k with head := v.setWidth 16 }))) ∧
    (s.fnLive fn = true →
      let k := bits v 0 8
      let may := s.heldByFn fn (s.ev k).owner = true ∧ (s.ev k).source = softSource
      (may → exec (.sysFnFire fn v) s = .next (s.register k s.lc none)) ∧
      (¬ may → exec (.sysFnFire fn v) s = .next (s.updFn fn (fun w => { w with fireRejects := sat 65535 (w.fireRejects + 1) }))) ∧
      exec (.sysFnStrobe fn v) s = .next ((groupsOf v).foldl (fun u g =>
        if u.heldByFn fn (u.group g).owner = true then u.strobe g (u.boundaryFrom (u.lc + 1) 8)
        else if (u.group g).owner = none then (u.updFn fn (fun w => { w with strobeRejects := sat 65535 (w.strobeRejects + 1) })).ignoreStrobe g
        else u.updFn fn (fun w => { w with strobeRejects := sat 65535 (w.strobeRejects + 1) })) s)) ∧
    (bit v 0 = true → (∀ x, s.sys.irqWas ≠ some (s.lc, x)) → exec (.sysCommitIrq v) s = .next { s with sys := { s.sys with irqForce := s.sys.irqShadow } }) ∧
    (∀ x, bit v 0 = true → s.sys.irqWas = some (s.lc, x) → exec (.sysCommitIrq v) s = .next { s with sys := { s.sys with irqForce := x } }) ∧
    (bit v 0 = false → exec (.sysCommitIrq v) s = .next s)

/-- R90, R91, R316, R351, R352, R472, R473, Tables 10.8, 10.19, 10.21, 11.1 and 12.5. -/
def Obligations.RequestsAndReadsThatClear : Prop :=
  ∀ (s : State) (p : Fin 7) (v : W32) (w : W64) (b : Fin 128) (fn : Fin 64) (bar2 : Bool) (a : BitVec 22),
    let answer := fun (n : Nat) (t : State) => ({ t with out := t.out ++ [.readAnswer (BitVec.ofNat 64 n)] } : State)
    exec .sqlLeadRead s = .next (answer ((Tbl.keysWhere (fun v _ => !(s.unlanded v).isEmpty) s.voices).foldl (fun m v => min m (s.voiceLead v)) s.sql.minLead) { s with sql := { s.sql with minLead := 0x1FFFF } }) ∧
    exec .sqlUrgMaxRead s = .next (answer s.sql.urgMax { s with sql := { s.sql with urgMax := 0 } }) ∧
    exec (.sqlPortLatRead p) s = .next (answer (Tbl.get 0 s.sql.portLat p) { s with sql := { s.sql with portLat := Tbl.set 0 s.sql.portLat p 0 } }) ∧
    (let ms := bits v 16 10
      let u : State := { s with mem := { s.mem with scope := bit v 1, windowMs := ms } }
      let barred := s.anyRunning = true ∨ s.fwArmed = true ∨ (s.proc 2).st = 2 ∨
        (∃ t ∈ s.sched, t.run.op = .prgStart ∨ t.run.op = .scnStartAt) ∨ ms = 0 ∨ 1000 < ms
      (bit v 0 = false ∨ s.mem.maint = 1 → exec (.memMaintRequest v) s = .next u) ∧
      (bit v 0 = true → s.mem.maint ≠ 1 → barred → exec (.memMaintRequest v) s = .next { u with mem := { u.mem with maint := 3 } }) ∧
      (bit v 0 = true → s.mem.maint ≠ 1 → ¬ barred → exec (.memMaintRequest v) s = .next
        ({ u with mem := { u.mem with
          maint := 1, maintAt := s.lc + 1600000 * ms,
          selected := (List.range 64).filter (fun k => decide ((s.pc k).phase = .service) && (bit v 1 || (s.pc k).retrainAdvised)) } } : State).startRetrains)) ∧
    (let n := bits v 0 12
      let o := (s.bank b).owner
      (n = o → (o = 0x7FF ∨ o = 0x400) → exec (.bnkOwnerNextWrite b v) s = .next s) ∧
      (n = o → o ≠ 0x7FF → o ≠ 0x400 → exec (.bnkOwnerNextWrite b v) s = .next (s.withdrawHandover b)) ∧
      (n ≠ o → s.nextMay b n = true → s.bankBusy b = false →
        exec (.bnkOwnerNextWrite b v) s = .next (s.updBank b (fun k => { k with handover := some (n, s.lc) }))) ∧
      (n ≠ o → ¬ (s.nextMay b n = true ∧ s.bankBusy b = false) →
        exec (.bnkOwnerNextWrite b v) s = .next { s with bnk := { s.bnk with rejects := sat 255 (s.bnk.rejects + 1) } })) ∧
    (s.power.pwrgd = false → ∀ r, exec (.configurationRequest fn r) s = .next s) ∧
    (s.power.pwrgd = true →
      exec (.configurationRequest fn .spaceLoaded) s = .next { s with sys := { s.sys with cfgLoaded := true } } ∧
      (∀ item, exec (.configurationRequest fn (.read item)) s = .next { s with out := s.out ++ [.config (if s.sys.cfgLoaded then some (s.cfgItem fn item) else none)] }) ∧
      s.cfgItem fn .vendorId = Config.vendorId.toNat ∧ s.cfgItem fn .deviceId = (if fn = 0 then 0x3251 else 0x3252) ∧ s.cfgItem fn .classCode = 0x118000 ∧
      s.cfgItem 0 .totalVfs = (if s.sys.recovery then 0 else 63) ∧ s.cfgItem 0 .numVfs = s.sys.numVfs ∧ s.cfgItem fn .msixVectors = 32 ∧
      s.cfgItem fn .noSoftReset = 0 ∧ s.cfgItem fn .unsupported = 0 ∧
      (s.sys.cfgLoaded = false → ∀ en n ari on mask x, ∀ r ∈ [CfgReq.writeSriov en n ari, .writeMsix on mask, .writeTimeout x],
        exec (.configurationRequest fn r) s = .next { s with out := s.out ++ [.config none] }) ∧
      (s.sys.cfgLoaded = true → let done := fun (u : State) => ({ u with out := u.out ++ [.config (some 0)] } : State)
        (∀ en n ari, exec (.configurationRequest fn (.writeSriov en n ari)) s = .next (done (if fn = 0 then s.writeSriov en n.toNat ari else s))) ∧
        (∀ on mask, exec (.configurationRequest fn (.writeMsix on mask)) s = .next (done (if s.fnLive fn = true then s.updFn fn (fun w => w.ctrlMsix on mask) else s))) ∧
        ∀ x, exec (.configurationRequest fn (.writeTimeout x)) s = .next (done (if fn = 0 then { s with sys := { s.sys with cplTimeout := x } } else s)))) ∧
    (let put := fun (t : State) (o : Nat) (x : W32) => if bar2 then t.writeMsix fn o x else t.writeBar fn o x;
      (s.power.pwrgd = false → ∀ wide, exec (.registerWrite fn bar2 a wide w) s = .next s) ∧
      (s.power.pwrgd = true →
        (a.toNat % 4 ≠ 0 → ∀ wide, exec (.registerWrite fn bar2 a wide w) s = .next s) ∧
        (a.toNat % 4 = 0 → exec (.registerWrite fn bar2 a false w) s = .next (put s a.toNat (lo32 w))) ∧
        (a.toNat % 8 = 4 → exec (.registerWrite fn bar2 a true w) s = .next s) ∧
        (a.toNat % 8 = 0 → exec (.registerWrite fn bar2 a true w) s = .next (put (put s a.toNat (lo32 w)) (a.toNat + 4) (hi32 w)))))

/-- R473, R474, Tables 4.2, 4.3, 17.8 to 17.10, 19.1 and 19.2. -/
def Obligations.RegisterWritesReachTheirFields : Prop :=
  ∀ (s : State) (w : W64) (a : BitVec 22) (fn : Fin 64), s.power.pwrgd = true →
    let v := lo32 w
    let puts := fun (o : Nat) (t : State) => a.toNat = o → exec (.registerWrite 0 false a false w) s = .next t
    (s.sys.recovery = false →
      puts 0x4 { s with sys := { s.sys with linkHold := bit v 0 } } ∧
      puts 0x10 { s with sys := { s.sys with irqFault := s.sys.irqFault && !bit v 0 } } ∧
      puts 0x14 { s with sys := { s.sys with irqShadow := v.setWidth 5, irqWas := some (s.lc, s.sys.ripe s.lc) } } ∧
      puts 0x10004 { s with clk := { s.clk with events := w1c s.clk.events v 0 } } ∧
      puts 0x28000 { s with ctxSel := bits v 0 10 } ∧
      (∀ k, k < 32 → puts (0x48000 + 16 * k) (s.updSummer k (fun m =>
        let m := if bit v 8 then { m with satSum := false, sumLc := 0 } else m
        let m := if bit v 9 then { m with satOut := false, outLc := 0 } else m
        if m.satSum = true ∨ m.satOut = true then m else { m with first := 0 }))) ∧
      (∀ c, c < 32 → puts (0x5000C + 64 * c) (s.updFch c (fun f => { f with events := w1c f.events v 0 }))) ∧
      (∀ n, n < 16 → puts (0x60028 + 64 * n) (s.updPch n (fun p => { p with events := w1c p.events v 0 }))) ∧
      (∀ n, n < 1024 → puts (0xA1000 + 8 * n) (s.updCon n (fun c => { c with overrun := c.overrun && !bit v 1 }))) ∧
      (∀ c, c < 1024 → puts (0xA3000 + 4 * c) (s.each [0, 1, 2, 3] (fun j u =>
        if bit v (8 * j + 7) then u.updJump c j (fun x => { x with overrun := false }) else u))) ∧
      (∀ n, n < 16 → puts (0xA4000 + 8 * n) (s.updEo n (fun e => { e with overrun := e.overrun && !bit v 1 }))) ∧
      puts 0xD0008 { s with cal := { s.cal with wall := w64 v (hi32 s.wallNow), wallAt := s.lc } } ∧
      puts 0xD000C { s with cal := { s.cal with wall := w64 (lo32 s.wallNow) v, wallAt := s.lc } } ∧
      puts 0x110004 { s with tmp := { s.tmp with events := w1c s.tmp.events v 0 } } ∧
      (a.toNat % 4 = 0 → 0x120000 ≤ a.toNat → ¬ (0x200000 ≤ a.toNat ∧ a.toNat < 0x210000) →
        exec (.registerWrite 0 false a false w) s = .next s)) ∧
    (s.sys.recovery = true →
      (∀ k o, 2 ≤ k → k < 15 → o < 65536 → o % 4 = 0 → puts (65536 * k + o) s) ∧
      puts 0x300008 { s with fw := { s.fw with rcvOffset := v.toNat } } ∧
      puts 0x30000C { s with fw := { s.fw with rcvLen := bits v 0 20 } } ∧
      (a.toNat % 4 = 0 → 0x310000 ≤ a.toNat → exec (.registerWrite 0 false a false w) s = .next
        { s with fw := { s.fw with rcvBuf := Tbl.setMany 0 s.fw.rcvBuf (a.toNat - 0x310000) (bytesOf v) } })) ∧
    (fn ≠ 0 → s.fnLive fn = false → ∀ bar2 wide, exec (.registerWrite fn bar2 a wide w) s = .next s) ∧
    (s.fnLive fn = true → a.toNat < 512 → a.toNat % 4 = 0 →
      let k := a.toNat / 16
      let open_ := s.fnWin fn
      (a.toNat % 16 ≠ 12 → exec (.registerWrite fn true a false w) s = .next (s.updFn fn (fun x => { x with msix := Tbl.set 0 x.msix (a.toNat / 4) v }))) ∧
      (a.toNat % 16 = 12 → bit v 0 = true → exec (.registerWrite fn true a false w) s = .next
        (s.updFn fn (fun x => { x with vecOpen := open_.vecOpen.filter (fun y => decide (y ≠ k)) }))) ∧
      (a.toNat % 16 = 12 → bit v 0 = false → exec (.registerWrite fn true a false w) s = .next (s.updFn fn (fun x => { x with
        vecOpen := insertNat k open_.vecOpen, pba := if open_.msixMask then open_.pba else open_.pba.filter (fun y => decide (y ≠ k))
        vecPending := if open_.pba.contains k && !open_.msixMask then insertNat k open_.vecPending else open_.vecPending }))))

/-- R49, R468, Tables 2.11 and 17.11. Log entry 15 gives which bit places PMBus gives, log entry 69 the error checking byte and when a latched supply bit goes. -/
def Obligations.UartAndSmbusAnswers : Prop :=
  ∀ (s : State) (echo off : W32) (image final type code : BitVec 8) (data : List Byte) (first count : BitVec 16) (badCrc : Bool) (xfer : SmbXfer) (rd : SmbReadings) (pec : Byte),
    let up := s.power.p3v3 = .ok
    let head := fun (rd : Nat) => (BitVec.ofNat 8 (2 * (0x58 + s.power.smbAddr.toNat) + rd) : Byte)
    let gives := fun (c : Instr) (code : Byte) (d : List Byte) =>
      exec c s = .next (if up then { s with out := s.out ++ [.smb (d ++ [pecByte ([head 0, code, head 1] ++ d)])] } else s)
    let refuses := fun (c : Instr) => exec c s = .next (if up then { s with smb := { s.smb with cmlInvalid := true }, out := s.out ++ [.smbNack] } else s)
    let answer := fun (ty : BitVec 8) (d : List Byte) => ({ s with out := s.out ++ [.uart ty d] } : State)
    exec .uartFrameDiscard s = .next s ∧
    (s.power.pwrgd = false →
      exec (.uartPing echo) s = .next s ∧ exec (.uartWrite image final off data) s = .next s ∧ exec .uartStatus s = .next s ∧
      exec .uartReboot s = .next s ∧ exec (.uartLog first count) s = .next s ∧ exec (.uartBadFrame badCrc type) s = .next s ∧
      refuses .readTemperature2 ∧ refuses .readTemperature3) ∧
    (s.power.pwrgd = true →
      exec (.uartPing echo) s = .next (answer 0x81 (0x00 :: bytesOf echo)) ∧
      exec .uartStatus s = .next (answer 0x83 (0x00 :: viewBytes (viewFw s) 0 8)) ∧
      (1 ≤ count.toNat → count.toNat ≤ 32 → first.toNat < 4096 →
        exec (.uartLog first count) s = .next (answer 0x85 (0x00 :: s.logBytes 0 first.toNat count.toNat))) ∧
      (¬ (1 ≤ count.toNat ∧ count.toNat ≤ 32 ∧ first.toNat < 4096) → exec (.uartLog first count) s = .next (answer 0x85 [0x21])) ∧
      (s.sys.recovery = false → exec (.uartWrite image final off data) s = .next (answer 0x82 [0x22]) ∧ exec .uartReboot s = .next (answer 0x84 [0x22])) ∧
      (s.sys.recovery = true →
        let fits := uartWriteOk image final off data
        (fits = false → exec (.uartWrite image final off data) s = .next (answer 0x82 [0x21])) ∧
        (fits = true → s.staging image.toNat = true → exec (.uartWrite image final off data) s = .next (answer 0x82 [0x12])) ∧
        (fits = true → s.staging image.toNat = false → exec (.uartWrite image final off data) s = .next
          ((s.writeSlot image.toNat off.toNat data (decide (final = 1))).uartReply 0x02 .ok [])) ∧
        exec .uartReboot s = .next (answer 0x84 [0x00]).rebootRecovery) ∧
      exec (.uartBadFrame true type) s = .next (answer 0xFF [0x21]) ∧
      (1 ≤ type.toNat ∧ type.toNat ≤ 5 → exec (.uartBadFrame false type) s = .next s) ∧
      (¬ (1 ≤ type.toNat ∧ type.toNat ≤ 5) → exec (.uartBadFrame false type) s = .next (answer (type + 0x80) [0x20])) ∧
      gives .readTemperature2 0x8E (smbWord s.smb.readings.temp2) ∧ gives .readTemperature3 0x8F (smbWord s.smb.readings.temp3)) ∧
    (let hot := s.smb.otFault = true
      let temp := 128 * b2n s.smb.otFault + 64 * b2n (decide (1 ≤ s.tmp.level))
      let input := 128 * b2n s.smb.vinOv + 16 * b2n s.smb.vinUv + 8 * b2n s.smb.unitOff
      let low := 64 * b2n (!s.power.pwrgd) + 8 * b2n s.smb.vinUv + 4 * b2n (decide (temp ≠ 0)) + 2 * b2n (s.smb.cmlInvalid || s.smb.cmlPec) + b2n s.smb.vinOv
      let high := 32 * b2n (decide (input ≠ 0)) + 8 * b2n (!s.power.pwrgd)
      let clears := fun (c : Instr) => exec c s = .next (if up then { s with smb := { s.smb with
        vinOv := s.smb.vinOv && decide (s.power.p12v = .high), vinUv := s.smb.vinUv && decide (s.power.p12v = .under)
        unitOff := s.smb.unitOff && decide (s.power.p12v = .under)
        otFault := decide (hot ∧ s.tmp.level = 3), cmlInvalid := false, cmlPec := false } } else s)
      clears .clearFaults ∧ clears (.smbOtherCommand (.write []) 0x03) ∧
      (pec = pecByte [head 0, 0x03] → clears (.smbOtherCommand (.write [pec]) 0x03)) ∧
      (pec ≠ pecByte [head 0, 0x03] → exec (.smbOtherCommand (.write [pec]) 0x03) s =
        .next (if up then { s with smb := { s.smb with cmlPec := true }, out := s.out ++ [.smbNack] } else s)) ∧
      gives .capability 0x19 [0xB0] ∧ gives .statusByte 0x78 [BitVec.ofNat 8 low] ∧ gives .statusWord 0x79 [BitVec.ofNat 8 low, BitVec.ofNat 8 high] ∧
      gives .statusInput 0x7C [BitVec.ofNat 8 input] ∧ gives .statusTemperature 0x7D [BitVec.ofNat 8 temp] ∧
      gives .statusCml 0x7E [BitVec.ofNat 8 (128 * b2n s.smb.cmlInvalid + 32 * b2n s.smb.cmlPec)]) ∧
    gives .readVin 0x88 (smbWord s.smb.readings.vin) ∧ gives .readIin 0x89 (smbWord s.smb.readings.iin) ∧
    gives .readPin 0x97 (smbWord s.smb.readings.pin) ∧ gives .readTemperature1 0x8D (smbWord s.smb.readings.temp1) ∧
    gives .pmbusRevision 0x98 [0x33] ∧ gives .mfrId 0x99 [0x07, 0x41, 0x42, 0x41, 0x50, 0x41, 0x4E, 0x59] ∧
    gives .mfrModel 0x9A [0x07, 0x5A, 0x44, 0x2D, 0x33, 0x32, 0x35, 0x31] ∧
    gives .mfrRevision 0x9B (smbBlock Config.revText) ∧ gives .mfrSerial 0x9E (smbBlock Config.serialText) ∧
    (code ≠ 0x03 ∨ (xfer ≠ .write [] ∧ ∀ p, xfer ≠ .write [p]) → refuses (.smbOtherCommand xfer code)) ∧
    exec (.smbReadingRefresh rd) s = .next { s with smb := { s.smb with readings := rd } }

/-- R43 to R48, R82, R439, R445, Table 2.11. -/
def Obligations.PowerUpFaultsAndPowerDown : Prop :=
  ∀ (s : State) (c : SupplyCause),
    let keeps := fun (t : State) => ({ State.reset with
      pending := t.pending, fresh := t.fresh, lc := t.lc, tb := t.tb, power := t.power, smb := t.smb, out := t.out
      log := { mramRecs := t.log.mramRecs, mramEngines := t.log.mramEngines, mramRows := t.log.mramRows }, fw := t.fw.kept } : State)
    let loss := fun (t : State) (cause : Nat) => ({ t.mkRec 0xA08 0 .p none 0 t.tb [word cause] with previous := true } : FaultRec)
    let down := fun (t : State) (cause : Nat) =>
      let x := t.each (List.range 32) (fun c t => t.hwStopFch c)
      let y := x.each (List.range 16) (fun n t => if (t.pch n).st = .failed then t else t.clearPch n .disabled)
      let z : State := { y with log := { y.log with mramRecs := [loss t cause] } }
      ({ keeps z with fchs := z.fchs, pchs := z.pchs, markers := z.markers, divAt := z.divAt, power := { z.power with phase := .shutdown, pwrgd := false, downAt := z.lc, cause := cause } } : State)
    let rises := s.power.phase = .starting ∨ s.power.phase = .pwrgdLow
    let x : State := { keeps s with
      lc := 0, tb := 0, power := { s.power with phase := .running, pwrgd := true, switchesClosed := true, cause := 0 } }
    let y := s.log.mramRecs.foldl (fun t r => t.enterRec r) { x.holdClear with log := { x.log with mramRecs := [] } }
    let bad := s.noteSupply c
    (s.power.phase = .off → exec .powerUp s = .next { s with power := { s.power with phase := .starting, p12v := .ok, p3v3 := .ok, cause := 0 } }) ∧
    (s.power.phase ≠ .off → exec .powerUp s = .next s) ∧
    (rises → exec (.pwrgdRise false) s = .next y ∧
      exec (.pwrgdRise true) s = .next (down { y with smb := { y.smb with otFault := true } } 5)) ∧
    (s.power.clrnLow = false → x.holdClear = x) ∧
    (s.power.clrnLow = true → (∀ k, k < 32 → (y.fch k).st = .cleared) ∧ ∀ n, n < 16 → (y.pch n).st = .cleared) ∧
    (¬ rises → ∀ hot, exec (.pwrgdRise hot) s = .next s) ∧
    (s.power.phase = .running → exec .pwrgdHeldLow s = .next
      { keeps { s with log := { s.log with mramRecs := [loss s 7] } } with power := { s.power with phase := .pwrgdLow, pwrgd := false, switchesClosed := false, cause := 7 } }) ∧
    (s.power.phase ≠ .running → exec .pwrgdHeldLow s = .next s) ∧
    (s.power.phase = .running → exec (.supplyFault c) s = .next (down bad (SupplyCause.code c))) ∧
    (rises → exec (.supplyFault c) s = .next { bad with power := { bad.power with phase := .shutdown, pwrgd := false, downAt := bad.lc, cause := (SupplyCause.code c) } }) ∧
    (s.power.phase = .shutdown → s.power.cause = 5 → s.power.downAt = s.lc → exec (.supplyFault c) s = .next
      { bad with
        power := { bad.power with cause := (SupplyCause.code c) }
        log := { bad.log with mramRecs := bad.log.mramRecs.map (fun r =>
          if r.code = 0xA08#12 then { r with detail := [word (SupplyCause.code c), 0, 0, 0, 0, 0, 0, 0] } else r) } }) ∧
    (s.power.phase = .shutdown → ¬ (s.power.cause = 5 ∧ s.power.downAt = s.lc) → exec (.supplyFault c) s = .next bad) ∧
    (s.power.phase = .off → exec (.supplyFault c) s = .next bad) ∧
    (s.power.phase = .shutdown →
      let u := s.advanceTo (s.power.downAt + 3200000)
      exec .outputSwitchOpen s = .next { keeps u with power := { u.power with phase := .off, switchesClosed := false } }) ∧
    (s.power.phase ≠ .shutdown → exec .outputSwitchOpen s = .next s) ∧
    (bad = match c with
      | .p12vUnder => { s with power := { s.power with p12v := .under }, smb := { s.smb with vinUv := true, unitOff := true } }
      | .p12vOver => { s with power := { s.power with p12v := .high }, smb := { s.smb with vinOv := true } }
      | .p3v3Under => { s with power := { s.power with p3v3 := .under } }
      | .p3v3Over => { s with power := { s.power with p3v3 := .high } })

/-- R44, R91, R97 to R99, Tables 17.7 and 19.16. Log entry 14 names what the spec leaves open of these. -/
def Obligations.LinkEventsAndFunctionResets : Prop :=
  ∀ (s : State) (width : BitVec 4) (speed : BitVec 3) (e : LinkEvent) (fn : Fin 64),
    let p : State := { s with
      power := { s.power with perst := s.power.perst || decide (e = .perst) }
      sys := { s.sys with width := 0, speed := 0, linkEvents := sat 65535 (s.sys.linkEvents + 1) } }
    let counted := fun (t : State) => ({ t with sys := { t.sys with flrs := sat 65535 (t.sys.flrs + 1) } } : State)
    let mayReset := s.power.pwrgd = true ∧ fn.val ≠ 0 ∧ s.fnLive fn = true
    (s.power.pwrgd = true → exec (.linkTraining width speed) s = .next
      { s with power := { s.power with perst := false }, sys := { s.sys with width := width, speed := speed } }) ∧
    (s.power.pwrgd = false → exec (.linkTraining width speed) s = .next s) ∧
    (s.power.pwrgd = false →
      exec (.linkEvent .perst) s = .next { s with power := { s.power with perst := true } } ∧
      (e ≠ .perst → exec (.linkEvent e) s = .next s)) ∧
    (s.power.pwrgd = true → s.sys.linkHold = true →
      let q := p.each (List.range 64) (fun f t => t.updFn f (fun w => { w with
        rings := Tbl.mapVals {} (fun _ k => { k with enable := false }) w.rings
        cqs := Tbl.mapVals {} (fun _ k => { k with enable := false }) w.cqs
        vecPending := [], msixOn := false, msixMask := false }))
      exec (.linkEvent e) s = .next (({ q with sys := { q.sys with vfEnable := false, numVfs := 0, cplTimeout := 0 } } : State).fault 0x904 0 .p none 0 [])) ∧
    (s.power.pwrgd = true → s.sys.linkHold = false → exec (.linkEvent e) s = .next p.flr0) ∧
    (mayReset → exec (.flrVf fn) s = .next (counted (s.flrFn fn)) ∧ exec (.d3hotToD0 fn) s = .next (s.flrFn fn)) ∧
    (¬ mayReset → exec (.flrVf fn) s = .next s ∧ exec (.d3hotToD0 fn) s = .next s) ∧
    (s.power.pwrgd = true → exec .flrPf0 s = .next (counted s.flr0)) ∧
    (s.power.pwrgd = false → exec .flrPf0 s = .next s) ∧
    (let v := s.each s.vfs (fun f t => t.flrFn f)
      let a := ({ v with sys := { v.sys with vfEnable := false } } : State).flrFn 0
      let b := if a.fw.sched = 1 ∨ a.fw.sched = 2 then a.unschedule else a
      let c : State := { b with clk := { b.clk with arm := none } }
      let d := if (c.cal.batch.map (fun x => x.kind)) = some 3 then c.closeBatch else c
      let g := d.each (List.range 64) (fun f t => t.updFn f (fun _ => {}))
      s.flr0 = { g with sys := { g.sys with numVfs := 0, cplTimeout := 0, irqFault := false, irqShadow := 0, irqForce := 0, irqWas := none, heldWrites := [] } })

/-- R450 to R455, R466, Tables 17.3 to 17.5. -/
def Obligations.BootChoosesItsSet : Prop :=
  ∀ (s : State) (low : Bool) (set : FwSet) (mgmt : ImgCheck) (cs : List ImgCheck) (un : Option (Fin 8 × Fin 8)) (dig : Bool) (ty : Fin 8),
    let u : State := { s with power := { s.power with rcvrnLow := low } }
    let samples := s.power.pwrgd = true ∧ s.fw.boot = 0 ∧ s.fw.warm = false ∧ s.fw.firstFail = none
    let starts := s.power.pwrgd = true ∧ s.fw.boot = 0 ∧ FwSet.num set = s.fw.trying
    let loads := s.power.pwrgd = true ∧ s.fw.boot = 1 ∧ s.sys.recovery = false
    let late := s.power.pwrgd = true ∧ s.sys.recovery = false ∧ s.fw.trying < 2 ∧ s.fw.boot < 2 ∧ (s.fw.boot = 0 ↔ ty.val = 0)
    let code := s.checkOf 0 mgmt.code
    let codes := s.checksOf cs
    let checked := markChecks codes 1 s
    (samples →
      let v := if s.fw.reboot then u else u.advanceTo 8000000
      exec (.rcvrnSample low) s = .next (if low then v.enterRecovery 1 else v)) ∧
    (¬ samples → exec (.rcvrnSample low) s = .next u) ∧
    (starts → code = 0 → exec (.bootMgmtStart set mgmt) s = .next (s.setCheck 0 0).startMgmt) ∧
    (starts → code ≠ 0 → exec (.bootMgmtStart set mgmt) s = .next
      (if s.fw.trying = 2 then (s.setCheck 0 code).enterRecovery 3 else (s.setCheck 0 code).failSet code.toNat false)) ∧
    (¬ starts → exec (.bootMgmtStart set mgmt) s = .next s) ∧
    (loads → s.fw.trying = 2 → exec (.bootImagesLoaded cs un dig) s = .next (if dig then s.enterRecovery 3 else s.goodSet)) ∧
    (loads → s.fw.trying ≠ 2 →
      (∀ code t, firstBad codes 1 = some (code, t) → exec (.bootImagesLoaded cs un dig) s = .next (checked.failSet (code + 256 * t) false)) ∧
      (∀ i j, firstBad codes 1 = none → checked.untestedPair un = some (i, j) → exec (.bootImagesLoaded cs un dig) s = .next
        ((checked.setCheck i 0x08).failSet (0x08 + 256 * i + 4096 * j) true)) ∧
      (firstBad codes 1 = none → checked.untestedPair un = none → exec (.bootImagesLoaded cs un dig) s = .next checked.goodSet)) ∧
    (¬ loads → exec (.bootImagesLoaded cs un dig) s = .next s) ∧
    (∀ k x, s.fw.trying < 2 → s.presetImg k = false → s.checkOf k x =
      (if s.headCheck k ≠ 0 then s.headCheck k else if x = 6 ∨ x = 7 then x else 0)) ∧
    (∀ k x, (2 ≤ s.fw.trying ∨ s.presetImg k = true) → s.checkOf k x = x) ∧
    (late → exec (.imageStartTimeout ty) s = .next ((s.setCheck ty 0x09).failSet (0x09 + 256 * ty.val) false)) ∧
    (¬ late → exec (.imageStartTimeout ty) s = .next s) ∧
    (∀ res b,
      let f := BitVec.ofNat 24 (res + 65536 * s.fw.trying)
      let w := (s.setProcs (List.range 8) 1).updFw (fun x => { x with boot := 0 })
      (s.fw.firstFail = none → s.failSet res b = w.updFw (fun x => { x with firstFail := some (f, b), trying := 1 - s.fw.firstSet })) ∧
      (∀ r b', s.fw.firstFail = some (r, b') →
        s.failSet res b = if b' = true ∨ b = true then w.updFw (fun x => { x with trying := 2, pairFail := if b' then r else f }) else w.enterRecovery 2))

/-- R460 to R464, R467, R470, Tables 16.2, 17.8 to 17.10 and 17.13. -/
def Obligations.WarmRestartAndRecoveryWrites : Prop :=
  ∀ (s : State) (us : Nat) (v : W32) (buf : List Byte),
    (s.activation = none → exec .fwQuietCheck s = .next s ∧ exec .warmRestart s = .next s) ∧
    (∀ t, s.activation = some t →
      let u := s.advanceTo (s.lcAt t.act - 1600000)
      let w := s.advanceTo (s.lcAt t.act)
      let x : State := { w with
        sched := w.sched.filter (fun y => decide (y.run.op ≠ .fwSchedule))
        jobs := w.jobs ++ [{ run := { t.run with born := w.lc }, kind := .fwSchedule }] }
      let y := (x.setProcs (List.range 8) 1).updSys (fun y => { y with ready := false, restarting := true })
      let z := y.updFw (fun f => { f with
        sched := 3, restarts := sat 65535 (f.restarts + 1), warm := true, warmAt := y.lc, boot := 0
        firstSet := y.fw.inactive, trying := y.fw.inactive, firstFail := none })
      (s.fw.sched = 1 → s.mgmtUp = true →
        (∀ n, firstFail u.quiet 1 = some n → exec .fwQuietCheck s = .next (u.unschedule.complete t.run .busy (0x10 + n))) ∧
        (firstFail u.quiet 1 = none → exec .fwQuietCheck s = .next { u with fw := { u.fw with sched := 2 } })) ∧
      (¬ (s.fw.sched = 1 ∧ s.mgmtUp = true) → exec .fwQuietCheck s = .next s) ∧
      (s.fw.sched = 2 → exec .warmRestart s = .next
        ((((z.dropJobs (fun j => decide (j.kind = .sync))).updClk (fun k => { k with arm := none })).abandonPackets).abandonBatch 3)) ∧
      (s.fw.sched ≠ 2 → exec .warmRestart s = .next s)) ∧
    (let ends := s.fw.warm = true ∧ s.sys.restarting = true ∧ s.fw.boot = 2
      let u := s.advanceTo (s.fw.warmAt + 1600 * us)
      let w := ((u.setProcs (List.range 8) 0).updSys (fun y => { y with ready := true, restarting := false })).enterHeld
      let done := fun (x : State) => (x.updFw (fun f => { f with sched := 0, actTime := 0, warm := false, firstFail := none })).applyHeld.release
      let js := w.jobs.filter (fun j => decide (j.kind = .fwSchedule))
      (ends → w.fw.firstFail = none → exec (.warmRestartEnd us) s = .next (done
        ((js.foldl (fun x j => x.completeAt j.run .ok us j.run.p.act) (w.dropJobs (fun j => decide (j.kind = .fwSchedule)))).logActivated us))) ∧
      (ends → w.fw.firstFail ≠ none → exec (.warmRestartEnd us) s = .next (done w.rejectSchedule)) ∧
      (¬ ends → exec (.warmRestartEnd us) s = .next s)) ∧
    (s.sys.recovery = false → exec (.fwRcvCmdWrite v buf) s = .next s ∧ exec (.fwRcvCmdReboot v) s = .next s) ∧
    (s.sys.recovery = true →
      let cmd := fun (b : List Byte) (t : State) =>
        let ty := bits v 0 4
        let off := s.fw.rcvOffset
        let len := s.fw.rcvLen
        let u : State := { s with fw := { s.fw with rcvImage := ty, rcvFinal := bit v 9, rcvBuf := Tbl.setMany 0 s.fw.rcvBuf 0 (b.take 983040) } }
        let ends := fun (x : State) => t = if bit v 10 then x.rebootRecovery else x
        let fits := slotRange ty off len = true ∧ len ≤ 983040
        (bit v 8 = false → ends u) ∧
        (bit v 8 = true → ¬ fits → ends { u with fw := { u.fw with rcvStatus := 0x21 } }) ∧
        (bit v 8 = true → fits → s.staging ty = true → ends { u with fw := { u.fw with rcvStatus := 0x12 } }) ∧
        (bit v 8 = true → fits → s.staging ty = false → ends ((u.writeSlot ty off (Tbl.getMany 0 u.fw.rcvBuf 0 len) (bit v 9)).updFw
          (fun f => { f with rcvStatus := 0, rcvWrites := sat 65535 (f.rcvWrites + 1) })))
      (∃ t, exec (.fwRcvCmdWrite v buf) s = .next t ∧ cmd buf t) ∧ (∃ t, exec (.fwRcvCmdReboot v) s = .next t ∧ cmd [] t))

/-- R124, R127, R130, R133, R140, R157, R172. -/
def Obligations.StepsIssueOrStopTheirThread : Prop :=
  ∀ (s : State) (c : Fin 1024) (i : Instr) (op : Nat),
    (i, op) ∈ [(Instr.play c, 0x01), (.hop c, 0x02), (.mark c, 0x03), (.wait c, 0x04), (.waitEvt c, 0x05), (.trig c, 0x06), (.branch c, 0x07),
      (.branchEvt c, 0x08), (.loop c, 0x09), (.ctr c, 0x0A), (.call c, 0x0B), (.ret c, 0x0C), (.jmpen c, 0x0D), (.endStep c, 0x0E)] →
    let x := s.ctx c
    let w := x.step x.pc
    let ready := x.st = .running ∧ x.waiting = .none ∧ x.fetching = false ∧ s.engineRuns c = true ∧ x.spin < 65536
    let here := x.pc ∈ x.cache
    let valid := stepMasks w ≠ []
    (¬ ready → exec i s = .next s) ∧
    (ready → ¬ here →
      let u := s.updCtx c (fun x => { x with fetching := true })
      let v := match x.engine with | some e => u.updEng (s.execUnit e) (fun y => { y with misses := y.misses + 1 }) | none => u
      (s.stepComing c x.pc = true → exec i s = .next u) ∧
      (s.stepComing c x.pc = false → exec i s = .next { v with sql := { v.sql with urgent := v.sql.urgent ++
        [{ port := 1, ctx := c, gen := (v.ctx c).gen, seg := stepSeg, dpa := (v.ctx c).stepDpa x.pc, deadline := v.lc, first := x.pc }] } })) ∧
    (ready → here → ¬ valid → exec i s = .next (s.faultStop c 0x109 0)) ∧
    (ready → here → valid → sop w ≠ op → exec i s = .next s) ∧
    (ready → here → valid → sop w = op → wrongTv x w = true → exec i s = .next (s.faultStop c 0x109 0)) ∧
    (ready → here → valid → sop w = op → wrongTv x w = false → s.notHeld c w = true → exec i s = .next (s.faultStop c 0x102 0)) ∧
    (ready → here → valid → sop w = op → wrongTv x w = false → s.notHeld c w = false → s.queueFull c w = true → exec i s = .next s)

/-- R157 to R161, R164, R166 to R173 and R177. -/
def Obligations.StepsTakeEffect : Prop :=
  ∀ (s : State) (c : Fin 1024),
    let x := s.ctx c
    let w := x.step x.pc
    let issues := fun (op : Nat) => s.ready c = true ∧ x.pc ∈ x.cache ∧ stepMasks w ≠ [] ∧ sop w = op ∧ wrongTv x w = false ∧
      s.notHeld c w = false ∧ s.queueFull c w = false
    let u := fun (op : Nat) => s.updCtx c (fun x => { x.cacheIn [x.pc, x.pc + 1] with
      spin := if resetsSpin op then 0 else x.spin + 1, stalls := 0, onCubStall := none })
    let becomes := fun (i : Instr) (t : State) => exec i s = .next (if (t.ctx c).stopAfter then t.stopCtx c else t)
    let on := fun (t : State) => t.updCtx c (fun x => { x with pc := x.pc + 1 })
    let target := fun (t : State) => t.updCtx c (fun x => { x with pc := sf w 1 0 16 })
    let k := sf w 0 12 3
    let put := fun (op : Nat) (v : W32) => if x.ctrLc = s.lc ∧ k ∈ x.ctrHeld then u op else (u op).setCtr c k v
    (issues 0x01 →
      let a := playAction (u 1) c w x.pos none
      becomes (.play c) (on (((u 1).queueAction c w a).updCtx c (fun x => { x with pos := x.pos + a.dur })))) ∧
    (issues 0x02 →
      let v := playVoice x w
      let rate := ((u 2).voiceMode v).rate
      becomes (.hop c) (on (((u 2).pastNco v).updVoice v (fun y => { y with hops := addHop {
        at_ := rate * x.pos + (sw w 1).toNat, freq := BitVec.ofNat 48 ((sw w 2).toNat + 2 ^ 32 * sf w 3 0 16)
        phase := BitVec.ofNat 16 (sf w 4 0 16), coherent := sb w 0 17, onPlay := decide ((sw w 1).toNat = 0) } y.hops })))) ∧
    (issues 0x03 →
      let ch := sf w 0 8 5
      let ms := (if sb w 0 18 then [2 * ch] else []) ++ (if sb w 0 19 then [2 * ch + 1] else [])
      (sf w 0 16 2 = 0 → becomes (.mark c) (on ((u 3).placeEdges c ch 256 x.pos (sw w 1) (sw w 2) [x.pos]))) ∧
      (sf w 0 16 2 = 1 → becomes (.mark c) (on ((u 3).each ms (fun m t => t.updMarker m (fun k => { k with
        modeAt := insertMode (t.boundaryFrom x.pos (sf w 3 0 24), sf w 3 0 24) k.modeAt }))))) ∧
      (2 ≤ sf w 0 16 2 → becomes (.mark c) (on ((u 3).each ms (fun m t => t.updMarker m (fun k => { k with modeAt := insertMode (x.pos, 0) k.modeAt })))))) ∧
    (issues 0x04 → becomes (.wait c) (on ((u 4).updCtx c (fun x => { x with pos := x.pos + s48 w 1 })))) ∧
    (issues 0x05 → becomes (.waitEvt c) ((u 5).beginWait c w (.evt x.pos (s48 w 1) (sb w 0 27) (sf w 0 16 10)) [x.pc + 1])) ∧
    (issues 0x06 → becomes (.trig c) (((u 6).updCtx c (fun x => { x with triggered := true })).beginWait c w
      (.trig (sf w 0 16 10) (sf w 1 0 5) (BitVec.ofNat 8 (sf w 1 8 8))) [x.pc + 1])) ∧
    (issues 0x07 → becomes (.branch c) (if branchTaken (sf w 0 8 4) (ctrOf x k) (sw w 2) then target (u 7) else on (u 7))) ∧
    (issues 0x08 → becomes (.branchEvt c) ((u 8).beginWait c w (.branch x.pos (s48 w 2) (sf w 1 0 16) (sf w 0 16 10)) [x.pc + 1, sf w 1 0 16])) ∧
    (issues 0x09 → becomes (.loop c) (if ctrOf x k = 0 then on (u 9) else target (put 9 (ctrOf x k - 1)))) ∧
    (issues 0x0A → becomes (.ctr c) (on (put 10 (if sf w 0 8 2 = 0 then sw w 2 else ctrOf x k + sw w 2)))) ∧
    (issues 0x0B → becomes (.call c) (if 8 ≤ x.stack.length then (u 11).faultStop c 0x10C 0
      else (u 11).updCtx c (fun x => { x with stack := (x.pc + 1) :: x.stack, pc := sf w 1 0 16 }))) ∧
    (issues 0x0C →
      (x.stack = [] → becomes (.ret c) ((u 12).faultStop c 0x10C 0)) ∧
      (∀ n ns, x.stack = n :: ns → becomes (.ret c) ((u 12).updCtx c (fun x => { x with stack := ns, pc := n })))) ∧
    (issues 0x0D → becomes (.jmpen c) (on ((u 13).each [0, 1, 2, 3] (fun j t =>
      if sb w 0 (16 + j) then t.updJump c j (fun y => { y with changes := insertChange (x.pos, true, sb w 0 (24 + j)) y.changes })
      else if sb w 0 (20 + j) then t.updJump c j (fun y => { y with changes := insertChange (x.pos, false, false) y.changes })
      else t)))) ∧
    (issues 0x0E → becomes (.endStep c) ((u 14).updCtx c (fun x => { x with waiting := .ended x.pos })))

/-- R126, R144, R166, R171, R178, R182, R220 to R224, R362 to R367. -/
def Obligations.ThreadsStartEndJumpAndReceiveEvents : Prop :=
  ∀ (s : State) (c : Fin 1024) (ch : Fin 256) (slot : Fin 4) (frac : Nat),
    let x := s.ctx c
    (∀ p, x.waiting = .ended p → x.st = .running → x.preRun = false → s.voicesDone c = true →
      let u := (s.advanceTo p).stopCtx c
      exec (.endReached c) s = .next (if u.stopDone c then u.updCtx c (fun x => { x with st := .armed }) else u)) ∧
    ((∀ p, x.waiting ≠ .ended p) ∨ ¬ (x.st = .running ∧ x.preRun = false ∧ s.voicesDone c = true) → exec (.endReached c) s = .next s) ∧
    (s.engineRuns c = true →
      (∀ p T stop n, x.waiting = .evt p T stop n → T ≠ 0 →
        exec (.eventStepTimeout c) s = .next (if stop then (s.advanceTo (p + T)).faultStop c 0x10A 0
          else (s.advanceTo (p + T - 4)).resumeAt c (p + T) (x.pc + 1))) ∧
      (∀ p stop n, x.waiting = .evt p 0 stop n → exec (.eventStepTimeout c) s = .next s) ∧
      (∀ p W k n, x.waiting = .branch p W k n →
        exec (.eventStepTimeout c) s = .next ((s.advanceTo (p + W - 4)).resumeAt c (p + W) (x.pc + 1)))) ∧
    (s.engineRuns c = false ∨ ((∀ p T b n, x.waiting ≠ .evt p T b n) ∧ ∀ p W k n, x.waiting ≠ .branch p W k n) →
      exec (.eventStepTimeout c) s = .next s) ∧
    (s.regs.find? (fun r => decide (r.ch = ch.val)) = none → exec (.eventDelivery ch) s = .next s) ∧
    (∀ r, s.regs.find? (fun r => decide (r.ch = ch.val)) = some r →
      let a := r.u + 2
      let u := ({ s with regs := s.regs.erase r } : State).advanceTo a
      exec (.eventDelivery ch) s = .next
        (((u.ev ch).cells.foldl (fun t p => t.deliverCell p a) ((r.snap.getD (u.ev ch).cons).foldl (fun t k =>
          if k < 0x400 then t.deliverCon k a
          else if k < 0x410 then t.eoEvent (k - 0x400) a
          else if k < 0x504 then t.strobe (k - 0x500) (t.boundaryFrom (a + 4) 8)
          else t) u)).feedChannel ch (r.stamp.getD (65536 * a)))) ∧
    (let j := x.jump slot
      let w := x.step j.entry
      (j.hit = none → exec (.foxJump c slot frac) s = .next s) ∧
      (∀ b f, j.hit = some (b, f) → f ≠ frac → exec (.foxJump c slot frac) s = .next s) ∧
      (∀ b, j.hit = some (b, frac) →
        let u := (s.advanceTo b).updJump c slot (fun y => { y with hit := none, lastAt := some b })
        let held := u.holds c 1 (sf w 0 8 8) = true ∧ u.segLive (sw w 1) = true ∧ (sb w 5 0 = true ∨ sb w 6 0 = true → u.holds c 0 (sf w 0 8 8 / 8) = true)
        let ready := s.engineRuns c = true ∧ (s.onCub x = true → j.entry ∈ x.cache)
        (x.st ≠ .running ∨ j.st ≠ 2 → exec (.foxJump c slot frac) s = .next (s.updJump c slot (fun y => { y with hit := none }))) ∧
        (x.st = .running → j.st = 2 → ¬ ready → exec (.foxJump c slot frac) s = .next s) ∧
        (x.st = .running → j.st = 2 → ready → ¬ held → exec (.foxJump c slot frac) s = .next ((u.goTo c j.entry).faultStop c 0x102 0)) ∧
        (x.st = .running → j.st = 2 → ready → held → exec (.foxJump c slot frac) s = .next (u.foxJump c slot b frac)))) ∧
    (∀ l, s.nextStart c = some l → x.st = .armed → exec (.preRunStart c) s = .next ((s.advanceTo (l - 8192)).beginPreRun c l)) ∧
    (s.nextStart c = none ∨ x.st ≠ .armed → exec (.preRunStart c) s = .next s) ∧
    (x.st = .running → x.preRun = true → s.nextStart c ≠ some x.startS →
      let u := (s.advanceTo x.startS).updCtx c (fun x => { x with preRun := false })
      let v := (u.each (Tbl.keysWhere (fun _ p => decide (p.owner = some c.val)) u.pchs) (fun n t => t.updPch n (fun p => { p with ticksOff := false }))).fireSrc
        (srcIs 3 c) x.startS
      let mine := fun (k : JobKind) => match k with | .start d => decide (d = c.val) | .sceneStart n => (v.members n).contains c.val | _ => false
      exec (.startInstant c) s = .next ((v.jobs.filter (fun j => mine j.kind)).foldl (fun t j => t.completeAt j.run .ok 0 (t.tbAt x.startS))
        (v.dropJobs (fun j => mine j.kind)))) ∧
    (¬ (x.st = .running ∧ x.preRun = true ∧ s.nextStart c ≠ some x.startS) → exec (.startInstant c) s = .next s)

/-- R140 to R145. -/
def Obligations.EnginesStallSpinAndMigrate : Prop :=
  ∀ (s : State) (c : Fin 1024) (e : Fin 256),
    let x := s.ctx c
    (x.st = .running → 65536 ≤ x.spin → exec (.stepSpin c) s = .next (s.faultStop c 0x104 0)) ∧
    (¬ (x.st = .running ∧ 65536 ≤ x.spin) → exec (.stepSpin c) s = .next s) ∧
    (∀ g, x.engine = some g → x.st = .running → x.waiting = .none → s.engineRuns c = true →
      let u := s.updEng (s.execUnit g) (fun y => { y with stalls := sat 65535 (y.stalls + 1) })
      (x.onCubStall = some x.pc → exec (.stepStall c) s = .next (u.deviceReset c 0x103 (u.lastRec c 0x103))) ∧
      (x.onCubStall ≠ some x.pc → x.stalls < 2 → exec (.stepStall c) s = .next
        ((u.fault 0x103 (x.stalls + 1) .c (some c.val) g (detS x.pc 0 ((x.pos : Int) - x.startS))).updCtx c (fun x => { x with stalls := x.stalls + 1, fetching := false }))) ∧
      (x.onCubStall ≠ some x.pc → 2 ≤ x.stalls → exec (.stepStall c) s = .next
        ((u.updCtx c (fun x => { x with stalls := 0, onCubStall := some x.pc })).migrate g))) ∧
    (x.engine = none ∨ x.st ≠ .running ∨ x.waiting ≠ .none ∨ s.engineRuns c = false → exec (.stepStall c) s = .next s) ∧
    ((s.eng e).st ≠ 2 → (s.eng e).migrating = none → exec (.engineSelfCheckError e) s = .next (s.migrate e)) ∧
    (¬ ((s.eng e).st ≠ 2 ∧ (s.eng e).migrating = none) → exec (.engineSelfCheckError e) s = .next s) ∧
    (∀ g k, s.spareCub = some k → s.migrate g =
      (let u := (s.updEng g (fun x => { x with migrating := some (k, s.lc) })).updEng k (fun x => { x with migrating := some (g, s.lc) });
      (u.ctxsOn g).foldl (fun t c => t.updCtx c (fun x => { x with fetching := false })) u)) ∧
    (∀ g, s.spareCub = none →
      let u := if (s.eng g).st = 1 then s.updEng (256 + (s.eng g).partner) (fun x => { x with st := 2 }) else s
      let v := u.updEng g (fun x => { x with st := 2, migrating := none })
      let w := ({ v with log := { v.log with mramEngines := insertNat g v.log.mramEngines } } : State).tellEngine g 0 0x107 5 .cAndP
      s.migrate g = (w.ctxsOn g).foldl (fun t c => t.deviceReset c 0x107 (t.lastRec c 0x107)) w) ∧
    (∀ k b, (s.eng e).migrating = some (k, b) →
      let t := s.advanceTo (b + 40)
      let u := if (t.eng e).st = 1 then t.updEng (256 + (t.eng e).partner) (fun x => { x with st := 2 }) else t
      let v := (u.updEng e (fun x => { x with st := 1, partner := k - 256, migrating := none })).updEng k (fun x => { x with st := 1, partner := e, migrating := none })
      let w : State := { v with log := { v.log with mramEngines := insertNat e v.log.mramEngines } }
      exec (.migrationComplete e) s = .next (((w.ctxsOn e).foldl (fun t c =>
        let ks := ((t.ctx c).pinned ++ (t.ctx c).cache).foldl (fun l k => if l.any (fun j => decide (j / 8 = k / 8)) then l else l ++ [k]) []
        (ks.foldl (fun t k => t.requestStep c k) (t.updCtx c (fun x => { x with cache := [] }))).decideWait c) w).tellEngine e k 0x105 3 .c)) ∧
    ((s.eng e).migrating = none → exec (.migrationComplete e) s = .next s)

/-- R161 to R165, Tables 13.1 and 14.2. -/
def Obligations.MarkersMoveInOrder : Prop :=
  ∀ (s : State) (m : Fin 64),
    let k := s.marker m
    let live := (s.fch (m.val / 2)).converts = true
    let tog : Option Nat := if k.divider = true ∧ live then some (s.nextToggle k) else none
    let becomes := fun (t : State) => exec (.markerTransition m) s = .next t
    (∀ l p ms, k.modeAt = (l, p) :: ms → (∀ e es, k.edges = e :: es → 32 * l ≤ e.at_) → (∀ t, tog = some t → l ≤ t) →
      let u := (s.advanceTo l).updMarker m (fun k => { k with modeAt := ms })
      becomes (if (u.fch (m.val / 2)).st ≠ .running ∧ (u.fch (m.val / 2)).st ≠ .stopping then u
        else (u.updMarker m (fun k => { k with divider := decide (p ≠ 0), period := p, toggled := l })).setMarker m (32 * l) (decide (p ≠ 0)))) ∧
    (∀ e es, k.edges = e :: es → (∀ l p ms, k.modeAt = (l, p) :: ms → e.at_ < 32 * l) → (∀ t, tog = some t → e.at_ ≤ 32 * t) →
      let u := (s.advanceTo (e.at_ / 32)).updMarker m (fun k => { k with edges := es })
      let y := u.marker m
      let near := ∃ l, y.last = some l ∧ e.at_ < l + 16 ∧ ¬ (e.at_ = l ∧ e.level = y.level ∧ e.moved = false)
      let runs := (u.fch (m.val / 2)).st = .running
      let v := if e.moved then u else u.clash e
      (¬ runs → becomes u) ∧
      (runs → y.divider = true → becomes (u.clash e)) ∧
      (runs → y.divider = false → near → becomes (v.updMarker m (fun k => { k with
        edges := insertEdge { e with at_ := max (o2n k.last + 16) (32 * v.lc), moved := true } k.edges }))) ∧
      (runs → y.divider = false → ¬ near → becomes ((u.updMarker m (fun k => { k with last := some e.at_ })).setMarker m e.at_ e.level))) ∧
    (∀ t, tog = some t → (∀ l p ms, k.modeAt = (l, p) :: ms → t < l) → (∀ e es, k.edges = e :: es → 32 * t < e.at_) →
      becomes (((s.advanceTo t).updMarker m (fun k => { k with toggled := t })).setMarker m (32 * t) (!k.level))) ∧
    (tog = none → k.modeAt = [] → k.edges = [] → becomes s)

/-- R127, R143, R154, R195 to R200, R207 to R210, R217 to R219, R285, R349. -/
def Obligations.VoicesPlayFillAndFollow : Prop :=
  ∀ (s : State) (v : Fin 256) (late i0 k0 : Nat) (ovl : Bool) (slot : Fin 16),
    let x := s.voice v
    let rateLc := fun (t : State) => (t.voiceMode v).rate * t.lc
    let lateFill := fun (t : State) (e : Nat) => (t.carryF v).updVoice v (fun x => { x with
      st := .fill, cur := none, before_ := none, lastEnd := some e, fillEp := some { from_ := rateLc t, value := x.lastOut } })
    (∀ a q, x.st = .idle → x.queue = a :: q →
      (a.usable ≤ a.pos → exec (.voiceActionStart v) s = .next ((s.advanceTo (max (s.firstDue v a / 65536).toNat
        (if s.shortfall v a = 0 then 0 else a.usable))).beginAction v a)) ∧
      (a.pos < a.usable → x.lastEnd = some a.pos → exec (.voiceActionStart v) s = .next (lateFill (s.advanceTo a.pos) a.pos)) ∧
      (a.pos < a.usable → x.lastEnd ≠ some a.pos → exec (.voiceActionStart v) s = .next (s.advanceTo a.pos))) ∧
    (x.st ≠ .idle ∨ x.queue = [] → exec (.voiceActionStart v) s = .next s) ∧
    (∀ a, x.cur = some a →
      let e := a.pos + a.dur
      let endLc := (-(-(s.endDue v a) / 65536)).toNat
      let close := fun (t : State) => (t.endFill v (rateLc t) true).noteOut v (rateLc t)
      let done := fun (t : State) => (t.dropPin a.seg).swept
      let plays := x.st = .playing ∨ x.st = .fill
      (∀ b q, plays → x.queue = b :: q → b.pos = e → s.inTime v a b = true → exec (.voiceActionEnd v) s = .next
        (done ((close (s.advanceTo (max (min (s.endDue v a) (s.firstDue v b) / 65536).toNat (s.startLc v b)))).beginAction v b))) ∧
      (∀ b q, plays → x.queue = b :: q → b.pos = e → s.inTime v a b = false →
        exec (.voiceActionEnd v) s = .next (done (lateFill (close (s.advanceTo endLc)) e))) ∧
      (¬ plays ∨ (∀ b q, x.queue = b :: q → b.pos ≠ e) → exec (.voiceActionEnd v) s = .next (done ((close (s.advanceTo endLc)).idleVoice v e)))) ∧
    (x.cur = none → exec (.voiceActionEnd v) s = .next s) ∧
    (∀ a q, x.queue = a :: q → (x.st = .idle ∨ (x.st = .fill ∧ x.cur = none)) → (a.pos < a.usable ∨ 0 < late) →
      let t := max (a.pos + late) a.usable
      let u := s.advanceTo t
      let k := if x.lastEnd = some a.pos then (u.voiceMode v).rate * (t - a.pos) else 0
      let w := u.updVoice v (fun x => { x with underruns := sat 65535 (x.underruns + 1), filled := sat (2 ^ 32 - 1) (x.filled + k) })
      let z := w.faultAt 0x101 0 .c x.owner (o2n (w.ctx (x.owner.getD 0)).engine) (w.tbAt a.pos)
        (detS a.step ((t : Int) - a.pos) ((a.pos : Int) - (w.ctx (x.owner.getD 0)).startS))
      exec (.actionLate v late) s = .next (if t < a.pos + a.dur then z.beginAction v a
        else (z.updVoice v (fun x => { x with queue := x.queue.drop 1 })).idleVoice v (a.pos + a.dur))) ∧
    (x.queue = [] ∨ ¬ (x.st = .idle ∨ (x.st = .fill ∧ x.cur = none)) → exec (.actionLate v late) s = .next s) ∧
    (x.cur = none ∨ (∃ e, x.fillEp = some e ∧ e.until_ = none) → exec (.voiceUnderrun v ovl i0 k0) s = .next s) ∧
    (∀ a, x.cur = some a → (∀ e, x.fillEp = some e → e.until_ ≠ none) →
      let next := s.nextDue v a
      (∀ i, s.firstMissing v a next = some i → exec (.voiceUnderrun v false i0 k0) s = .next (s.beginFill v a i (s.whyMissing v a i))) ∧
      (s.firstMissing v a next = none → exec (.voiceUnderrun v false i0 k0) s = .next s) ∧
      (∀ i k, let hit := a.bank ≠ none ∧ s.bnkOver (o2n a.bank) = true ∧ 0 < k ∧ next ≤ i ∧ i + k ≤ s.actSamples v a
        (hit → exec (.voiceUnderrun v true i k) s = .next (s.overFill v a i k)) ∧
        (¬ hit → exec (.voiceUnderrun v true i k) s = .next s))) ∧
    (∀ a i,
      let n := s.dueAt v a i
      let u := (s.advanceTo (n / (s.voiceMode v).rate)).noteOut v n
      let e := fun (w : FillCause) (pc : Option Nat) => ({ pc := pc, from_ := n, cause := w, first := i, value := (u.voice v).lastOut } : FillEp)
      let m := u.poisonEnd v a i
      s.beginFill v a i .data = u.updVoice v (fun x => { x with
        fillEp := some (e .data (u.outPc a i)), st := if x.st = .playing then .fill else x.st
        underruns := if (u.voice v).frozen.any (fun f => decide (u.outPc a i = some f.pc)) then x.underruns else sat 65535 (x.underruns + 1) }) ∧
      s.beginFill v a i .poison = (u.updVoice v (fun x => { x with
        poisoned := sat 65535 (x.poisoned + u.poisonWords v a i m), fillEp := some (e .poison none) })).closeFill v (n + (m - i)) ∧
      s.beginFill v a i .bankNotOn = ({ u with bnk := { u.bnk with notOnFaults := sat 255 (u.bnk.notOnFaults + 1) } } : State).updVoice v (fun x =>
        { x with fillEp := some (e .bankNotOn none), st := if x.st = .playing then .fill else x.st })) ∧
    (∀ e a m, x.fillEp = some e → x.cur = some a → e.pc = none →
      let u := s.updVoice v (fun x => { x with
        filled := sat (2 ^ 32 - 1) (x.filled + (m - e.from_)), fillEp := some { e with until_ := some m }, st := if x.st = .fill then .playing else x.st })
      let t := u.tbAt (a.pos + e.first / (u.voiceMode v).rate)
      let d := fun (b : Nat) => detV a.seg a.segGen (e.first % max (u.seg a.seg).samples 1) t (m - e.from_) b
      (e.cause = .data → s.closeFill v m = u.faultAt 0x201 0 .c (u.voice v).owner v t (d 0)) ∧
      (e.cause = .poison → s.closeFill v m = u.faultAt 0x202 5 .c (u.voice v).owner v t (d 0)) ∧
      (e.cause = .bankNotOn → s.closeFill v m = u.faultAt 0x205 0 .c (u.voice v).owner v t (d (o2n a.bank)))) ∧
    (x.st = .ramping →
      let u := s.advanceTo (x.rampFrom + x.rampLen)
      let r := u.endFill v (rateLc u) true
      let w := (r.abandonTags (fun t => decide (t.voice = some v.val))).updVoice v (fun x => { x with queue := [] })
      let y := w.idleVoice v w.lc
      exec (.voiceRampEnd v) s = .next (match x.cur with | some a => y.dropPin a.seg | none => y)) ∧
    (x.st ≠ .ramping → exec (.voiceRampEnd v) s = .next s) ∧
    ((s.slot slot).toVoice = [] → exec (.followUpdate slot) s = .next s) ∧
    (∀ phi n rest, (s.slot slot).toVoice = (phi, n) :: rest →
      let u := (s.advanceTo (n + 6)).updSlot slot (fun k => { k with toVoice := rest })
      exec (.followUpdate slot) s = .next ((u.followers slot).foldl (fun t v => t.follow phi v) u)) ∧
    (∀ phi : Int,
      let r := x.vrec
      let goal := x.t + roundShift (phi - r.followRef - x.t) r.followK
      let held := max (-(r.followLimit : Int)) (min r.followLimit goal)
      let u := (s.carryF v).updVoice v (fun x => { x with
        t := held, atLimit := decide (goal ≠ held) || (x.atLimit && decide (held.natAbs = x.vrec.followLimit)) })
      (goal = held ∨ x.atLimit = true → s.follow phi v = u) ∧
      (goal ≠ held → x.atLimit = false → s.follow phi v = u.fault 0x204 0 .c x.owner v
        (match x.cur with | some a => detV a.seg a.segGen 0 (u.tbAt a.pos) 0 0 | none => [])))

/-- R14, R235 to R237, R241 to R244, R273, R397, R398, R400, R417, R418. -/
def Obligations.FastChannelsStartStopAndAreSupervised : Prop :=
  ∀ (s : State) (c : Fin 32) (die : Fin 4) (ratio trim : BitVec 16) (content train sats plausible trimmable : Bool) (spare out : Fin 54) (n : Fin 16),
    let f := s.fch c
    (f.st = .starting →
      let a := s.advanceTo (s.lcAt f.boundary)
      let b := (a.markersLow c).dropChEdges c (fun e => decide (e.at_ < 32 * a.lc))
      let d := b.each [2 * c.val, 2 * c.val + 1] (fun m t => t.updMarker m (fun k => { k with last := none, modeAt := k.modeAt.filter (fun x => decide (t.lc ≤ x.1)) }))
      let e := (d.zeroModulator c).updFch c (fun f => { f with st := .running, runFrom := d.lc, starts := sat 65535 (f.starts + 1), rampEnd := none })
      let mine := fun (j : Job) => match j.kind with | .fchStart x _ _ => decide (x = c.val) | _ => false
      let js := e.jobs.filter mine
      exec (.startBoundary c) s = .next (js.foldl (fun t j => match j.kind with
        | .fchStart _ _ w => t.complete j.run .ok (if w then 1 else 0)
        | _ => t) (e.dropJobs (fun j => js.contains j)))) ∧
    (f.st ≠ .starting → exec (.startBoundary c) s = .next s) ∧
    (∀ e, f.rampEnd = some e → let u := s.advanceTo e
      exec (.stopRampEnd c) s = .next ((if u.firstLevel c = 0 then u else u.advanceTo (e + 1)).muteFch c)) ∧
    (f.rampEnd = none → exec (.stopRampEnd c) s = .next s) ∧
    (let cs := (dieChannels die).filter (fun k => (s.fch k).live)
      let u : State := { s with linkDown := insertNat die s.linkDown }
      (cs = [] → exec (.sampleLinkLoss die) s = .next (u.fault 0x301 2 .p none (0x80 + die) [])) ∧
      (cs ≠ [] → exec (.sampleLinkLoss die) s = .next (cs.foldl (fun t k =>
        ((t.hwStopFch k).updFch k (fun f => { f with events := orBits f.events 5 })).fault 0x301 2 .cp (t.chCtx k) k [word (t.fch k).ratio.toNat]) u))) ∧
    exec (.sampleLinkReturn die) s = .next { s with linkDown := s.linkDown.filter (fun k => decide (k ≠ die.val)) } ∧
    (f.st = .running → exec (.driverCurrentLimit c) s = .next ((s.updFch c (fun f => { f with ilimit := true })).verdict c 4)) ∧
    (f.st ≠ .running → exec (.driverCurrentLimit c) s = .next s) ∧
    (s.mon.samplerRun = true → s.mon.samplerCh = c.val →
      let v := loadVerdict ratio.toNat
      let u := if content = true ∧ s.wholeWindow c = true then
        (s.updFch c (fun f => { f with ratio := ratio, ratioValid := true, ilimit := f.ilimit && decide (v = 4) })).verdict c v else s
      let why := u.waitCode c train sats
      let ok := decide (why = none ∧ (u.aoc c).pending ≠ 2)
      let w := u.updAoc c (fun a => { a with wait := why.getD a.wait, windows := if ok then a.windows + 1 else a.windows })
      let old := Tbl.get (0, 0) w.mon.smp c
      exec (.monitorWindowEnd c ratio content train sats) s = .next { w with mon := { w.mon with
        samplerCh := (c.val + 1) % 32, smp := Tbl.set (0, 0) w.mon.smp c (sat 65535 (old.1 + 1), sat 65535 (old.2 + b2n ok)) } }) ∧
    (¬ (s.mon.samplerRun = true ∧ s.mon.samplerCh = c.val) → exec (.monitorWindowEnd c ratio content train sats) s = .next s) ∧
    (let may := s.bgOn c = true ∧ f.measuring = false ∧ spare.val ∈ f.spareList ∧ out.val ∉ f.spareList ∧ out.val ∉ f.retiredList
      let u := (s.setTrim (elemTrim c spare) (s.trim (elemTrim c out))).tick
      let swap := fun (t : State) => t.updFch c (fun f => { f with
        table := f.table.map (fun e => if e = out.val then spare.val else e), spareList := f.spareList.filter (fun e => decide (e ≠ spare.val))
        position := out.val, measuring := true, measureAt := t.lc })
      (∀ v, may → u.shadowOf (elemIdx c spare) = some v → exec (.elementSwap c spare out) s = .next
        (swap (((u.setTrim (elemTrim c spare) (v.setWidth 32)).setShadow (elemIdx c spare) none).noteCal 2))) ∧
      (may → u.shadowOf (elemIdx c spare) = none → exec (.elementSwap c spare out) s = .next (swap u)) ∧
      (¬ may → exec (.elementSwap c spare out) s = .next s)) ∧
    (f.measuring = true →
      let a := s.advanceTo (f.measureAt + 1600000)
      let e := f.position
      let bad := Tbl.get 0 f.implausible e + 1
      let pass := insertNat e f.measured
      let whole := (List.range 54).all (fun x => pass.contains x || f.retiredList.contains x)
      let u := a.updFch c (fun g => { g with
        measuring := false, spareList := insertNat e g.spareList, implausible := Tbl.set 0 g.implausible e (if plausible then 0 else bad)
        measured := if whole then [] else pass, passes := if whole then sat 65535 (g.passes + 1) else g.passes })
      let goes := trimmable = false ∨ (plausible = false ∧ 3 ≤ bad)
      exec (.elementMeasurementEnd c trim plausible trimmable) s = .next
        (if goes then u.retireElement c e else if plausible then u.setShadow (elemIdx c e) (some trim) else u)) ∧
    (f.measuring = false → exec (.elementMeasurementEnd c trim plausible trimmable) s = .next s) ∧
    exec (.outputStageFault (.fast c)) s = .next (s.failFch c) ∧ exec (.outputStageFault (.prec n)) s = .next (s.failPch n)

/-- R251, R253, R257, R258, R260 to R262, R264 to R266, Tables 9.3 and 9.4. Log entry 41 names the lane cycle of an LDSTB edge. -/
def Obligations.PrecisionChannelsTickStrobeAndSwitch : Prop :=
  ∀ (s : State) (n : Fin 16) (g : Fin 4),
    let p := s.pch n
    let k := s.group g
    (p.st = .enabled → p.strobed = false →
      let a := s.advanceTo (s.boundaryFrom (match p.tickAt with | some t => max s.lc (t + 1) | none => s.lc) (8 * p.div))
      let u := a.updPch n (fun p => { p with tickAt := some a.lc })
      let ticks := fun (t : State) => exec (.queueTick n) s = .next t
      (p.ticksOff = true → ticks u) ∧
      (p.ticksOff = false → u.precLinkDown = true → ((p.queue = [] ∧ p.tookNoLast = false) → ticks u) ∧ (¬ (p.queue = [] ∧ p.tookNoLast = false) → ticks (u.missTick n))) ∧
      (p.ticksOff = false → u.precLinkDown = false →
        (p.queue = [] → ticks (if p.tookNoLast then u.missTick n else u)) ∧
        (∀ c l q, p.queue = (c, l) :: q → ticks ((u.endUnder n).updPch n (fun p => { p.apply c u.lc with queue := q, tookNoLast := !l, done := l }))))) ∧
    (¬ (p.st = .enabled ∧ p.strobed = false) → exec (.queueTick n) s = .next s) ∧
    (let a : State := { s with power := { s.power with ldstb := s.power.ldstb ||| (1 <<< g.val) } }
     exec (.ldstbRise g) s = .next (a.strobe g (a.boundaryFrom (s.lc + 2 + Config.freeNat s.fresh % 2 + 4) 8)).bump) ∧
    (k.due = none → k.deferred = none → exec (.strobeTransfer g) s = .next s) ∧
    (∀ t, (k.due = some t ∨ (k.due = none ∧ k.deferred = some t)) →
      let u := (s.advanceTo t).updGroup g (fun j => if k.due.isSome then { j with due := none } else { j with deferred := none })
      exec (.strobeTransfer g) s = .next (if u.power.clrnLow then u.ignoreStrobe g else if u.precLinkDown then u.strobe g t else u.transfer g t)) ∧
    (∀ a b c t, p.st = .ramping → p.ramp = some (a, b, c, t) → exec (.disableRampEnd n) s = .next
      (((s.advanceTo t).updPch n (fun p => { p with st := .disabled, force := b, ramp := none })).donePch n)) ∧
    (p.st ≠ .ramping ∨ p.ramp = none → exec (.disableRampEnd n) s = .next s) ∧
    (let switches := fun (i : Nat) => p.st = .switching ∧ p.swStage = i ∧ s.precDown = false
      let a := s.advanceTo (p.swAt + 102400)
      let b := s.advanceTo (p.swAt + 118400)
      (switches 0 → exec (.pchSwitchHold n) s = .next (a.updPch n (fun p => { p with swStage := 1, range := p.swNewRange, force := 0, ramp := none }))) ∧
      (¬ switches 0 → exec (.pchSwitchHold n) s = .next s) ∧
      (switches 1 → exec (.pchSwitchRelease n) s = .next (b.updPch n (fun p => { p with
        swStage := 2, force := p.clear, ramp := some (0, p.clear, b.lc, b.lc + 102400) }))) ∧
      (¬ switches 1 → exec (.pchSwitchRelease n) s = .next s) ∧
      (∀ x y z t, switches 2 → p.ramp = some (x, y, z, t) → exec (.pchSwitchEnd n) s = .next
        ((((s.advanceTo t).updPch n (fun p => { p with
          st := if p.swEnable then .enabled else .disabled, force := p.clear, ramp := none, swOld := none, ticksOff := false })).endKind
            (fun k => decide (k = .pchSwitch n)) .ok 0).donePch n)) ∧
      (¬ switches 2 ∨ p.ramp = none → exec (.pchSwitchEnd n) s = .next s)) ∧
    (∀ lv t rel, p.holdDue = some (lv, t, rel) → exec (.settleHoldTake n) s = .next ((s.advanceTo t).updPch n (fun p => { p with
      holdDue := none, hold := some (lv, t, rel), holds := sat 65535 (p.holds + 1) }))) ∧
    (p.holdDue = none → exec (.settleHoldTake n) s = .next s) ∧
    (∀ lv t rel, p.hold = some (lv, t, rel) →
      (rel < t + holdMax → exec (.settleHoldRelease n) s = .next ((s.advanceTo rel).updPch n (fun p => { p with hold := none })) ∧ exec (.holdForced n) s = .next s) ∧
      (t + holdMax ≤ rel → exec (.settleHoldRelease n) s = .next s ∧ exec (.holdForced n) s = .next
        ((s.advanceTo (t + holdMax)).updPch n (fun p => { p with hold := none, events := orBits p.events 7 })))) ∧
    (p.hold = none → exec (.settleHoldRelease n) s = .next s ∧ exec (.holdForced n) s = .next s)

/-- R239, R240, R267 to R270, R274, R394 to R396, Table 16.1. -/
def Obligations.ClearsComplianceAndThePrecisionLink : Prop :=
  ∀ (s : State) (n : Fin 16) (rs : List PchReading) (vs : List (BitVec 24)),
    let p := s.pch n
    (s.power.clrnLow = false →
      let a : State := { s with power := { s.power with clrnLow := true }, clrCount := sat 65535 (s.clrCount + 1) }
      let b := (a.each (List.range 32) (fun c t => t.clearFch c)).each (List.range 16) clearOne
      exec .clrnFall s = .next ((b.fireSrc (srcIs 7 1024) b.lc).abandonBatch 1)) ∧
    (s.power.clrnLow = true →
      let a : State := { s with power := { s.power with clrnLow := false } }
      let b := a.each (List.range 32) (fun c t =>
        let u := if (t.fch c).st = .cleared ∧ (t.fch c).rampEnd ≠ none then t.muteFch c else t
        if (u.fch c).st = .cleared then u.updFch c (fun f => { f with st := .muted }) else u)
      exec .clrnFall s = .next s ∧
      exec .clrnRise s = .next (b.each (List.range 16) (fun k t => if (t.pch k).st = .cleared then t.updPch k (fun q => { q with st := .disabled }) else t))) ∧
    (s.power.clrnLow = false → exec .clrnRise s = .next s) ∧
    exec .clearHoldRefresh s = .next (s.each (List.range 16) (fun k t => t.updPch k (fun q => { q with clearHoldAt := t.lc }))) ∧
    (p.comparator = false → p.st ≠ .cleared → p.st ≠ .failed →
      let k := if 3 ≤ p.range then 0 else 1
      let u := s.updPch n (fun q => { q with comparator := true, events := orBits q.events k })
      (p.owner = none → exec (.complianceTrip n) s = .next u) ∧
      (∀ x, p.owner = some x → exec (.complianceTrip n) s = .next (u.fault (0x403 + k) 0 .c (some x) n [p.reading]))) ∧
    (¬ (p.comparator = false ∧ p.st ≠ .cleared ∧ p.st ≠ .failed) → exec (.complianceTrip n) s = .next s) ∧
    (s.precLinkDown = true → exec .precLinkLoss s = .next s ∧
      exec .precLinkReturn s = .next (({ s with precLinkDown := false } : State).each [0, 1, 2, 3] (fun g t => match (t.group g).linkWait with
        | none => t
        | some x =>
          let u := t.updGroup g (fun k => { k with linkWait := none })
          let e := u.boundaryFrom u.lc 8
          let d := match (u.group g).last with | some l => max e (l + 1600) | none => e
          let w := (u.updGroup g (fun k => { k with late := sat 4095 (k.late + 1) })).strobeLate g (d - x)
          if u.power.clrnLow then u.ignoreStrobe g
          else if d = e then w.transfer g e else w.updGroup g (fun k => { k with deferred := some d })))) ∧
    (s.precLinkDown = false → exec .precLinkReturn s = .next s ∧
      (let a : State := { s with precLinkDown := true }
       let b := if (s.proc 7).st = 0 then a.updProc 7 (fun q => { q with st := 1 }) else a
       (b.pchHolders = [] → exec .precLinkLoss s = .next (b.fault 0x408 2 .p none 0 [])) ∧
       (b.pchHolders ≠ [] → exec .precLinkLoss s = .next (b.pchHolders.foldl (fun t e => t.fault 0x408 2 .cAndP (some e.1) e.2 []) b)))) ∧
    (let u := rs.zipIdx.foldl (fun t r => t.readPch r.2 r.1) s
     let first := 3 * (u.mon.frames % 8)
     let v : State := { u with mon := { u.mon with frames := u.mon.frames + 1 } }
     exec (.monitorFrame rs vs) s = .next (v.each (List.range 24) (fun i t =>
       let old := Tbl.get (0, 0) t.mon.items i
       let fresh := first ≤ i ∧ i < first + 3
       let new := if fresh then (vs.getD (i - first) 0, 0) else if i / 3 < u.mon.frames then (old.1, sat 255 (old.2 + 1)) else old
       let w : State := { t with mon := { t.mon with items := Tbl.set (0, 0) t.mon.items i new } }
       match itemSensor i with
       | some k => if fresh then w.readSensor k (new.1.setWidth 16) else w
       | none => w)))

/-- R284 to R297, R307, R308, R313, R319, R321, R322, R324. -/
def Obligations.FetchesAreIssuedLandedTimedOutAndPromoted : Prop :=
  ∀ (s : State) (tag : BitVec 16) (q : BitVec 4) (ecc : EccResult) (pc : Fin 64) (unit : BitVec 21) (port : Fin 7),
    let n := tag.toNat
    let t := Tbl.get {} s.sql.tags n
    let z := s.swept
    (z.nextStream = none → exec .streamFetchIssue s = .next z) ∧
    (∀ r, z.nextStream = some r →
      (z.urgentFirst = true ∨ z.generalTag = none → exec .streamFetchIssue s = .next (z.updSql (fun q => { q with streamWaits := q.streamWaits + 1 }))) ∧
      (∀ g, z.urgentFirst = false → z.generalTag = some g →
        exec .streamFetchIssue s = .next ((((z.noteLead r.voice).tookUnit r).issueTurn r).issueAs r g false))) ∧
    (let u := (z.urgentReqs.takeWhile (fun r => !z.admits r)).foldl (fun v r => v.noteWait r) z;
      (u.urgentReqs.find? (fun r => u.admits r) = none → exec .urgentFetchIssue s = .next u) ∧
      (∀ r, u.urgentReqs.find? (fun r => u.admits r) = some r →
        (u.urgentTag = none → exec .urgentFetchIssue s = .next (u.noteWait r)) ∧
        (∀ g, u.urgentTag = some g → exec .urgentFetchIssue s = .next (((u.noteLead r.voice).tookUrgent r).issueAs r g true)))) ∧
    (t.held = false ∨ t.landed = true ∨ q ≠ t.seq → exec (.fetchLanded tag q ecc) s = .next s) ∧
    (t.held = true → t.landed = false → q = t.seq →
      let u := (s.access t.dpa t.asker).eccRead t.dpa t.asker ecc
      let w := u.noteLead t.voice
      let fails := eccBad ecc = true ∧ w.mirroredAt t.dpa = false
      let moved : Option Bulk := t.bulk.bind (fun id => if t.abandoned = true ∨ fails ∨ w.bulkLive id = false then none
        else w.sql.bulk.find? (fun b => decide (b.id = id)))
      let place := fun (k o a : Nat) => bankKey k o ≤ a ∧ a < bankKey k o + 256
      ∃ x, exec (.fetchLanded tag q ecc) s = .next x ∧
        x = (if t.abandoned then u.freeTagNo n
          else if fails then (match t.bulk with | some id => (w.freeTagNo n).askAgain id t.unit | none => w.freeTagNo n)
          else w.land n t) ∧
        (∀ a, ¬ place (slotBank n) (slotOff n) a →
          (∀ b, moved = some b → (∀ k o p, b.goal = .pin → (w.seg b.seg).pin = some (k, o, p) → ¬ place k (o + 256 * t.unit) a) ∧
            ∀ c j k o, b.goal = .jump c j → ((w.ctx c).jump j).copy = some (k, o) → ¬ place k (o + 256 * t.unit) a) →
          Memory.read x.bnk.ram a = Memory.read s.bnk.ram a) ∧
        (t.abandoned = false → ¬ fails → (∀ b, moved = some b → b.goal = .host) →
          x.bnk.ram = Memory.writeMany s.bnk.ram (bankKey (slotBank n) (slotOff n)) (Memory.readMany u.sql.dram t.dpa 256)) ∧
        (∀ a, (∀ w y z c, ecc = .uncorrectable w y z c → let d := t.dpa + 32 * w.val;
            ¬ (32 * (d / 32) ≤ a ∧ a < 32 * (d / 32) + 32) ∧ ¬ (32 * (otherCopy d / 32) ≤ a ∧ a < 32 * (otherCopy d / 32) + 32)) →
          (∀ b, moved = some b → b.goal = .mirror → ∀ e m, (w.seg b.seg).newExt = some (e, m) →
            ∀ i < 256, a ∉ ({ w.seg b.seg with ext := e, nExt := m, mirrored := !(w.seg b.seg).mirrored } : Seg).dpasOf (256 * t.unit + i)) →
          Memory.read x.sql.dram a = Memory.read s.sql.dram a)) ∧
    (t.held = false ∨ t.landed = true → exec (.fetchTimeout tag) s = .next s) ∧
    (t.held = true → t.landed = false →
      let u := (s.advanceTo (t.issued + 80000)).freeTagNo n
      let again := fun (v : State) => match t.bulk with | some id => v.askAgain id t.unit | none => v
      let v := u.updSql (fun q => { q with timeouts := sat 65535 (q.timeouts + 1) })
      let k := pcOf (t.dpa / 256)
      let det := detM t.dpa (if t.isStep then 0 else t.seg + 65536 * t.segGen) t.first 0 t.voice 0 0
      (t.abandoned = true → exec (.fetchTimeout tag) s = .next u) ∧
      (t.abandoned = false → t.retry = true → exec (.fetchTimeout tag) s = .next (((again v).fault 0x602 2 .c (some t.ctx) k det).recoverPc k)) ∧
      (t.abandoned = false → t.retry = false → exec (.fetchTimeout tag) s = .next
        ((v.updSql (fun q => { q with urgent := q.urgent ++ [{
          port := 0, ctx := t.ctx, gen := t.gen, voice := t.voice, seg := t.seg, segGen := t.segGen, dpa := t.dpa, deadline := t.deadline, first := t.first, unit := t.unit, pos := t.pos, bulk := t.bulk, retry := true }] })).fault
          0x601 1 .c (some t.ctx) k det))) ∧
    (let ready := t.held = true ∧ t.landed = false ∧ t.abandoned = false ∧ t.promoted = false ∧
        s.slowed { dpa := t.dpa, port := t.port, ctx := t.ctx, gen := t.gen, voice := t.voice, seg := t.seg, segGen := t.segGen } = false;
      (¬ ready → exec (.requestPromotion (.read tag)) s = .next s) ∧
      (ready → exec (.requestPromotion (.read tag)) s = .next
        ((s.advanceTo (t.issued + (if t.port < 2 then 320 else if t.port = 2 then 3200 else 32000))).updSql (fun q => { q with
          tags := Tbl.set {} q.tags n { t with promoted := true },
          overdue := if t.port < 2 then sat 65535 (q.overdue + 1) else q.overdue,
          streamToUrgent := if t.port = 2 then q.streamToUrgent + 1 else q.streamToUrgent,
          bulkToStream := if t.port = 3 ∨ t.port = 4 then q.bulkToStream + 1 else q.bulkToStream })))) ∧
    ((s.pc pc).wq.find? (fun x => decide (x.unit = unit.toNat) && !x.promoted) = none → exec (.requestPromotion (.write pc unit)) s = .next s) ∧
    (∀ x, (s.pc pc).wq.find? (fun x => decide (x.unit = unit.toNat) && !x.promoted) = some x →
      let u := s.advanceTo (x.since + if x.port = 6 then 320000 else 32000)
      exec (.requestPromotion (.write pc unit)) s = .next
        ((u.updPc pc (fun p => { p with wq := p.wq.map (fun y => if y.unit = unit.toNat then { y with promoted := true } else y) })).updSql (fun q => { q with
          bgToBulk := if x.port = 6 then q.bgToBulk + 1 else q.bgToBulk
          bulkToStream := if x.port = 6 then q.bulkToStream else q.bulkToStream + 1 }))) ∧
    (port.val < 3 → exec (.writeEnqueue pc unit port) s = .next s) ∧
    (3 ≤ port.val →
      let d := dpaOf pc unit.toNat
      let ks := if s.mirroredAt d then [pc.val, partner pc] else [pc.val]
      exec (.writeEnqueue pc unit port) s = .next ((ks.filter (fun k => decide ((s.pc k).phase ≠ .failed))).foldl (fun w k =>
        let x := w.enqueue k unit.toNat port
        if x.readWaits k unit.toNat = true ∧ (x.pc k).serves = true then x.drainUnit (dpaOf k unit.toNat) else x) s))

/-- R309 to R313, R317 to R320. -/
def Obligations.RefreshRowCountersAndStackTemperatures : Prop :=
  ∀ (s : State) (pc : Fin 64) (b : Fin 32) (row : BitVec 14) (t0 t1 : BitVec 8),
    let k := (s.pc pc).dbank b
    (let u := s.updMem (fun m => { m with refreshAb := false })
     let w := s.urgentFor pc b
     let f : DBank → DBank := fun k => if w then (if k.postponed < 8 then { k with postponed := k.postponed + 1 } else { k with open_ := none }) else { k with open_ := none, postponed := 0 }
     exec (.perBankRefresh pc b) s = .next (u.updDBank pc b f)) ∧
    (s.anyArmed = true → exec (.allBankRefresh pc) s = .next s) ∧
    (s.anyArmed = false → exec (.allBankRefresh pc) s = .next ((s.updMem (fun m => { m with refreshAb := true })).updPc pc (fun p => { p with
      banks := Tbl.mapVals {} (fun _ k => { k with open_ := none, postponed := 0 }) p.banks }))) ∧
    (k.open_ = none → exec (.rowIdleClose pc b) s = .next s) ∧
    (∀ x, k.open_ = some x → exec (.rowIdleClose pc b) s = .next ((s.advanceTo (k.lastUse + 128)).updDBank pc b (fun k => { k with open_ := none }))) ∧
    exec (.stackTempRead t0 t1) s = .next (((s.updMem (fun m => { m with temp0 := t0, temp1 := t1 })).readSensor 7
      (BitVec.ofNat 16 (256 * t0.toNat))).readSensor 8 (BitVec.ofNat 16 (256 * t1.toNat))) ∧
    exec (.rowCounterWindow pc b) s = .next ((s.updDBank pc b (fun k => { k with rows := [] })).updPc pc (fun p => { p with
      throttles := (p.throttles.filter (fun t => !(decide (t.bank = b.val) && t.quiet))).map (fun t =>
        if t.bank = b.val then { t with quiet := true } else t) })) ∧
    (let due := k.rows.find? (fun e => decide (e.row = row.toNat) && decide (4096 ≤ e.count))
     (due = none → exec (.neighbourRefresh pc b row) s = .next s) ∧
     (∀ e, due = some e →
       let u := (s.updDBank pc b (fun k => { k with
         open_ := none, rows := k.rows.map (fun x => if x.row = e.row then { x with count := 0 } else x), postponed := min 8 (k.postponed + 1) })).updPc pc
           (fun p => { p with neighbour := sat 65535 (p.neighbour + 1) })
       let had := (u.pc pc).throttles.any (fun t => decide (t.req = e.req) && decide (t.bank = b.val) && decide (t.row = row.toNat))
       let v := u.updPc pc (fun p => { p with
         throttles := p.throttles ++ [{ req := e.req, bank := b, row := row.toNat, last := u.lc }], throttleCount := sat 255 (p.throttleCount + 1) })
       let seg := match e.req.seg with | some k => segValue v k | none => 0
       (had = true → exec (.neighbourRefresh pc b row) s = .next u) ∧
       (had = false → 4 < e.req.port → exec (.neighbourRefresh pc b row) s = .next v) ∧
       (had = false → e.req.port ≤ 4 → exec (.neighbourRefresh pc b row) s = .next (v.fault 0x603 0 .c (some e.req.ctx) pc
         [0, pack [(3, b.val), (8, row.toNat)], word seg, 0, 0, pack [(0, o2n e.req.voice), (8, b2n e.req.voice.isSome)]]))))

/-- R315, R323, R324, R326, R327, Table 11.2. -/
def Obligations.ScrubsRepairsAndDelayTracking : Prop :=
  ∀ (s : State) (ecc : EccResult) (dpa : BitVec 35) (pc : Fin 64) (lane : Fin 5) (up : Bool) (delay margin : BitVec 8),
    (let o := s.owlAhead
     let z := o.zeroFirst
     let g := z.mem.scrubUnit
     let u := z.updMem (fun m => { m with scrubUnit := (g + 1) % 2 ^ 27, passes := if g + 1 = 2 ^ 27 then sat 65535 (m.passes + 1) else m.passes })
     let p := z.pc (pcOf g)
     let v := u.access (256 * g) { unit := some g }
     (o.scrubBehind = true → z = o) ∧
     (o.scrubBehind = false → z = (o.sql.quarantine.filter (fun x => !o.orphansInto x.1 x.2)).foldl (fun t x => t.returnExtents x.1 x.2) o) ∧
     (∀ a, Memory.read z.bnk.ram a = Memory.read s.bnk.ram a) ∧
     (∀ a, (∀ d ∈ s.served s.mem.repair, ¬ (d / 32 * 32 ≤ a ∧ a < d / 32 * 32 + 32)) →
       (o.scrubBehind = true ∨ ∀ x ∈ o.sql.quarantine, ¬ (16384 * x.1 ≤ a ∧ a < 16384 * x.1 + 16384 * x.2)) →
       Memory.read z.sql.dram a = Memory.read s.sql.dram a) ∧
     (p.phase ≠ .service ∨ p.frozen ≠ none → exec (.scrubRead ecc) s = .next u) ∧
     (p.phase = .service → p.frozen = none →
       ∃ x, exec (.scrubRead ecc) s = .next x ∧
         (∀ w y z c, ecc = .uncorrectable w y z c → x = v.scrubBad (256 * g + 32 * w)) ∧
         ((∀ w y z c, ecc ≠ .uncorrectable w y z c) → x = v.eccRead (256 * g) {} ecc) ∧
         (∀ a, Memory.read x.bnk.ram a = Memory.read z.bnk.ram a) ∧
         (∀ a, (∀ w y z c, ecc = .uncorrectable w y z c → let d := 256 * g + 32 * w.val;
             ¬ (32 * (d / 32) ≤ a ∧ a < 32 * (d / 32) + 32) ∧ ¬ (32 * (otherCopy d / 32) ≤ a ∧ a < 32 * (otherCopy d / 32) + 32)) →
           Memory.read x.sql.dram a = Memory.read z.sql.dram a))) ∧
    (let d := dpa.toNat / 32 * 32
     (d ∉ s.mem.repair → exec (.mirrorRepair dpa) s = .next s) ∧
     (d ∈ s.mem.repair → ∃ x, exec (.mirrorRepair dpa) s = .next x ∧
       x = (let u := ((s.copyBack d).updMem (fun m => { m with repair := m.repair.filter (fun y => decide (y ≠ d)) })).enqueueUnit 6 d;
         u.fault 0x605 3 .cp (u.ownerOf d) (pcOf (d / 256)) (u.wordDet d 0 0)) ∧
       (∀ a, Memory.read x.bnk.ram a = Memory.read s.bnk.ram a) ∧
       (∀ i, i < 32 → Memory.read x.sql.dram (d + i) = Memory.read s.sql.dram (otherCopy d + i)) ∧
       (∀ a, ¬ (d ≤ a ∧ a < d + 32) → Memory.read x.sql.dram a = Memory.read s.sql.dram a))) ∧
    (let p := s.pc pc
     let tracks := (s.proc 2).st = 0 ∧ p.phase = .service
     let new := if up then p.rd.getD lane 0 + 1 else p.rd.getD lane 0 - 1
     (¬ tracks → exec (.readDelayTrack pc lane up margin) s = .next s ∧ exec (.writeDelayCheck pc lane delay margin) s = .next s) ∧
     (tracks →
       exec (.readDelayTrack pc lane up margin) s = .next ((s.updPc pc (fun p => { p with
         margins := setAt p.margins lane margin.toNat,
         rd := if apart new (p.rdMid.getD lane 0) ≤ 16 then setAt p.rd lane new else p.rd })).checkDrift pc lane) ∧
       exec (.writeDelayCheck pc lane delay margin) s = .next ((s.updPc pc (fun p => { p with
         margins := setAt p.margins lane margin.toNat,
         wr := if apart delay (p.wrMid.getD lane 0) ≤ 16 then setAt p.wr lane delay else p.wr })).checkDrift pc lane)))

/-- R314 to R316, R325, R329 to R331, R334 to R337. -/
def Obligations.FreezesRetirementRecoveryAndMaintenance : Prop :=
  ∀ (s : State) (pc : Fin 64) (step2 ok : Bool),
    let p := s.pc pc
    (s.mem.maint ≠ 1 → exec .maintWindowClose s = .next s) ∧
    (s.mem.maint = 1 →
      let u := if s.mem.selected = [] ∧ countPcs s (fun p => decide (p.phase = .train)) = 0 then s else s.advanceTo s.mem.maintAt;
      exec .maintWindowClose s = .next (u.updMem (fun m => { m with maint := 2, selected := [] }))) ∧
    (p.frozen = none ∨ p.unfreeze ≠ none → exec (.freezeTimeout pc) s = .next s) ∧
    (∀ t, p.frozen = some t → p.unfreeze = none → ∃ x, exec (.freezeTimeout pc) s = .next x ∧
      x = (s.advanceTo (t + 16000000)).retireCaptured pc 2 ∧
      (∀ a, Memory.read x.bnk.ram a = Memory.read s.bnk.ram a) ∧
      (∀ a, (∀ c, p.capture = some c → ¬ (32 * (c.dpa / 32) ≤ a ∧ a < 32 * (c.dpa / 32) + 32)) → Memory.read x.sql.dram a = Memory.read s.sql.dram a)) ∧
    (p.copying = none → exec (.rowRetireCopyEnd pc) s = .next s) ∧
    (∀ b row, p.copying = some (b, row) →
      let t := s.updDBank pc b (fun k => match k.nextSpare with
        | some i => { k with redirect := k.redirect ++ [(row, 16336 + i)], sparesUsed := i + 1, open_ := none }
        | none => k)
      let u := t.updPc pc (fun p => { p with
        copying := none, retired := p.retired + 1, spares := p.spares - 1,
        capture := p.capture.map (fun c => if c.bank = b ∧ c.row = row then { c with retired := true } else c) })
      let v := ({ u with log := { u.log with mramRows := u.log.mramRows ++ [(pc.val, b, row)] } } : State).fault 0x609 3 .p none pc [0, pack [(3, b), (8, row)]]
      let w := match (v.pc pc).unfreeze with | some how => v.unfreezePc pc how | none => v
      let js := w.jobs.filter (fun j => decide (j.kind = .memRetire pc))
      ∃ x, exec (.rowRetireCopyEnd pc) s = .next x ∧
        x = js.foldl (fun y j => y.endDiag j.run 1) (w.dropJobs (fun j => decide (j.kind = .memRetire pc))) ∧
        (∀ a, Memory.read x.bnk.ram a = Memory.read s.bnk.ram a) ∧
        (∀ a, (∀ c, p.capture = some c → ¬ (32 * (c.dpa / 32) ≤ a ∧ a < 32 * (c.dpa / 32) + 32)) → Memory.read x.sql.dram a = Memory.read s.sql.dram a)) ∧
    exec (.phySelfCheckFail pc) s = .next (s.recoverPc pc) ∧
    (let inRec := p.phase = .recovery ∧ s.sys.recovery = false
     let u := s.updPc pc (fun p => { p with retrains := sat 255 (p.retrains + 1) })
     let back := fun (t : State) => ((t.updPc pc (fun p => { p with phase := .service })).fault 0x60B 2 .p none pc []).backInService pc
     (¬ inRec → exec (.pcRecoveryEnd pc step2 ok) s = .next s) ∧
     (inRec →
       exec (.pcRecoveryEnd pc false true) s = .next (back s) ∧
       exec (.pcRecoveryEnd pc false false) s = .next s ∧
       exec (.pcRecoveryEnd pc true true) s = .next (back (u.retrained pc)) ∧
       exec (.pcRecoveryEnd pc true false) s = .next (u.failPc pc))) ∧
    (let u := s.updPc pc (fun p => { p with retrains := sat 255 (p.retrains + 1) })
     (p.phase = .train →
       exec (.pcRetrainEnd pc true) s = .next (((u.retrained pc).updPc pc (fun p => { p with phase := .service })).backInService pc) ∧
       exec (.pcRetrainEnd pc false) s = .next (u.failPc pc)) ∧
     (p.phase = .start → 1 ≤ s.fw.boot → s.sys.recovery = false →
       let v := if ok then (s.retrained pc).updPc pc (fun p => { p with phase := .test }) else s.failPc pc;
       exec (.pcRetrainEnd pc ok) s = .next (v.updMem (fun m => { m with trained := decide (countPcs v (fun p => decide (p.phase = .start)) = 0) }))) ∧
     (p.phase ≠ .train → ¬ (p.phase = .start ∧ 1 ≤ s.fw.boot ∧ s.sys.recovery = false) → exec (.pcRetrainEnd pc ok) s = .next s))

/-- R346 to R352, Table 12.3. -/
def Obligations.BanksChangePowerStateAndOwner : Prop :=
  ∀ (s : State) (b : Fin 128),
    let k := s.bank b
    (k.trans = none ∨ (k.st = .on ∧ s.bankIdle b = false) → exec (.bankTransitionEnd b) s = .next s) ∧
    (∀ t z, k.trans = some (t, z) → ¬ (k.st = .on ∧ s.bankIdle b = false) →
      let u := ((s.bankContent b k.st t z).updBank b (fun k => { k with
        st := t, trans := none, wakes := if t = .on then sat 65535 (k.wakes + 1) else k.wakes })).endKind (fun j => decide (j = .bnkPower b false)) .ok 0
      let zeros := t = .off ∨ (k.st = .off ∧ (t = .hibernate ∨ z = true))
      let open_ := k.st = .off ∧ t = .on ∧ z = false
      let inBank := fun (a : Nat) => bankKey b 0 ≤ a ∧ a < bankKey b 0 + 2 ^ 20
      ∃ x, exec (.bankTransitionEnd b) s = .next x ∧ x = (if k.releasing then u.freeByState b else u.nextTransition b) ∧
        (∀ a, Memory.read x.sql.dram a = Memory.read s.sql.dram a) ∧
        (∀ a, ¬ inBank a → Memory.read x.bnk.ram a = Memory.read s.bnk.ram a) ∧
        (zeros → ∀ a, inBank a → Memory.read x.bnk.ram a = 0) ∧
        (open_ → ∀ i, i < 2 ^ 20 → Memory.read x.bnk.ram (bankKey b 0 + i) = Config.freeByte (s.fresh + i)) ∧
        (¬ zeros → ¬ open_ → x.bnk.ram = s.bnk.ram)) ∧
    (k.handover = none ∨ s.bankIdle b = false ∨ s.orphansFor b = true → exec (.handoverTake b) s = .next s) ∧
    (∀ n t, k.handover = some (n, t) → s.bankIdle b = true → s.orphansFor b = false →
      let u := (s.endKind (fun j => decide (j = .handover b)) .ok 0).updBank b (fun k => { k with handover := none })
      let v := u.setOwner b n
      (n = 0x7FF → exec (.handoverTake b) s = .next (u.releaseBank b)) ∧
      (n ≠ 0x7FF → exec (.handoverTake b) s = .next (if isDevice n = true ∧ (v.bank b).st ≠ .on ∧ (v.bank b).trans = none then
        v.updBank b (fun k => { k with trans := some (.on, false) }) else v))) ∧
    (k.handover = none ∨ s.findJob (fun j => decide (j = .handover b)) = none → exec (.handoverTimeout b) s = .next s) ∧
    (∀ n t j, k.handover = some (n, t) → s.findJob (fun j => decide (j = .handover b)) = some j →
      exec (.handoverTimeout b) s = .next ((((s.advanceTo (t + 160000000)).updBank b (fun k => { k with handover := none })).dropJobs
        (fun x => decide (x = j))).timeoutRun j.run 0))

/-- R362, R367, R370, R374 to R391. -/
def Obligations.InputsBlocksPulsesAndCellsTakeEffect : Prop :=
  ∀ (s : State) (i : Fin 16) (l : Fin 32) (rising level : Bool) (frac : BitVec 16),
    let x := s.input i
    let stamp := stampOf s.lc frac.toNat
    let dead := x.settling = true ∨ ∃ e, x.lastStamp = some e ∧ stamp < e + 131072
    let held := x.legacy = false ∧ stamp < x.holdUntil
    (s.power.pwrgd = false → exec (.inputEdge i rising frac) s = .next s) ∧
    (s.power.pwrgd = true → dead → exec (.inputEdge i rising frac) s = .next (s.updInput i (fun x => { x with dead := sat 65535 (x.dead + 1) }))) ∧
    (s.power.pwrgd = true → ¬ dead → held → exec (.inputEdge i rising frac) s = .next (s.updInput i (fun x => { x with heldOff := sat 65535 (x.heldOff + 1) }))) ∧
    (s.power.pwrgd = true → ¬ dead → ¬ held →
      let u := s.updInput i (fun x => { x with
        edges := sat (2 ^ 32 - 1) (x.edges + 1), level := rising, lastStamp := some stamp,
        holdUntil := if x.legacy then x.holdUntil else stamp + ceilDiv (x.holdoff * 1048576) 10 })
      let odd := Config.freeNat s.fresh % 2
      let at_ := if frac.toNat ≤ 1048 then s.lc + odd else if 64488 ≤ frac.toNat then s.lc - odd else s.lc
      let v := u.inputEvent i (if x.legacy = true ∧ x.slope = true then !rising else rising) s.lc at_ frac.toNat
      exec (.inputEdge i rising frac) s = .next { v with fresh := v.fresh + 1 }) ∧
    exec (.holdOffEnd i level) s = .next (s.updInput i (fun x => { x with level := level })) ∧
    (x.settling = false → exec (.tmuSettled i) s = .next s) ∧
    (x.settling = true → exec (.tmuSettled i) s = .next ((s.updInput i (fun x => { x with settling := false })).endKind
      (fun k => decide (k = .tmuConfig i)) .ok 0)) ∧
    exec (.tdcCalibration i) s = .next (s.updInput i (fun x => { x with tdcAt := s.lc })) ∧
    (let k := s.slot i
     let out := k.measure s.tbOff
     (k.st = 0 → exec (.tmuResult i) s = .next s ∧ exec (.tmuBlockTimeout i) s = .next s) ∧
     (∀ m tf rest, k.st ≠ 0 → out = (m, some tf, rest) →
       exec (.tmuResult i) s = .next (((s.registerBlock i m tf false).nextBlock i m tf false rest).endKind (fun j => decide (j = .tmuRun i)) .ok 0) ∧
       exec (.tmuBlockTimeout i) s = .next s) ∧
     (∀ m rest, k.st ≠ 0 → out = (m, none, rest) →
       let u := (s.registerBlock i m k.timeoutAt true).nextBlock i m k.timeoutAt true rest
       let js := u.jobs.filter (fun j => decide (j.kind = .tmuRun i))
       exec (.tmuResult i) s = .next s ∧
       exec (.tmuBlockTimeout i) s = .next (js.foldl (fun t j => t.timeoutRun j.run 0) (u.dropJobs (fun j => decide (j.kind = .tmuRun i)))))) ∧
    (let e := s.eo i
     (e.dues = [] → exec (.eoPulseStart i) s = .next s) ∧
     (∀ a r, e.dues = a :: r → exec (.eoPulseStart i) s = .next ((s.advanceTo (a + 6)).updEo i (fun e => { e with
       dues := r, high := true, endAt := some (a + 10), pulses := sat (2 ^ 24 - 1) (e.pulses + 1) }))) ∧
     (e.endAt = none → exec (.eoPulseEnd i) s = .next s) ∧
     (∀ t, e.endAt = some t → exec (.eoPulseEnd i) s = .next ((s.advanceTo t).updEo i (fun e => { e with high := false, endAt := none })))) ∧
    (let c := (s.cell l).upTo s.lc
     let d := c.look (c.w + 4)
     (d.dues = [] → exec (.lutCellFire l) s = .next s) ∧
     (∀ u r, d.dues = u :: r → exec (.lutCellFire l) s = .next
       (((s.advanceTo u).updCell l (fun _ => { d with dues := r, fires := sat (2 ^ 24 - 1) (d.fires + 1) })).fireSrc (srcIs 6 l) u)))

/-- R216, R222 to R226, R399 to R412, Tables 15.5 to 15.10. -/
def Obligations.AdaptationAndCalibrationBatchesCommit : Prop :=
  ∀ (s : State) (c : Fin 32) (small grown : Bool) (residual change : BitVec 16) (e : BatchEnd),
    let a := s.aoc c
    let learns := 4 ≤ a.windows ∧ a.pending ≠ 2 ∧ s.calfUp = true
    (¬ learns → exec (.adaptationUpdate c small grown residual change) s = .next s) ∧
    (learns →
      let ready := small = true ∧ a.lastSmall = true ∧ grown = false
      let u := s.updAoc c (fun a => { a with
        windows := a.windows - 4, updates := sat 65535 (a.updates + 1), residual := residual, change := change, lastSmall := small,
        pendSet := { trained := true, coeff := some ((List.range 104).map (fun i => Config.freeWord (s.fresh + i))) },
        pending := if ready then 1 else 0, readyAt := if ready then s.tb else a.readyAt })
      exec (.adaptationUpdate c small grown residual change) s = .next { u with fresh := u.fresh + 104 }) ∧
    (let auto := a.freeze = false ∧ a.pending = 1 ∧ s.calfUp = true
     let u := s.advanceTo (s.lcAt (up64 (BitVec.ofNat 64 (max (a.readyAt.toNat + 64) s.tb.toNat))))
     (¬ auto → exec (.autoCommit c) s = .next s) ∧
     (auto → exec (.autoCommit c) s = .next (u.updAoc c (fun a => { a with
       inForce := { a.pendSet with trained := true }, pendSet := { a.pendSet with trained := true }, pending := 0, last := u.tb,
       auto := sat 255 (a.auto + 1), autoAt := some (u.lc, a.auto) })))) ∧
    (s.cal.batch = none → exec (.calBatchEnd e) s = .next s ∧ exec .calCommit s = .next s) ∧
    (∀ b, s.cal.batch = some b →
      let open_ := b.vals = none ∧ (b.boot = true → 2 ≤ s.fw.boot) ∧ (b.kind = 3 → b.blob ≠ [])
      let u := s.selfTests b e
      (¬ open_ → exec (.calBatchEnd e) s = .next s) ∧
      let vs := ((if b.kind = 3 then b.blob else e.vals).filter (fun x => kindSets b.kind x.1 && !u.excluded x.1)).map (u.kindVal b.kind)
      let fails := fun (code inst range : BitVec 8) => e.failure = some (code, inst, range) ∧ runsCheck b.kind code.toNat = true
      (∀ code inst range, open_ → fails code inst range →
        exec (.calBatchEnd e) s = .next (u.rejectBatch (code.toNat + 256 * inst.toNat + 65536 * range.toNat))) ∧
      (∀ code, open_ → (∀ x y z, ¬ fails x y z) → b.kind ≠ 3 → valsFail b vs = some code →
        exec (.calBatchEnd e) s = .next (u.rejectBatch code)) ∧
      (open_ → (∀ x y z, ¬ fails x y z) → b.kind = 3 ∨ valsFail b vs = none →
        exec (.calBatchEnd e) s = .next (u.updCal (fun k => { k with batch := some { b with vals := some vs, ackAt := u.tb } }))) ∧
      (b.vals = none → exec .calCommit s = .next s) ∧
      (b.vals ≠ none → (∃ p ∈ [3, 4, 5, 6], (s.proc p).st = 1) → exec .calCommit s = .next s) ∧
      (∀ vs, b.vals = some vs → (∀ p ∈ [3, 4, 5, 6], (s.proc p).st ≠ 1) →
        let t0 := vs.foldl (fun t x => t.setVal x.1 x.2) (s.advanceTo (s.lcAt (up64 (b.ackAt + 64))))
        let t1 := if b.kind = 1 then t0.updCal (fun k => { k with declared := b.extref }) else t0
        let t2 := if b.boot = true then t1.updCal (fun k => { k with bootOk := true }) else t1
        let t3 := t2.closeBatch.noteCal b.kind
        let fit := b.tables.filter (fun x => t3.tableFits x)
        let t4 := (fit.foldl (fun t x => t.loadTable x) t3).updRec 3 (fun r => { r with wall := b.wall, result := BitVec.ofNat 24 fit.length })
        (b.kind ≠ 3 → exec .calCommit s = .next (t3.endKind (fun k => decide (k = .cal)) .ok 0)) ∧
        (b.kind = 3 → exec .calCommit s = .next (t4.endKind (fun k => decide (k = .calRestoreCommit)) .ok fit.length))))

/-- R424, R426 to R431, Tables 16.1 and 16.2. -/
def Obligations.WatchdogsRestartProcessors : Prop :=
  ∀ (s : State) (n : Fin 4) (p : Fin 8),
    let restart := fun (k : Nat) => s.updProc k (fun x => { x with st := 1, restarts := s.recentRestarts k ++ [s.lc] })
    let hold := fun (k : Nat) => s.updProc k (fun x => { x with st := 2 })
    let third := fun (k : Nat) => 2 ≤ (s.recentRestarts k).length
    let tells := fun (t : State) (cs : List Nat) (code unit : Nat) =>
      if cs = [] then t.fault code 2 .p none unit [] else cs.foldl (fun t c => t.fault code 2 .cAndP (some c) unit []) t
    (s.procRuns 0 = false → exec .mgmtWatchdog s = .next s) ∧
    (s.procRuns 0 = true →
      (third 0 → exec .mgmtWatchdog s = .next (((s.fault 0xA02 5 .p none 0 []).abandonPackets).enterRecovery 4)) ∧
      (¬ third 0 → exec .mgmtWatchdog s = .next (((restart 0).fault 0xA01 2 .p none 0 []).abandonPackets))) ∧
    (s.procRuns 1 = false ∨ s.mgmtUp = false → exec (.procHeartbeatLoss false) s = .next s) ∧
    (s.procRuns 1 = true → s.mgmtUp = true →
      (third 1 → exec (.procHeartbeatLoss false) s = .next ((((hold 1).fault 0xA04 5 .p none 1 []).abandonBatch 3).updCal (fun c => { c with bgRun := false }))) ∧
      (¬ third 1 → exec (.procHeartbeatLoss false) s = .next (((restart 1).fault 0xA03 2 .p none 1 []).abandonBatch 3))) ∧
    (s.procRuns 2 = false ∨ s.mgmtUp = false → exec (.procHeartbeatLoss true) s = .next s) ∧
    (s.procRuns 2 = true → s.mgmtUp = true →
      (third 2 → exec (.procHeartbeatLoss true) s = .next ((hold 2).fault 0xA04 5 .p none 2 [])) ∧
      (¬ third 2 → exec (.procHeartbeatLoss true) s = .next ((restart 2).fault 0xA03 2 .p none 2 []))) ∧
    (let k := 3 + n.val
     (s.procRuns k = false → exec (.ctrlWatchdog n.castSucc) s = .next s) ∧
     (s.procRuns k = true → third k → exec (.ctrlWatchdog n.castSucc) s = .next (((hold k).fault 0xA06 5 .p none k []).each (dieChannels n) (fun c t => t.failFch c))) ∧
     (s.procRuns k = true → ¬ third k → exec (.ctrlWatchdog n.castSucc) s = .next (tells (restart k) ((restart k).dieHolders n) 0xA05 k))) ∧
    (s.procRuns 7 = false → exec (.ctrlWatchdog 4) s = .next s) ∧
    (s.procRuns 7 = true →
      (third 7 → exec (.ctrlWatchdog 4) s = .next (((hold 7).fault 0xA0A 5 .p none 7 []).each (List.range 16) (fun k t => t.failPch k))) ∧
      (¬ third 7 → exec (.ctrlWatchdog 4) s = .next (tells (restart 7) ((restart 7).pchHolders.map (fun e => e.1)) 0xA09 7))) ∧
    (let ends := s.power.pwrgd = true ∧ (s.proc p).st = 1 ∧ s.sys.restarting = false ∧ s.sys.recovery = false
     (¬ ends → exec (.processorRestartEnd p) s = .next s) ∧
     (ends → p = 0 → 1 ≤ s.fw.boot → exec (.processorRestartEnd p) s = .next ((s.updProc 0 (fun x => { x with st := 0 })).resumeMgmt)) ∧
     (ends → p = 0 → s.fw.boot = 0 → exec (.processorRestartEnd p) s = .next s) ∧
     (ends → p ≠ 0 → s.fw.boot = 2 → s.mgmtUp = true → exec (.processorRestartEnd p) s = .next (s.updProc p (fun x => { x with st := 0 }))) ∧
     (ends → p ≠ 0 → ¬ (s.fw.boot = 2 ∧ s.mgmtUp = true) → exec (.processorRestartEnd p) s = .next s))

/-- R441 to R446, Tables 16.9 to 16.11. -/
def Obligations.TemperatureLevelsTripsAndTheColdPlate : Prop :=
  ∀ (s : State) (k : Fin 9) (v : BitVec 16) (l : Fin 4),
    (s.power.pwrgd = false → exec (.tempLevelChange k v l) s = .next s) ∧
    (s.power.pwrgd = true →
      let a := s.readSensor k v
      let old := (a.sensor k).level
      let taken := (a.sensor k).levelAt s.lc = l.val ∧ l.val ≠ old
      let u := a.updSensor k (fun x => ({ x with level := l, transitions := sat 65535 (x.transitions + (max old l - min old l)) } : Sensor).track v s.lc)
      let dev := u.tmp.level
      let new := u.topLevel
      let w : State := { u with tmp := { u.tmp with level := new } }
      let x := w.each ((List.range (new - dev)).map (fun i => dev + 1 + i)) (fun j t => t.enterLevel k v j)
      (¬ taken → exec (.tempLevelChange k v l) s = .next a) ∧
      (taken → new < dev → exec (.tempLevelChange k v l) s = .next
        (({ w with tmp := { w.tmp with events := orBits w.tmp.events 2 } } : State).fault 0xB04 0 .a none k (detT new v (levelThr dev - 768)))) ∧
      (taken → dev ≤ new → ¬ (dev < new ∧ new = 3) → exec (.tempLevelChange k v l) s = .next x) ∧
      (taken → dev < new → new = 3 → exec (.tempLevelChange k v l) s = .next (({ x with smb := { x.smb with otFault := true } } : State).shutdown 5 []))) ∧
    (s.power.phase ≠ .running → s.power.phase ≠ .starting → s.power.phase ≠ .pwrgdLow → exec (.tempTrip k) s = .next s) ∧
    (let r := s.mkRec 0xB05 0 .a none k s.tb (detT 4 (s.sensor k).reading 32000)
     let hot := fun (t : State) => ({ t with smb := { t.smb with otFault := true } } : State)
     (s.power.phase = .running → s.mgmtUp = true → exec (.tempTrip k) s = .next ((hot (s.logRec r)).shutdown 6 [])) ∧
     (s.power.phase = .running → s.mgmtUp = false → exec (.tempTrip k) s = .next ((hot s).shutdown 6 [{ r with previous := true }])) ∧
     (s.power.phase = .starting ∨ s.power.phase = .pwrgdLow → exec (.tempTrip k) s = .next { hot s with
       log := { s.log with mramRecs := s.log.mramRecs ++ [{ r with previous := true }] }
       power := { s.power with phase := .shutdown, pwrgd := false, downAt := s.lc, cause := 6 } })) ∧
    (s.power.pwrgd = false → ∀ high, exec (.coldplateHigh v high) s = .next s) ∧
    (s.power.pwrgd = true →
      let u := s.readSensor 9 v
      let long := ∃ t, u.tmp.faceSince = some t ∧ t + 1600000000 ≤ u.lc
      (long → u.tmp.coldRaised = false → exec (.coldplateHigh v true) s = .next (({ u with tmp := { u.tmp with
        events := orBits u.tmp.events 3, coldRaised := true, faceSince := none } } : State).fault 0xB06 0 .p none 9 (detT u.tmp.level v 11520))) ∧
      (long → u.tmp.coldRaised = true → exec (.coldplateHigh v false) s = .next { u with tmp := { u.tmp with coldRaised := false, faceSince := none } }) ∧
      (∀ high, ¬ long ∨ high = u.tmp.coldRaised → exec (.coldplateHigh v high) s = .next u))

/-- R375, R393, R399, R420, R447, Tables 3.5, 5.2, 8.3, 9.2: values the spec states. -/
def Obligations.ResetLeavesTheSpecsValues : Prop :=
  let s := State.reset
  (s.clk.locked = false ∧ s.clk.laneDco = false ∧ s.clk.tbState = .unset ∧ s.tb = 0 ∧ s.lc = 0) ∧
  (∀ c, (s.ctx c).st = .free ∧ (s.ctx c).gen = 0) ∧ (∀ k, (s.seg k).used = false) ∧
  (∀ c, (s.fch c).st = .muted ∧ (s.fch c).owner = none) ∧ (∀ n, (s.pch n).st = .disabled ∧ (s.pch n).owner = none) ∧
  (∀ g, (s.group g).owner = none) ∧ (∀ k, (s.ev k).source = 0 ∧ (s.ev k).cons = [] ∧ (s.ev k).owner = none) ∧
  (∀ i, (s.input i).legacy = false ∧ (s.input i).hyst = 50 ∧ (s.input i).holdoff = 1) ∧
  (∀ k, (s.slot k).st = 0) ∧
  (∀ c, (s.aoc c).freeze = false ∧ (s.aoc c).pending = 0 ∧ (s.aoc c).inForce.trained = false) ∧
  s.cal.wall = 0 ∧ s.log.recs = [] ∧ s.log.next = 0 ∧ s.log.hold = [] ∧
  s.pending = [] ∧ s.waiting = [] ∧ s.sched = [] ∧ s.jobs = [] ∧ s.held = []

/-- R54. -/
def Obligations.OnlyPf0SendsClockPackets : Prop :=
  ∀ (c : Instr) (op : Op) (p : Pkt) (s : State),
    packetOf c = some (op, p) → s.power.pwrgd = true → s.mgmtUp = true → blocked (newRun op p s) s.seen = false →
    formCheck op p s.tb = none → s.sys.recovery = false →
    let turned := fun (st : Status) => ∃ t, exec c s = .next t ∧ t.held = s.held ++ [finalOf op p st 0 s.seen] ∧
      t.clk = s.clk ∧ t.tb = s.tb ∧ t.sched = s.sched
    (op = .clkConfig ∨ op = .clkStep ∨ op = .clkSync ∨ op = .timeSet →
      (p.fn ≠ 0 → s.sys.ready = true → turned .notOwner) ∧ (p.fn = 0 → permCheck op p s.seen = none)) ∧
    (op = .clkConfig → s.sys.ready = false → turned .busy)

/-- R378; 1.25 ns are 2 lane cycles of 625 ps. -/
def Obligations.StampedEdgesStartADeadTime : Prop :=
  ∀ (s : State) (i : Fin 16) (rising : Bool) (frac : BitVec 16), (s.input i).settling = false → s.power.pwrgd = true →
    let x := s.input i
    let stamp := stampOf s.lc frac.toNat
    let dead := ∃ e, x.lastStamp = some e ∧ stamp < e + 131072
    let held := x.legacy = false ∧ stamp < x.holdUntil
    (dead → exec (.inputEdge i rising frac) s = .next (s.updInput i (fun x => { x with dead := sat 65535 (x.dead + 1) }))) ∧
    (¬ dead → held → exec (.inputEdge i rising frac) s = .next (s.updInput i (fun x => { x with heldOff := sat 65535 (x.heldOff + 1) }))) ∧
    (¬ dead → ¬ held → ∃ t, exec (.inputEdge i rising frac) s = .next t ∧ (t.input i).lastStamp = some stamp ∧
      (t.input i).edges = sat (2 ^ 32 - 1) (x.edges + 1) ∧ (t.input i).dead = x.dead)

/-- R446. -/
def Obligations.ColdPlateIsReportedOnce : Prop :=
  ∀ (s : State) (v : BitVec 16), s.power.pwrgd = true →
    let raise := fun (t : State) => t.fault 0xB06 0 .p none 9 (detT t.tmp.level v 11520)
    let levels := fun (t : State) => t.tmp.level = s.tmp.level ∧ ∀ k, (t.sensor k).level = (s.sensor k).level
    let second := ∃ t, s.tmp.faceSince = some t ∧ t + 1600000000 ≤ s.lc
    let towards := if s.tmp.coldRaised then v.toInt ≤ 256 * 43 else 256 * 45 < v.toInt
    (s.tmp.coldRaised = false → towards → second → ∃ t, exec (.coldplateHigh v true) s = .next (raise t) ∧
      (raise t).tmp.coldRaised = true ∧ t.log = s.log ∧ levels (raise t)) ∧
    (s.tmp.coldRaised = true → ∃ t, exec (.coldplateHigh v true) s = .next t ∧ t.log = s.log ∧ t.tmp.coldRaised = true ∧ levels t) ∧
    (s.tmp.coldRaised = true → towards → second → ∃ t, exec (.coldplateHigh v false) s = .next t ∧ t.log = s.log ∧ t.tmp.coldRaised = false ∧ levels t) ∧
    (∀ high, ¬ (towards ∧ second) → ∃ t, exec (.coldplateHigh v high) s = .next t ∧ t.log = s.log ∧ t.tmp.coldRaised = s.tmp.coldRaised ∧ levels t)

/-- R363. -/
def Obligations.SameCycleEventsCoalesce : Prop :=
  ∀ (s : State) (k u : Nat) (a b : Option Nat) (q : BitVec 16 → Bool) (fn : Fin 64) (v : W32),
    (let t := s.register k u a
     ((s.ev k).lastAt ≠ some u → t.regs = s.regs ++ [{ ch := k, u := u, stamp := a }] ∧ (t.ev k).coalesced = (s.ev k).coalesced) ∧
     t.register k u b = t.updEv k (fun e => { e with coalesced := sat 255 (e.coalesced + 1) })) ∧
    ((s.fireSrc q u).each (s.sourced q) (fun k t => t.register k u none)).regs = (s.fireSrc q u).regs ∧
    (let c := bits v 0 8
     s.fnLive fn = true → s.heldByFn fn (s.ev c).owner = true → (s.ev c).source = softSource →
      ∃ t, exec (.sysFnFire fn v) s = .next t ∧ t = s.register c s.lc none ∧
        exec (.sysFnFire fn v) t = .next (t.updEv c (fun e => { e with coalesced := sat 255 (e.coalesced + 1) })))
end

