-- ==== Sys2Proof/Laws/Table.lean ====
section
/-! SUPPORT. Sparse tables: a read after a write, and that every table operation keeps the canonical form. -/
namespace Sys2Proof.Machine

variable {α : Type} {d v : α} {t : Tbl α} {lo k j n : Nat}

theorem Tbl.get_put_self : Tbl.get d (Tbl.put t k v) k = v := by
  induction t with
  | nil => simp [Tbl.put, Tbl.get]
  | cons e t ih =>
    unfold Tbl.put
    split
    · simp [Tbl.get]
    · next hne => split <;> simp [Tbl.get, hne, ih]

theorem Tbl.get_put_ne (hjk : j ≠ k) : Tbl.get d (Tbl.put t k v) j = Tbl.get d t j := by
  induction t with
  | nil => simp [Tbl.put, Tbl.get, hjk]
  | cons e t ih =>
    unfold Tbl.put
    split
    · next hk => subst hk; simp [Tbl.get, hjk]
    · split <;> simp [Tbl.get, hjk, ih]

theorem Tbl.get_erase_self : Tbl.get d (t.filter (fun e => !decide (e.1 = k))) k = d := by
  induction t with
  | nil => rfl
  | cons e t ih =>
    rw [List.filter_cons]
    split
    · next h => have hne : k ≠ e.1 := fun h' => by simp [h'] at h
                simp [Tbl.get, hne, ih]
    · exact ih

theorem Tbl.get_erase_ne (hjk : j ≠ k) : Tbl.get d (t.filter (fun e => !decide (e.1 = k))) j = Tbl.get d t j := by
  induction t with
  | nil => rfl
  | cons e t ih =>
    rw [List.filter_cons]
    split
    · simp [Tbl.get, ih]
    · next h => have he : e.1 = k := by simpa using h
                simp [Tbl.get, he, hjk, ih]

variable [DecidableEq α]

/-- A read after a write to the same key gives the value written. -/
@[simp] theorem Tbl.get_set_self : Tbl.get d (Tbl.set d t k v) k = v := by
  unfold Tbl.set
  split
  · next h => rw [h, Tbl.get_erase_self]
  · exact Tbl.get_put_self

/-- A write leaves every other key alone. -/
theorem Tbl.get_set_ne (hjk : j ≠ k) : Tbl.get d (Tbl.set d t k v) j = Tbl.get d t j := by
  unfold Tbl.set
  split
  · exact Tbl.get_erase_ne hjk
  · exact Tbl.get_put_ne hjk

/-- Reading any key after a write. -/
theorem Tbl.get_set : Tbl.get d (Tbl.set d t k v) j = if j = k then v else Tbl.get d t j := by
  by_cases h : j = k
  · simp [h]
  · simp [h, Tbl.get_set_ne h]

theorem Tbl.wfFrom_mono {lo' : Nat} (h : Tbl.wfFrom d lo t = true) (hl : lo' ≤ lo) : Tbl.wfFrom d lo' t = true := by
  cases t with
  | nil => rfl
  | cons e t =>
    simp only [Tbl.wfFrom, Bool.and_eq_true, decide_eq_true_eq] at h ⊢
    exact ⟨⟨by omega, h.1.2⟩, h.2⟩

theorem Tbl.wfFrom_put (h : Tbl.wfFrom d lo t = true) (hk : lo ≤ k) (hv : v ≠ d) : Tbl.wfFrom d lo (Tbl.put t k v) = true := by
  induction t generalizing lo with
  | nil => simp [Tbl.put, Tbl.wfFrom, hv, hk]
  | cons e t ih =>
    obtain ⟨j, w⟩ := e
    simp only [Tbl.wfFrom, Bool.and_eq_true, decide_eq_true_eq, Bool.not_eq_true', decide_eq_false_iff_not] at h
    obtain ⟨⟨hj, hw⟩, ht⟩ := h
    unfold Tbl.put
    split
    · next hkj => subst hkj; simp [Tbl.wfFrom, hv, ht, hj]
    · split
      · next hlt => simp [Tbl.wfFrom, hv, hw, ht, hk]; omega
      · next hne hlt => simp [Tbl.wfFrom, hw, hj, ih ht (by omega)]

theorem Tbl.wfFrom_filter {p : Nat × α → Bool} (h : Tbl.wfFrom d lo t = true) : Tbl.wfFrom d lo (t.filter p) = true := by
  induction t generalizing lo with
  | nil => rfl
  | cons e t ih =>
    obtain ⟨j, w⟩ := e
    simp only [Tbl.wfFrom, Bool.and_eq_true, decide_eq_true_eq] at h
    rw [List.filter_cons]
    split
    · simp only [Tbl.wfFrom, Bool.and_eq_true, decide_eq_true_eq]
      exact ⟨h.1, ih h.2⟩
    · exact Tbl.wfFrom_mono (ih h.2) (by omega)

/-- Writing keeps the canonical form. -/
theorem Tbl.wf_set (h : Tbl.wf d t = true) : Tbl.wf d (Tbl.set d t k v) = true := by
  unfold Tbl.set
  split
  · exact Tbl.wfFrom_filter h
  · next hv => exact Tbl.wfFrom_put h (Nat.zero_le k) hv

/-- Writing a run keeps the canonical form. -/
theorem Tbl.wf_setMany {vs : List α} (h : Tbl.wf d t = true) : Tbl.wf d (Tbl.setMany d t k vs) = true := by
  induction vs generalizing t k with
  | nil => exact h
  | cons v vs ih => exact ih (Tbl.wf_set h)

/-- Clearing a range keeps the canonical form. -/
theorem Tbl.wf_clear (h : Tbl.wf d t = true) : Tbl.wf d (Tbl.clear t k n) = true := Tbl.wfFrom_filter h

theorem Tbl.wfFrom_mapVals {f : Nat → α → α} (h : Tbl.wfFrom d lo t = true) : Tbl.wfFrom d lo (Tbl.mapVals d f t) = true := by
  induction t generalizing lo with
  | nil => rfl
  | cons e t ih =>
    obtain ⟨j, w⟩ := e
    simp only [Tbl.wfFrom, Bool.and_eq_true, decide_eq_true_eq, Bool.not_eq_true', decide_eq_false_iff_not] at h
    unfold Tbl.mapVals
    split
    · exact Tbl.wfFrom_mono (ih h.2) (by omega)
    · next hv => simp [Tbl.wfFrom, hv, h.1.1, ih h.2]

/-- What a mapped table holds where neither the entry nor its image is the default. -/
theorem Tbl.get_mapVals {f : Nat → α → α} (h : Tbl.get d t k ≠ d) (hf : f k (Tbl.get d t k) ≠ d) :
    Tbl.get d (Tbl.mapVals d f t) k = f k (Tbl.get d t k) := by
  induction t with
  | nil => exact absurd rfl h
  | cons e t ih =>
    obtain ⟨j, w⟩ := e
    by_cases hj : k = j
    · subst hj
      simp only [Tbl.get, if_true] at h hf ⊢
      simp [Tbl.mapVals, hf, Tbl.get]
    · simp only [Tbl.get, if_neg hj] at h hf ⊢
      unfold Tbl.mapVals
      split
      · exact ih h hf
      · simp only [Tbl.get, if_neg hj]; exact ih h hf

/-- Mapping keeps the canonical form. -/
theorem Tbl.wf_mapVals {f : Nat → α → α} (h : Tbl.wf d t = true) : Tbl.wf d (Tbl.mapVals d f t) = true := Tbl.wfFrom_mapVals h

/-- A read after a run of writes. -/
theorem Tbl.get_setMany {vs : List α} (i : Nat) :
    Tbl.get d (Tbl.setMany d t k vs) i = if k ≤ i ∧ i < k + vs.length then vs.getD (i - k) d else Tbl.get d t i := by
  induction vs generalizing t k with
  | nil => simp [Tbl.setMany]
  | cons v vs ih =>
    rw [Tbl.setMany, ih, Tbl.get_set]
    by_cases h : i = k
    · subst h; simp
    · by_cases h1 : k + 1 ≤ i ∧ i < k + 1 + vs.length
      · have h2 : k ≤ i ∧ i < k + (v :: vs).length := by simp only [List.length_cons]; omega
        obtain ⟨m, hm⟩ : ∃ m, i - k = m + 1 := ⟨i - k - 1, by omega⟩
        have hm' : i - (k + 1) = m := by omega
        rw [if_pos h1, if_pos h2, hm, hm']; simp
      · have h2 : ¬(k ≤ i ∧ i < k + (v :: vs).length) := by simp only [List.length_cons]; omega
        rw [if_neg h1, if_neg h2, if_neg h]

omit [DecidableEq α] in
/-- A read after a range of keys has been cleared. -/
theorem Tbl.get_clear {n : Nat} (i : Nat) :
    Tbl.get d (Tbl.clear t k n) i = if k ≤ i ∧ i < k + n then d else Tbl.get d t i := by
  unfold Tbl.clear
  induction t with
  | nil => simp [Tbl.get]
  | cons e t ih =>
    rw [List.filter_cons]
    by_cases he : i = e.1
    · by_cases h : k ≤ i ∧ i < k + n
      · rw [if_neg (by simp; omega), ih]; simp [h]
      · rw [if_pos (by simp; omega)]; simp [Tbl.get, he]; intro h1 h2; omega
    · split <;> simp [Tbl.get, he, ih]

end Sys2Proof.Machine
end

