-- ==== Sys2Proof/Laws/State.lean ====
section
/-! SUPPORT. What each update of the state leaves unchanged, field by field and array by array, and what it writes. True by
rfl or by the laws of Tables; tagged simp, so that no later proof unfolds a record update. -/
namespace Sys2Proof.Machine

variable (s : State)

@[simp] theorem State.updFn_fields (f : Nat) (g : FnWin → FnWin) :
    (s.updFn f g).pending = s.pending ∧ (s.updFn f g).fresh = s.fresh ∧ (s.updFn f g).lc = s.lc ∧ (s.updFn f g).tb = s.tb ∧
    (s.updFn f g).power = s.power ∧ (s.updFn f g).smb = s.smb ∧ (s.updFn f g).out = s.out ∧ (s.updFn f g).sys = s.sys ∧
    (s.updFn f g).jobs = s.jobs ∧ (s.updFn f g).sched = s.sched ∧ (s.updFn f g).actAt = s.actAt ∧
    (s.updFn f g).waiting = s.waiting ∧ (s.updFn f g).held = s.held ∧ (s.updFn f g).seq = s.seq ∧ (s.updFn f g).clk = s.clk ∧
    (s.updFn f g).lockmon = s.lockmon ∧ (s.updFn f g).ctxs = s.ctxs ∧ (s.updFn f g).ctxSel = s.ctxSel ∧
    (s.updFn f g).engines = s.engines ∧ (s.updFn f g).allocPtr = s.allocPtr ∧ (s.updFn f g).allocLast = s.allocLast ∧
    (s.updFn f g).segs = s.segs ∧ (s.updFn f g).segFree = s.segFree ∧ (s.updFn f g).scenes = s.scenes ∧
    (s.updFn f g).markers = s.markers ∧ (s.updFn f g).divAt = s.divAt ∧ (s.updFn f g).voices = s.voices ∧
    (s.updFn f g).summers = s.summers ∧ (s.updFn f g).conv = s.conv ∧ (s.updFn f g).fchs = s.fchs ∧
    (s.updFn f g).clrCount = s.clrCount ∧ (s.updFn f g).pchs = s.pchs ∧ (s.updFn f g).groups = s.groups ∧
    (s.updFn f g).precLinkDown = s.precLinkDown ∧ (s.updFn f g).linkDown = s.linkDown ∧ (s.updFn f g).sql = s.sql ∧
    (s.updFn f g).mem = s.mem ∧ (s.updFn f g).banks = s.banks ∧ (s.updFn f g).bnk = s.bnk ∧ (s.updFn f g).evch = s.evch ∧
    (s.updFn f g).cons = s.cons ∧ (s.updFn f g).eos = s.eos ∧ (s.updFn f g).cells = s.cells ∧ (s.updFn f g).regs = s.regs ∧
    (s.updFn f g).slots = s.slots ∧ (s.updFn f g).inputs = s.inputs ∧ (s.updFn f g).mon = s.mon ∧ (s.updFn f g).aocs = s.aocs ∧
    (s.updFn f g).cal = s.cal ∧ (s.updFn f g).log = s.log ∧ (s.updFn f g).procs = s.procs ∧ (s.updFn f g).tmp = s.tmp ∧
    (s.updFn f g).fw = s.fw := by
  repeat' apply And.intro
  all_goals rfl

@[simp] theorem State.updFn_others (f : Nat) (g : FnWin → FnWin) (x : Nat) :
    (s.updFn f g).ctx x = s.ctx x ∧ (s.updFn f g).eng x = s.eng x ∧ (s.updFn f g).seg x = s.seg x ∧
    (s.updFn f g).scene x = s.scene x ∧ (s.updFn f g).marker x = s.marker x ∧ (s.updFn f g).voice x = s.voice x ∧
    (s.updFn f g).summer x = s.summer x ∧ (s.updFn f g).fch x = s.fch x ∧ (s.updFn f g).pch x = s.pch x ∧
    (s.updFn f g).group x = s.group x ∧ (s.updFn f g).bank x = s.bank x ∧ (s.updFn f g).ev x = s.ev x ∧
    (s.updFn f g).con x = s.con x ∧ (s.updFn f g).eo x = s.eo x ∧ (s.updFn f g).cell x = s.cell x ∧
    (s.updFn f g).slot x = s.slot x ∧ (s.updFn f g).input x = s.input x ∧ (s.updFn f g).aoc x = s.aoc x ∧
    (s.updFn f g).proc x = s.proc x ∧ (s.updFn f g).pc x = s.pc x ∧ (s.updFn f g).sensor x = s.sensor x ∧
    (s.updFn f g).rec_ x = s.rec_ x := by
  repeat' apply And.intro
  all_goals rfl

/-- The updated instance, and every other. -/
@[simp] theorem State.updFn_fnWin (f : Nat) (g : FnWin → FnWin) (x : Nat) :
    (s.updFn f g).fnWin x = if x = f then g (s.fnWin f) else s.fnWin x := Tbl.get_set

@[simp] theorem State.updCtx_fields (c : Nat) (g : Ctx → Ctx) :
    (s.updCtx c g).pending = s.pending ∧ (s.updCtx c g).fresh = s.fresh ∧ (s.updCtx c g).lc = s.lc ∧ (s.updCtx c g).tb = s.tb ∧
    (s.updCtx c g).power = s.power ∧ (s.updCtx c g).smb = s.smb ∧ (s.updCtx c g).out = s.out ∧ (s.updCtx c g).fns = s.fns ∧
    (s.updCtx c g).sys = s.sys ∧ (s.updCtx c g).jobs = s.jobs ∧ (s.updCtx c g).sched = s.sched ∧ (s.updCtx c g).actAt = s.actAt ∧
    (s.updCtx c g).waiting = s.waiting ∧ (s.updCtx c g).held = s.held ∧ (s.updCtx c g).seq = s.seq ∧ (s.updCtx c g).clk = s.clk ∧
    (s.updCtx c g).lockmon = s.lockmon ∧ (s.updCtx c g).ctxSel = s.ctxSel ∧ (s.updCtx c g).engines = s.engines ∧
    (s.updCtx c g).allocPtr = s.allocPtr ∧ (s.updCtx c g).allocLast = s.allocLast ∧ (s.updCtx c g).segs = s.segs ∧
    (s.updCtx c g).segFree = s.segFree ∧ (s.updCtx c g).scenes = s.scenes ∧ (s.updCtx c g).markers = s.markers ∧
    (s.updCtx c g).divAt = s.divAt ∧ (s.updCtx c g).voices = s.voices ∧ (s.updCtx c g).summers = s.summers ∧
    (s.updCtx c g).conv = s.conv ∧ (s.updCtx c g).fchs = s.fchs ∧ (s.updCtx c g).clrCount = s.clrCount ∧
    (s.updCtx c g).pchs = s.pchs ∧ (s.updCtx c g).groups = s.groups ∧ (s.updCtx c g).precLinkDown = s.precLinkDown ∧
    (s.updCtx c g).linkDown = s.linkDown ∧ (s.updCtx c g).sql = s.sql ∧ (s.updCtx c g).mem = s.mem ∧
    (s.updCtx c g).banks = s.banks ∧ (s.updCtx c g).bnk = s.bnk ∧ (s.updCtx c g).evch = s.evch ∧ (s.updCtx c g).cons = s.cons ∧
    (s.updCtx c g).eos = s.eos ∧ (s.updCtx c g).cells = s.cells ∧ (s.updCtx c g).regs = s.regs ∧ (s.updCtx c g).slots = s.slots ∧
    (s.updCtx c g).inputs = s.inputs ∧ (s.updCtx c g).mon = s.mon ∧ (s.updCtx c g).aocs = s.aocs ∧ (s.updCtx c g).cal = s.cal ∧
    (s.updCtx c g).log = s.log ∧ (s.updCtx c g).procs = s.procs ∧ (s.updCtx c g).tmp = s.tmp ∧ (s.updCtx c g).fw = s.fw := by
  repeat' apply And.intro
  all_goals rfl

@[simp] theorem State.updCtx_others (c : Nat) (g : Ctx → Ctx) (x : Nat) :
    (s.updCtx c g).fnWin x = s.fnWin x ∧ (s.updCtx c g).eng x = s.eng x ∧ (s.updCtx c g).seg x = s.seg x ∧
    (s.updCtx c g).scene x = s.scene x ∧ (s.updCtx c g).marker x = s.marker x ∧ (s.updCtx c g).voice x = s.voice x ∧
    (s.updCtx c g).summer x = s.summer x ∧ (s.updCtx c g).fch x = s.fch x ∧ (s.updCtx c g).pch x = s.pch x ∧
    (s.updCtx c g).group x = s.group x ∧ (s.updCtx c g).bank x = s.bank x ∧ (s.updCtx c g).ev x = s.ev x ∧
    (s.updCtx c g).con x = s.con x ∧ (s.updCtx c g).eo x = s.eo x ∧ (s.updCtx c g).cell x = s.cell x ∧
    (s.updCtx c g).slot x = s.slot x ∧ (s.updCtx c g).input x = s.input x ∧ (s.updCtx c g).aoc x = s.aoc x ∧
    (s.updCtx c g).proc x = s.proc x ∧ (s.updCtx c g).pc x = s.pc x ∧ (s.updCtx c g).sensor x = s.sensor x ∧
    (s.updCtx c g).rec_ x = s.rec_ x := by
  repeat' apply And.intro
  all_goals rfl

/-- The updated instance, and every other. -/
@[simp] theorem State.updCtx_ctx (c : Nat) (g : Ctx → Ctx) (x : Nat) :
    (s.updCtx c g).ctx x = if x = c then g (s.ctx c) else s.ctx x := Tbl.get_set

@[simp] theorem State.updEng_fields (e : Nat) (g : Engine → Engine) :
    (s.updEng e g).pending = s.pending ∧ (s.updEng e g).fresh = s.fresh ∧ (s.updEng e g).lc = s.lc ∧ (s.updEng e g).tb = s.tb ∧
    (s.updEng e g).power = s.power ∧ (s.updEng e g).smb = s.smb ∧ (s.updEng e g).out = s.out ∧ (s.updEng e g).fns = s.fns ∧
    (s.updEng e g).sys = s.sys ∧ (s.updEng e g).jobs = s.jobs ∧ (s.updEng e g).sched = s.sched ∧ (s.updEng e g).actAt = s.actAt ∧
    (s.updEng e g).waiting = s.waiting ∧ (s.updEng e g).held = s.held ∧ (s.updEng e g).seq = s.seq ∧ (s.updEng e g).clk = s.clk ∧
    (s.updEng e g).lockmon = s.lockmon ∧ (s.updEng e g).ctxs = s.ctxs ∧ (s.updEng e g).ctxSel = s.ctxSel ∧
    (s.updEng e g).allocPtr = s.allocPtr ∧ (s.updEng e g).allocLast = s.allocLast ∧ (s.updEng e g).segs = s.segs ∧
    (s.updEng e g).segFree = s.segFree ∧ (s.updEng e g).scenes = s.scenes ∧ (s.updEng e g).markers = s.markers ∧
    (s.updEng e g).divAt = s.divAt ∧ (s.updEng e g).voices = s.voices ∧ (s.updEng e g).summers = s.summers ∧
    (s.updEng e g).conv = s.conv ∧ (s.updEng e g).fchs = s.fchs ∧ (s.updEng e g).clrCount = s.clrCount ∧
    (s.updEng e g).pchs = s.pchs ∧ (s.updEng e g).groups = s.groups ∧ (s.updEng e g).precLinkDown = s.precLinkDown ∧
    (s.updEng e g).linkDown = s.linkDown ∧ (s.updEng e g).sql = s.sql ∧ (s.updEng e g).mem = s.mem ∧
    (s.updEng e g).banks = s.banks ∧ (s.updEng e g).bnk = s.bnk ∧ (s.updEng e g).evch = s.evch ∧ (s.updEng e g).cons = s.cons ∧
    (s.updEng e g).eos = s.eos ∧ (s.updEng e g).cells = s.cells ∧ (s.updEng e g).regs = s.regs ∧ (s.updEng e g).slots = s.slots ∧
    (s.updEng e g).inputs = s.inputs ∧ (s.updEng e g).mon = s.mon ∧ (s.updEng e g).aocs = s.aocs ∧ (s.updEng e g).cal = s.cal ∧
    (s.updEng e g).log = s.log ∧ (s.updEng e g).procs = s.procs ∧ (s.updEng e g).tmp = s.tmp ∧ (s.updEng e g).fw = s.fw := by
  repeat' apply And.intro
  all_goals rfl

@[simp] theorem State.updEng_others (e : Nat) (g : Engine → Engine) (x : Nat) :
    (s.updEng e g).fnWin x = s.fnWin x ∧ (s.updEng e g).ctx x = s.ctx x ∧ (s.updEng e g).seg x = s.seg x ∧
    (s.updEng e g).scene x = s.scene x ∧ (s.updEng e g).marker x = s.marker x ∧ (s.updEng e g).voice x = s.voice x ∧
    (s.updEng e g).summer x = s.summer x ∧ (s.updEng e g).fch x = s.fch x ∧ (s.updEng e g).pch x = s.pch x ∧
    (s.updEng e g).group x = s.group x ∧ (s.updEng e g).bank x = s.bank x ∧ (s.updEng e g).ev x = s.ev x ∧
    (s.updEng e g).con x = s.con x ∧ (s.updEng e g).eo x = s.eo x ∧ (s.updEng e g).cell x = s.cell x ∧
    (s.updEng e g).slot x = s.slot x ∧ (s.updEng e g).input x = s.input x ∧ (s.updEng e g).aoc x = s.aoc x ∧
    (s.updEng e g).proc x = s.proc x ∧ (s.updEng e g).pc x = s.pc x ∧ (s.updEng e g).sensor x = s.sensor x ∧
    (s.updEng e g).rec_ x = s.rec_ x := by
  repeat' apply And.intro
  all_goals rfl

/-- The updated instance, and every other. -/
@[simp] theorem State.updEng_eng (e : Nat) (g : Engine → Engine) (x : Nat) :
    (s.updEng e g).eng x = if x = e then g (s.eng e) else s.eng x := Tbl.get_set

@[simp] theorem State.updSeg_fields (k : Nat) (g : Seg → Seg) :
    (s.updSeg k g).pending = s.pending ∧ (s.updSeg k g).fresh = s.fresh ∧ (s.updSeg k g).lc = s.lc ∧ (s.updSeg k g).tb = s.tb ∧
    (s.updSeg k g).power = s.power ∧ (s.updSeg k g).smb = s.smb ∧ (s.updSeg k g).out = s.out ∧ (s.updSeg k g).fns = s.fns ∧
    (s.updSeg k g).sys = s.sys ∧ (s.updSeg k g).jobs = s.jobs ∧ (s.updSeg k g).sched = s.sched ∧ (s.updSeg k g).actAt = s.actAt ∧
    (s.updSeg k g).waiting = s.waiting ∧ (s.updSeg k g).held = s.held ∧ (s.updSeg k g).seq = s.seq ∧ (s.updSeg k g).clk = s.clk ∧
    (s.updSeg k g).lockmon = s.lockmon ∧ (s.updSeg k g).ctxs = s.ctxs ∧ (s.updSeg k g).ctxSel = s.ctxSel ∧
    (s.updSeg k g).engines = s.engines ∧ (s.updSeg k g).allocPtr = s.allocPtr ∧ (s.updSeg k g).allocLast = s.allocLast ∧
    (s.updSeg k g).segFree = s.segFree ∧ (s.updSeg k g).scenes = s.scenes ∧ (s.updSeg k g).markers = s.markers ∧
    (s.updSeg k g).divAt = s.divAt ∧ (s.updSeg k g).voices = s.voices ∧ (s.updSeg k g).summers = s.summers ∧
    (s.updSeg k g).conv = s.conv ∧ (s.updSeg k g).fchs = s.fchs ∧ (s.updSeg k g).clrCount = s.clrCount ∧
    (s.updSeg k g).pchs = s.pchs ∧ (s.updSeg k g).groups = s.groups ∧ (s.updSeg k g).precLinkDown = s.precLinkDown ∧
    (s.updSeg k g).linkDown = s.linkDown ∧ (s.updSeg k g).sql = s.sql ∧ (s.updSeg k g).mem = s.mem ∧
    (s.updSeg k g).banks = s.banks ∧ (s.updSeg k g).bnk = s.bnk ∧ (s.updSeg k g).evch = s.evch ∧ (s.updSeg k g).cons = s.cons ∧
    (s.updSeg k g).eos = s.eos ∧ (s.updSeg k g).cells = s.cells ∧ (s.updSeg k g).regs = s.regs ∧ (s.updSeg k g).slots = s.slots ∧
    (s.updSeg k g).inputs = s.inputs ∧ (s.updSeg k g).mon = s.mon ∧ (s.updSeg k g).aocs = s.aocs ∧ (s.updSeg k g).cal = s.cal ∧
    (s.updSeg k g).log = s.log ∧ (s.updSeg k g).procs = s.procs ∧ (s.updSeg k g).tmp = s.tmp ∧ (s.updSeg k g).fw = s.fw := by
  repeat' apply And.intro
  all_goals rfl

@[simp] theorem State.updSeg_others (k : Nat) (g : Seg → Seg) (x : Nat) :
    (s.updSeg k g).fnWin x = s.fnWin x ∧ (s.updSeg k g).ctx x = s.ctx x ∧ (s.updSeg k g).eng x = s.eng x ∧
    (s.updSeg k g).scene x = s.scene x ∧ (s.updSeg k g).marker x = s.marker x ∧ (s.updSeg k g).voice x = s.voice x ∧
    (s.updSeg k g).summer x = s.summer x ∧ (s.updSeg k g).fch x = s.fch x ∧ (s.updSeg k g).pch x = s.pch x ∧
    (s.updSeg k g).group x = s.group x ∧ (s.updSeg k g).bank x = s.bank x ∧ (s.updSeg k g).ev x = s.ev x ∧
    (s.updSeg k g).con x = s.con x ∧ (s.updSeg k g).eo x = s.eo x ∧ (s.updSeg k g).cell x = s.cell x ∧
    (s.updSeg k g).slot x = s.slot x ∧ (s.updSeg k g).input x = s.input x ∧ (s.updSeg k g).aoc x = s.aoc x ∧
    (s.updSeg k g).proc x = s.proc x ∧ (s.updSeg k g).pc x = s.pc x ∧ (s.updSeg k g).sensor x = s.sensor x ∧
    (s.updSeg k g).rec_ x = s.rec_ x := by
  repeat' apply And.intro
  all_goals rfl

/-- The updated instance, and every other. -/
@[simp] theorem State.updSeg_seg (k : Nat) (g : Seg → Seg) (x : Nat) :
    (s.updSeg k g).seg x = if x = k then g (s.seg k) else s.seg x := Tbl.get_set

@[simp] theorem State.updScene_fields (k : Nat) (g : Scene → Scene) :
    (s.updScene k g).pending = s.pending ∧ (s.updScene k g).fresh = s.fresh ∧ (s.updScene k g).lc = s.lc ∧
    (s.updScene k g).tb = s.tb ∧ (s.updScene k g).power = s.power ∧ (s.updScene k g).smb = s.smb ∧ (s.updScene k g).out = s.out ∧
    (s.updScene k g).fns = s.fns ∧ (s.updScene k g).sys = s.sys ∧ (s.updScene k g).jobs = s.jobs ∧
    (s.updScene k g).sched = s.sched ∧ (s.updScene k g).actAt = s.actAt ∧ (s.updScene k g).waiting = s.waiting ∧
    (s.updScene k g).held = s.held ∧ (s.updScene k g).seq = s.seq ∧ (s.updScene k g).clk = s.clk ∧
    (s.updScene k g).lockmon = s.lockmon ∧ (s.updScene k g).ctxs = s.ctxs ∧ (s.updScene k g).ctxSel = s.ctxSel ∧
    (s.updScene k g).engines = s.engines ∧ (s.updScene k g).allocPtr = s.allocPtr ∧ (s.updScene k g).allocLast = s.allocLast ∧
    (s.updScene k g).segs = s.segs ∧ (s.updScene k g).segFree = s.segFree ∧ (s.updScene k g).markers = s.markers ∧
    (s.updScene k g).divAt = s.divAt ∧ (s.updScene k g).voices = s.voices ∧ (s.updScene k g).summers = s.summers ∧
    (s.updScene k g).conv = s.conv ∧ (s.updScene k g).fchs = s.fchs ∧ (s.updScene k g).clrCount = s.clrCount ∧
    (s.updScene k g).pchs = s.pchs ∧ (s.updScene k g).groups = s.groups ∧ (s.updScene k g).precLinkDown = s.precLinkDown ∧
    (s.updScene k g).linkDown = s.linkDown ∧ (s.updScene k g).sql = s.sql ∧ (s.updScene k g).mem = s.mem ∧
    (s.updScene k g).banks = s.banks ∧ (s.updScene k g).bnk = s.bnk ∧ (s.updScene k g).evch = s.evch ∧
    (s.updScene k g).cons = s.cons ∧ (s.updScene k g).eos = s.eos ∧ (s.updScene k g).cells = s.cells ∧
    (s.updScene k g).regs = s.regs ∧ (s.updScene k g).slots = s.slots ∧ (s.updScene k g).inputs = s.inputs ∧
    (s.updScene k g).mon = s.mon ∧ (s.updScene k g).aocs = s.aocs ∧ (s.updScene k g).cal = s.cal ∧ (s.updScene k g).log = s.log ∧
    (s.updScene k g).procs = s.procs ∧ (s.updScene k g).tmp = s.tmp ∧ (s.updScene k g).fw = s.fw := by
  repeat' apply And.intro
  all_goals rfl

@[simp] theorem State.updScene_others (k : Nat) (g : Scene → Scene) (x : Nat) :
    (s.updScene k g).fnWin x = s.fnWin x ∧ (s.updScene k g).ctx x = s.ctx x ∧ (s.updScene k g).eng x = s.eng x ∧
    (s.updScene k g).seg x = s.seg x ∧ (s.updScene k g).marker x = s.marker x ∧ (s.updScene k g).voice x = s.voice x ∧
    (s.updScene k g).summer x = s.summer x ∧ (s.updScene k g).fch x = s.fch x ∧ (s.updScene k g).pch x = s.pch x ∧
    (s.updScene k g).group x = s.group x ∧ (s.updScene k g).bank x = s.bank x ∧ (s.updScene k g).ev x = s.ev x ∧
    (s.updScene k g).con x = s.con x ∧ (s.updScene k g).eo x = s.eo x ∧ (s.updScene k g).cell x = s.cell x ∧
    (s.updScene k g).slot x = s.slot x ∧ (s.updScene k g).input x = s.input x ∧ (s.updScene k g).aoc x = s.aoc x ∧
    (s.updScene k g).proc x = s.proc x ∧ (s.updScene k g).pc x = s.pc x ∧ (s.updScene k g).sensor x = s.sensor x ∧
    (s.updScene k g).rec_ x = s.rec_ x := by
  repeat' apply And.intro
  all_goals rfl

/-- The updated instance, and every other. -/
@[simp] theorem State.updScene_scene (k : Nat) (g : Scene → Scene) (x : Nat) :
    (s.updScene k g).scene x = if x = k then g (s.scene k) else s.scene x := Tbl.get_set

@[simp] theorem State.updMarker_fields (k : Nat) (g : Marker → Marker) :
    (s.updMarker k g).pending = s.pending ∧ (s.updMarker k g).fresh = s.fresh ∧ (s.updMarker k g).lc = s.lc ∧
    (s.updMarker k g).tb = s.tb ∧ (s.updMarker k g).power = s.power ∧ (s.updMarker k g).smb = s.smb ∧
    (s.updMarker k g).out = s.out ∧ (s.updMarker k g).fns = s.fns ∧ (s.updMarker k g).sys = s.sys ∧
    (s.updMarker k g).jobs = s.jobs ∧ (s.updMarker k g).sched = s.sched ∧ (s.updMarker k g).actAt = s.actAt ∧
    (s.updMarker k g).waiting = s.waiting ∧ (s.updMarker k g).held = s.held ∧ (s.updMarker k g).seq = s.seq ∧
    (s.updMarker k g).clk = s.clk ∧ (s.updMarker k g).lockmon = s.lockmon ∧ (s.updMarker k g).ctxs = s.ctxs ∧
    (s.updMarker k g).ctxSel = s.ctxSel ∧ (s.updMarker k g).engines = s.engines ∧ (s.updMarker k g).allocPtr = s.allocPtr ∧
    (s.updMarker k g).allocLast = s.allocLast ∧ (s.updMarker k g).segs = s.segs ∧ (s.updMarker k g).segFree = s.segFree ∧
    (s.updMarker k g).scenes = s.scenes ∧ (s.updMarker k g).divAt = s.divAt ∧ (s.updMarker k g).voices = s.voices ∧
    (s.updMarker k g).summers = s.summers ∧ (s.updMarker k g).conv = s.conv ∧ (s.updMarker k g).fchs = s.fchs ∧
    (s.updMarker k g).clrCount = s.clrCount ∧ (s.updMarker k g).pchs = s.pchs ∧ (s.updMarker k g).groups = s.groups ∧
    (s.updMarker k g).precLinkDown = s.precLinkDown ∧ (s.updMarker k g).linkDown = s.linkDown ∧ (s.updMarker k g).sql = s.sql ∧
    (s.updMarker k g).mem = s.mem ∧ (s.updMarker k g).banks = s.banks ∧ (s.updMarker k g).bnk = s.bnk ∧
    (s.updMarker k g).evch = s.evch ∧ (s.updMarker k g).cons = s.cons ∧ (s.updMarker k g).eos = s.eos ∧
    (s.updMarker k g).cells = s.cells ∧ (s.updMarker k g).regs = s.regs ∧ (s.updMarker k g).slots = s.slots ∧
    (s.updMarker k g).inputs = s.inputs ∧ (s.updMarker k g).mon = s.mon ∧ (s.updMarker k g).aocs = s.aocs ∧
    (s.updMarker k g).cal = s.cal ∧ (s.updMarker k g).log = s.log ∧ (s.updMarker k g).procs = s.procs ∧
    (s.updMarker k g).tmp = s.tmp ∧ (s.updMarker k g).fw = s.fw := by
  repeat' apply And.intro
  all_goals rfl

@[simp] theorem State.updMarker_others (k : Nat) (g : Marker → Marker) (x : Nat) :
    (s.updMarker k g).fnWin x = s.fnWin x ∧ (s.updMarker k g).ctx x = s.ctx x ∧ (s.updMarker k g).eng x = s.eng x ∧
    (s.updMarker k g).seg x = s.seg x ∧ (s.updMarker k g).scene x = s.scene x ∧ (s.updMarker k g).voice x = s.voice x ∧
    (s.updMarker k g).summer x = s.summer x ∧ (s.updMarker k g).fch x = s.fch x ∧ (s.updMarker k g).pch x = s.pch x ∧
    (s.updMarker k g).group x = s.group x ∧ (s.updMarker k g).bank x = s.bank x ∧ (s.updMarker k g).ev x = s.ev x ∧
    (s.updMarker k g).con x = s.con x ∧ (s.updMarker k g).eo x = s.eo x ∧ (s.updMarker k g).cell x = s.cell x ∧
    (s.updMarker k g).slot x = s.slot x ∧ (s.updMarker k g).input x = s.input x ∧ (s.updMarker k g).aoc x = s.aoc x ∧
    (s.updMarker k g).proc x = s.proc x ∧ (s.updMarker k g).pc x = s.pc x ∧ (s.updMarker k g).sensor x = s.sensor x ∧
    (s.updMarker k g).rec_ x = s.rec_ x := by
  repeat' apply And.intro
  all_goals rfl

/-- The updated instance, and every other. -/
@[simp] theorem State.updMarker_marker (k : Nat) (g : Marker → Marker) (x : Nat) :
    (s.updMarker k g).marker x = if x = k then g (s.marker k) else s.marker x := Tbl.get_set

@[simp] theorem State.updVoice_fields (v : Nat) (g : Voice → Voice) :
    (s.updVoice v g).pending = s.pending ∧ (s.updVoice v g).fresh = s.fresh ∧ (s.updVoice v g).lc = s.lc ∧
    (s.updVoice v g).tb = s.tb ∧ (s.updVoice v g).power = s.power ∧ (s.updVoice v g).smb = s.smb ∧ (s.updVoice v g).out = s.out ∧
    (s.updVoice v g).fns = s.fns ∧ (s.updVoice v g).sys = s.sys ∧ (s.updVoice v g).jobs = s.jobs ∧
    (s.updVoice v g).sched = s.sched ∧ (s.updVoice v g).actAt = s.actAt ∧ (s.updVoice v g).waiting = s.waiting ∧
    (s.updVoice v g).held = s.held ∧ (s.updVoice v g).seq = s.seq ∧ (s.updVoice v g).clk = s.clk ∧
    (s.updVoice v g).lockmon = s.lockmon ∧ (s.updVoice v g).ctxs = s.ctxs ∧ (s.updVoice v g).ctxSel = s.ctxSel ∧
    (s.updVoice v g).engines = s.engines ∧ (s.updVoice v g).allocPtr = s.allocPtr ∧ (s.updVoice v g).allocLast = s.allocLast ∧
    (s.updVoice v g).segs = s.segs ∧ (s.updVoice v g).segFree = s.segFree ∧ (s.updVoice v g).scenes = s.scenes ∧
    (s.updVoice v g).markers = s.markers ∧ (s.updVoice v g).divAt = s.divAt ∧ (s.updVoice v g).summers = s.summers ∧
    (s.updVoice v g).conv = s.conv ∧ (s.updVoice v g).fchs = s.fchs ∧ (s.updVoice v g).clrCount = s.clrCount ∧
    (s.updVoice v g).pchs = s.pchs ∧ (s.updVoice v g).groups = s.groups ∧ (s.updVoice v g).precLinkDown = s.precLinkDown ∧
    (s.updVoice v g).linkDown = s.linkDown ∧ (s.updVoice v g).sql = s.sql ∧ (s.updVoice v g).mem = s.mem ∧
    (s.updVoice v g).banks = s.banks ∧ (s.updVoice v g).bnk = s.bnk ∧ (s.updVoice v g).evch = s.evch ∧
    (s.updVoice v g).cons = s.cons ∧ (s.updVoice v g).eos = s.eos ∧ (s.updVoice v g).cells = s.cells ∧
    (s.updVoice v g).regs = s.regs ∧ (s.updVoice v g).slots = s.slots ∧ (s.updVoice v g).inputs = s.inputs ∧
    (s.updVoice v g).mon = s.mon ∧ (s.updVoice v g).aocs = s.aocs ∧ (s.updVoice v g).cal = s.cal ∧ (s.updVoice v g).log = s.log ∧
    (s.updVoice v g).procs = s.procs ∧ (s.updVoice v g).tmp = s.tmp ∧ (s.updVoice v g).fw = s.fw := by
  repeat' apply And.intro
  all_goals rfl

@[simp] theorem State.updVoice_others (v : Nat) (g : Voice → Voice) (x : Nat) :
    (s.updVoice v g).fnWin x = s.fnWin x ∧ (s.updVoice v g).ctx x = s.ctx x ∧ (s.updVoice v g).eng x = s.eng x ∧
    (s.updVoice v g).seg x = s.seg x ∧ (s.updVoice v g).scene x = s.scene x ∧ (s.updVoice v g).marker x = s.marker x ∧
    (s.updVoice v g).summer x = s.summer x ∧ (s.updVoice v g).fch x = s.fch x ∧ (s.updVoice v g).pch x = s.pch x ∧
    (s.updVoice v g).group x = s.group x ∧ (s.updVoice v g).bank x = s.bank x ∧ (s.updVoice v g).ev x = s.ev x ∧
    (s.updVoice v g).con x = s.con x ∧ (s.updVoice v g).eo x = s.eo x ∧ (s.updVoice v g).cell x = s.cell x ∧
    (s.updVoice v g).slot x = s.slot x ∧ (s.updVoice v g).input x = s.input x ∧ (s.updVoice v g).aoc x = s.aoc x ∧
    (s.updVoice v g).proc x = s.proc x ∧ (s.updVoice v g).pc x = s.pc x ∧ (s.updVoice v g).sensor x = s.sensor x ∧
    (s.updVoice v g).rec_ x = s.rec_ x := by
  repeat' apply And.intro
  all_goals rfl

/-- The updated instance, and every other. -/
@[simp] theorem State.updVoice_voice (v : Nat) (g : Voice → Voice) (x : Nat) :
    (s.updVoice v g).voice x = if x = v then g (s.voice v) else s.voice x := Tbl.get_set

@[simp] theorem State.updSummer_fields (c : Nat) (g : Summer → Summer) :
    (s.updSummer c g).pending = s.pending ∧ (s.updSummer c g).fresh = s.fresh ∧ (s.updSummer c g).lc = s.lc ∧
    (s.updSummer c g).tb = s.tb ∧ (s.updSummer c g).power = s.power ∧ (s.updSummer c g).smb = s.smb ∧
    (s.updSummer c g).out = s.out ∧ (s.updSummer c g).fns = s.fns ∧ (s.updSummer c g).sys = s.sys ∧
    (s.updSummer c g).jobs = s.jobs ∧ (s.updSummer c g).sched = s.sched ∧ (s.updSummer c g).actAt = s.actAt ∧
    (s.updSummer c g).waiting = s.waiting ∧ (s.updSummer c g).held = s.held ∧ (s.updSummer c g).seq = s.seq ∧
    (s.updSummer c g).clk = s.clk ∧ (s.updSummer c g).lockmon = s.lockmon ∧ (s.updSummer c g).ctxs = s.ctxs ∧
    (s.updSummer c g).ctxSel = s.ctxSel ∧ (s.updSummer c g).engines = s.engines ∧ (s.updSummer c g).allocPtr = s.allocPtr ∧
    (s.updSummer c g).allocLast = s.allocLast ∧ (s.updSummer c g).segs = s.segs ∧ (s.updSummer c g).segFree = s.segFree ∧
    (s.updSummer c g).scenes = s.scenes ∧ (s.updSummer c g).markers = s.markers ∧ (s.updSummer c g).divAt = s.divAt ∧
    (s.updSummer c g).voices = s.voices ∧ (s.updSummer c g).conv = s.conv ∧ (s.updSummer c g).fchs = s.fchs ∧
    (s.updSummer c g).clrCount = s.clrCount ∧ (s.updSummer c g).pchs = s.pchs ∧ (s.updSummer c g).groups = s.groups ∧
    (s.updSummer c g).precLinkDown = s.precLinkDown ∧ (s.updSummer c g).linkDown = s.linkDown ∧ (s.updSummer c g).sql = s.sql ∧
    (s.updSummer c g).mem = s.mem ∧ (s.updSummer c g).banks = s.banks ∧ (s.updSummer c g).bnk = s.bnk ∧
    (s.updSummer c g).evch = s.evch ∧ (s.updSummer c g).cons = s.cons ∧ (s.updSummer c g).eos = s.eos ∧
    (s.updSummer c g).cells = s.cells ∧ (s.updSummer c g).regs = s.regs ∧ (s.updSummer c g).slots = s.slots ∧
    (s.updSummer c g).inputs = s.inputs ∧ (s.updSummer c g).mon = s.mon ∧ (s.updSummer c g).aocs = s.aocs ∧
    (s.updSummer c g).cal = s.cal ∧ (s.updSummer c g).log = s.log ∧ (s.updSummer c g).procs = s.procs ∧
    (s.updSummer c g).tmp = s.tmp ∧ (s.updSummer c g).fw = s.fw := by
  repeat' apply And.intro
  all_goals rfl

@[simp] theorem State.updSummer_others (c : Nat) (g : Summer → Summer) (x : Nat) :
    (s.updSummer c g).fnWin x = s.fnWin x ∧ (s.updSummer c g).ctx x = s.ctx x ∧ (s.updSummer c g).eng x = s.eng x ∧
    (s.updSummer c g).seg x = s.seg x ∧ (s.updSummer c g).scene x = s.scene x ∧ (s.updSummer c g).marker x = s.marker x ∧
    (s.updSummer c g).voice x = s.voice x ∧ (s.updSummer c g).fch x = s.fch x ∧ (s.updSummer c g).pch x = s.pch x ∧
    (s.updSummer c g).group x = s.group x ∧ (s.updSummer c g).bank x = s.bank x ∧ (s.updSummer c g).ev x = s.ev x ∧
    (s.updSummer c g).con x = s.con x ∧ (s.updSummer c g).eo x = s.eo x ∧ (s.updSummer c g).cell x = s.cell x ∧
    (s.updSummer c g).slot x = s.slot x ∧ (s.updSummer c g).input x = s.input x ∧ (s.updSummer c g).aoc x = s.aoc x ∧
    (s.updSummer c g).proc x = s.proc x ∧ (s.updSummer c g).pc x = s.pc x ∧ (s.updSummer c g).sensor x = s.sensor x ∧
    (s.updSummer c g).rec_ x = s.rec_ x := by
  repeat' apply And.intro
  all_goals rfl

/-- The updated instance, and every other. -/
@[simp] theorem State.updSummer_summer (c : Nat) (g : Summer → Summer) (x : Nat) :
    (s.updSummer c g).summer x = if x = c then g (s.summer c) else s.summer x := Tbl.get_set

@[simp] theorem State.updFch_fields (c : Nat) (g : Fch → Fch) :
    (s.updFch c g).pending = s.pending ∧ (s.updFch c g).fresh = s.fresh ∧ (s.updFch c g).lc = s.lc ∧ (s.updFch c g).tb = s.tb ∧
    (s.updFch c g).power = s.power ∧ (s.updFch c g).smb = s.smb ∧ (s.updFch c g).out = s.out ∧ (s.updFch c g).fns = s.fns ∧
    (s.updFch c g).sys = s.sys ∧ (s.updFch c g).jobs = s.jobs ∧ (s.updFch c g).sched = s.sched ∧ (s.updFch c g).actAt = s.actAt ∧
    (s.updFch c g).waiting = s.waiting ∧ (s.updFch c g).held = s.held ∧ (s.updFch c g).seq = s.seq ∧ (s.updFch c g).clk = s.clk ∧
    (s.updFch c g).lockmon = s.lockmon ∧ (s.updFch c g).ctxs = s.ctxs ∧ (s.updFch c g).ctxSel = s.ctxSel ∧
    (s.updFch c g).engines = s.engines ∧ (s.updFch c g).allocPtr = s.allocPtr ∧ (s.updFch c g).allocLast = s.allocLast ∧
    (s.updFch c g).segs = s.segs ∧ (s.updFch c g).segFree = s.segFree ∧ (s.updFch c g).scenes = s.scenes ∧
    (s.updFch c g).markers = s.markers ∧ (s.updFch c g).divAt = s.divAt ∧ (s.updFch c g).voices = s.voices ∧
    (s.updFch c g).summers = s.summers ∧ (s.updFch c g).conv = s.conv ∧ (s.updFch c g).clrCount = s.clrCount ∧
    (s.updFch c g).pchs = s.pchs ∧ (s.updFch c g).groups = s.groups ∧ (s.updFch c g).precLinkDown = s.precLinkDown ∧
    (s.updFch c g).linkDown = s.linkDown ∧ (s.updFch c g).sql = s.sql ∧ (s.updFch c g).mem = s.mem ∧
    (s.updFch c g).banks = s.banks ∧ (s.updFch c g).bnk = s.bnk ∧ (s.updFch c g).evch = s.evch ∧ (s.updFch c g).cons = s.cons ∧
    (s.updFch c g).eos = s.eos ∧ (s.updFch c g).cells = s.cells ∧ (s.updFch c g).regs = s.regs ∧ (s.updFch c g).slots = s.slots ∧
    (s.updFch c g).inputs = s.inputs ∧ (s.updFch c g).mon = s.mon ∧ (s.updFch c g).aocs = s.aocs ∧ (s.updFch c g).cal = s.cal ∧
    (s.updFch c g).log = s.log ∧ (s.updFch c g).procs = s.procs ∧ (s.updFch c g).tmp = s.tmp ∧ (s.updFch c g).fw = s.fw := by
  repeat' apply And.intro
  all_goals rfl

@[simp] theorem State.updFch_others (c : Nat) (g : Fch → Fch) (x : Nat) :
    (s.updFch c g).fnWin x = s.fnWin x ∧ (s.updFch c g).ctx x = s.ctx x ∧ (s.updFch c g).eng x = s.eng x ∧
    (s.updFch c g).seg x = s.seg x ∧ (s.updFch c g).scene x = s.scene x ∧ (s.updFch c g).marker x = s.marker x ∧
    (s.updFch c g).voice x = s.voice x ∧ (s.updFch c g).summer x = s.summer x ∧ (s.updFch c g).pch x = s.pch x ∧
    (s.updFch c g).group x = s.group x ∧ (s.updFch c g).bank x = s.bank x ∧ (s.updFch c g).ev x = s.ev x ∧
    (s.updFch c g).con x = s.con x ∧ (s.updFch c g).eo x = s.eo x ∧ (s.updFch c g).cell x = s.cell x ∧
    (s.updFch c g).slot x = s.slot x ∧ (s.updFch c g).input x = s.input x ∧ (s.updFch c g).aoc x = s.aoc x ∧
    (s.updFch c g).proc x = s.proc x ∧ (s.updFch c g).pc x = s.pc x ∧ (s.updFch c g).sensor x = s.sensor x ∧
    (s.updFch c g).rec_ x = s.rec_ x := by
  repeat' apply And.intro
  all_goals rfl

/-- The updated instance, and every other. -/
@[simp] theorem State.updFch_fch (c : Nat) (g : Fch → Fch) (x : Nat) :
    (s.updFch c g).fch x = if x = c then g (s.fch c) else s.fch x := Tbl.get_set

@[simp] theorem State.updPch_fields (n : Nat) (g : Pch → Pch) :
    (s.updPch n g).pending = s.pending ∧ (s.updPch n g).fresh = s.fresh ∧ (s.updPch n g).lc = s.lc ∧ (s.updPch n g).tb = s.tb ∧
    (s.updPch n g).power = s.power ∧ (s.updPch n g).smb = s.smb ∧ (s.updPch n g).out = s.out ∧ (s.updPch n g).fns = s.fns ∧
    (s.updPch n g).sys = s.sys ∧ (s.updPch n g).jobs = s.jobs ∧ (s.updPch n g).sched = s.sched ∧ (s.updPch n g).actAt = s.actAt ∧
    (s.updPch n g).waiting = s.waiting ∧ (s.updPch n g).held = s.held ∧ (s.updPch n g).seq = s.seq ∧ (s.updPch n g).clk = s.clk ∧
    (s.updPch n g).lockmon = s.lockmon ∧ (s.updPch n g).ctxs = s.ctxs ∧ (s.updPch n g).ctxSel = s.ctxSel ∧
    (s.updPch n g).engines = s.engines ∧ (s.updPch n g).allocPtr = s.allocPtr ∧ (s.updPch n g).allocLast = s.allocLast ∧
    (s.updPch n g).segs = s.segs ∧ (s.updPch n g).segFree = s.segFree ∧ (s.updPch n g).scenes = s.scenes ∧
    (s.updPch n g).markers = s.markers ∧ (s.updPch n g).divAt = s.divAt ∧ (s.updPch n g).voices = s.voices ∧
    (s.updPch n g).summers = s.summers ∧ (s.updPch n g).conv = s.conv ∧ (s.updPch n g).fchs = s.fchs ∧
    (s.updPch n g).clrCount = s.clrCount ∧ (s.updPch n g).groups = s.groups ∧ (s.updPch n g).precLinkDown = s.precLinkDown ∧
    (s.updPch n g).linkDown = s.linkDown ∧ (s.updPch n g).sql = s.sql ∧ (s.updPch n g).mem = s.mem ∧
    (s.updPch n g).banks = s.banks ∧ (s.updPch n g).bnk = s.bnk ∧ (s.updPch n g).evch = s.evch ∧ (s.updPch n g).cons = s.cons ∧
    (s.updPch n g).eos = s.eos ∧ (s.updPch n g).cells = s.cells ∧ (s.updPch n g).regs = s.regs ∧ (s.updPch n g).slots = s.slots ∧
    (s.updPch n g).inputs = s.inputs ∧ (s.updPch n g).mon = s.mon ∧ (s.updPch n g).aocs = s.aocs ∧ (s.updPch n g).cal = s.cal ∧
    (s.updPch n g).log = s.log ∧ (s.updPch n g).procs = s.procs ∧ (s.updPch n g).tmp = s.tmp ∧ (s.updPch n g).fw = s.fw := by
  repeat' apply And.intro
  all_goals rfl

@[simp] theorem State.updPch_others (n : Nat) (g : Pch → Pch) (x : Nat) :
    (s.updPch n g).fnWin x = s.fnWin x ∧ (s.updPch n g).ctx x = s.ctx x ∧ (s.updPch n g).eng x = s.eng x ∧
    (s.updPch n g).seg x = s.seg x ∧ (s.updPch n g).scene x = s.scene x ∧ (s.updPch n g).marker x = s.marker x ∧
    (s.updPch n g).voice x = s.voice x ∧ (s.updPch n g).summer x = s.summer x ∧ (s.updPch n g).fch x = s.fch x ∧
    (s.updPch n g).group x = s.group x ∧ (s.updPch n g).bank x = s.bank x ∧ (s.updPch n g).ev x = s.ev x ∧
    (s.updPch n g).con x = s.con x ∧ (s.updPch n g).eo x = s.eo x ∧ (s.updPch n g).cell x = s.cell x ∧
    (s.updPch n g).slot x = s.slot x ∧ (s.updPch n g).input x = s.input x ∧ (s.updPch n g).aoc x = s.aoc x ∧
    (s.updPch n g).proc x = s.proc x ∧ (s.updPch n g).pc x = s.pc x ∧ (s.updPch n g).sensor x = s.sensor x ∧
    (s.updPch n g).rec_ x = s.rec_ x := by
  repeat' apply And.intro
  all_goals rfl

/-- The updated instance, and every other. -/
@[simp] theorem State.updPch_pch (n : Nat) (g : Pch → Pch) (x : Nat) :
    (s.updPch n g).pch x = if x = n then g (s.pch n) else s.pch x := Tbl.get_set

@[simp] theorem State.updGroup_fields (j : Nat) (g : Group → Group) :
    (s.updGroup j g).pending = s.pending ∧ (s.updGroup j g).fresh = s.fresh ∧ (s.updGroup j g).lc = s.lc ∧
    (s.updGroup j g).tb = s.tb ∧ (s.updGroup j g).power = s.power ∧ (s.updGroup j g).smb = s.smb ∧ (s.updGroup j g).out = s.out ∧
    (s.updGroup j g).fns = s.fns ∧ (s.updGroup j g).sys = s.sys ∧ (s.updGroup j g).jobs = s.jobs ∧
    (s.updGroup j g).sched = s.sched ∧ (s.updGroup j g).actAt = s.actAt ∧ (s.updGroup j g).waiting = s.waiting ∧
    (s.updGroup j g).held = s.held ∧ (s.updGroup j g).seq = s.seq ∧ (s.updGroup j g).clk = s.clk ∧
    (s.updGroup j g).lockmon = s.lockmon ∧ (s.updGroup j g).ctxs = s.ctxs ∧ (s.updGroup j g).ctxSel = s.ctxSel ∧
    (s.updGroup j g).engines = s.engines ∧ (s.updGroup j g).allocPtr = s.allocPtr ∧ (s.updGroup j g).allocLast = s.allocLast ∧
    (s.updGroup j g).segs = s.segs ∧ (s.updGroup j g).segFree = s.segFree ∧ (s.updGroup j g).scenes = s.scenes ∧
    (s.updGroup j g).markers = s.markers ∧ (s.updGroup j g).divAt = s.divAt ∧ (s.updGroup j g).voices = s.voices ∧
    (s.updGroup j g).summers = s.summers ∧ (s.updGroup j g).conv = s.conv ∧ (s.updGroup j g).fchs = s.fchs ∧
    (s.updGroup j g).clrCount = s.clrCount ∧ (s.updGroup j g).pchs = s.pchs ∧ (s.updGroup j g).precLinkDown = s.precLinkDown ∧
    (s.updGroup j g).linkDown = s.linkDown ∧ (s.updGroup j g).sql = s.sql ∧ (s.updGroup j g).mem = s.mem ∧
    (s.updGroup j g).banks = s.banks ∧ (s.updGroup j g).bnk = s.bnk ∧ (s.updGroup j g).evch = s.evch ∧
    (s.updGroup j g).cons = s.cons ∧ (s.updGroup j g).eos = s.eos ∧ (s.updGroup j g).cells = s.cells ∧
    (s.updGroup j g).regs = s.regs ∧ (s.updGroup j g).slots = s.slots ∧ (s.updGroup j g).inputs = s.inputs ∧
    (s.updGroup j g).mon = s.mon ∧ (s.updGroup j g).aocs = s.aocs ∧ (s.updGroup j g).cal = s.cal ∧ (s.updGroup j g).log = s.log ∧
    (s.updGroup j g).procs = s.procs ∧ (s.updGroup j g).tmp = s.tmp ∧ (s.updGroup j g).fw = s.fw := by
  repeat' apply And.intro
  all_goals rfl

@[simp] theorem State.updGroup_others (j : Nat) (g : Group → Group) (x : Nat) :
    (s.updGroup j g).fnWin x = s.fnWin x ∧ (s.updGroup j g).ctx x = s.ctx x ∧ (s.updGroup j g).eng x = s.eng x ∧
    (s.updGroup j g).seg x = s.seg x ∧ (s.updGroup j g).scene x = s.scene x ∧ (s.updGroup j g).marker x = s.marker x ∧
    (s.updGroup j g).voice x = s.voice x ∧ (s.updGroup j g).summer x = s.summer x ∧ (s.updGroup j g).fch x = s.fch x ∧
    (s.updGroup j g).pch x = s.pch x ∧ (s.updGroup j g).bank x = s.bank x ∧ (s.updGroup j g).ev x = s.ev x ∧
    (s.updGroup j g).con x = s.con x ∧ (s.updGroup j g).eo x = s.eo x ∧ (s.updGroup j g).cell x = s.cell x ∧
    (s.updGroup j g).slot x = s.slot x ∧ (s.updGroup j g).input x = s.input x ∧ (s.updGroup j g).aoc x = s.aoc x ∧
    (s.updGroup j g).proc x = s.proc x ∧ (s.updGroup j g).pc x = s.pc x ∧ (s.updGroup j g).sensor x = s.sensor x ∧
    (s.updGroup j g).rec_ x = s.rec_ x := by
  repeat' apply And.intro
  all_goals rfl

/-- The updated instance, and every other. -/
@[simp] theorem State.updGroup_group (j : Nat) (g : Group → Group) (x : Nat) :
    (s.updGroup j g).group x = if x = j then g (s.group j) else s.group x := Tbl.get_set

@[simp] theorem State.updBank_fields (b : Nat) (g : Bank → Bank) :
    (s.updBank b g).pending = s.pending ∧ (s.updBank b g).fresh = s.fresh ∧ (s.updBank b g).lc = s.lc ∧
    (s.updBank b g).tb = s.tb ∧ (s.updBank b g).power = s.power ∧ (s.updBank b g).smb = s.smb ∧ (s.updBank b g).out = s.out ∧
    (s.updBank b g).fns = s.fns ∧ (s.updBank b g).sys = s.sys ∧ (s.updBank b g).jobs = s.jobs ∧ (s.updBank b g).sched = s.sched ∧
    (s.updBank b g).actAt = s.actAt ∧ (s.updBank b g).waiting = s.waiting ∧ (s.updBank b g).held = s.held ∧
    (s.updBank b g).seq = s.seq ∧ (s.updBank b g).clk = s.clk ∧ (s.updBank b g).lockmon = s.lockmon ∧
    (s.updBank b g).ctxs = s.ctxs ∧ (s.updBank b g).ctxSel = s.ctxSel ∧ (s.updBank b g).engines = s.engines ∧
    (s.updBank b g).allocPtr = s.allocPtr ∧ (s.updBank b g).allocLast = s.allocLast ∧ (s.updBank b g).segs = s.segs ∧
    (s.updBank b g).segFree = s.segFree ∧ (s.updBank b g).scenes = s.scenes ∧ (s.updBank b g).markers = s.markers ∧
    (s.updBank b g).divAt = s.divAt ∧ (s.updBank b g).voices = s.voices ∧ (s.updBank b g).summers = s.summers ∧
    (s.updBank b g).conv = s.conv ∧ (s.updBank b g).fchs = s.fchs ∧ (s.updBank b g).clrCount = s.clrCount ∧
    (s.updBank b g).pchs = s.pchs ∧ (s.updBank b g).groups = s.groups ∧ (s.updBank b g).precLinkDown = s.precLinkDown ∧
    (s.updBank b g).linkDown = s.linkDown ∧ (s.updBank b g).sql = s.sql ∧ (s.updBank b g).mem = s.mem ∧
    (s.updBank b g).bnk = s.bnk ∧ (s.updBank b g).evch = s.evch ∧ (s.updBank b g).cons = s.cons ∧ (s.updBank b g).eos = s.eos ∧
    (s.updBank b g).cells = s.cells ∧ (s.updBank b g).regs = s.regs ∧ (s.updBank b g).slots = s.slots ∧
    (s.updBank b g).inputs = s.inputs ∧ (s.updBank b g).mon = s.mon ∧ (s.updBank b g).aocs = s.aocs ∧
    (s.updBank b g).cal = s.cal ∧ (s.updBank b g).log = s.log ∧ (s.updBank b g).procs = s.procs ∧ (s.updBank b g).tmp = s.tmp ∧
    (s.updBank b g).fw = s.fw := by
  repeat' apply And.intro
  all_goals rfl

@[simp] theorem State.updBank_others (b : Nat) (g : Bank → Bank) (x : Nat) :
    (s.updBank b g).fnWin x = s.fnWin x ∧ (s.updBank b g).ctx x = s.ctx x ∧ (s.updBank b g).eng x = s.eng x ∧
    (s.updBank b g).seg x = s.seg x ∧ (s.updBank b g).scene x = s.scene x ∧ (s.updBank b g).marker x = s.marker x ∧
    (s.updBank b g).voice x = s.voice x ∧ (s.updBank b g).summer x = s.summer x ∧ (s.updBank b g).fch x = s.fch x ∧
    (s.updBank b g).pch x = s.pch x ∧ (s.updBank b g).group x = s.group x ∧ (s.updBank b g).ev x = s.ev x ∧
    (s.updBank b g).con x = s.con x ∧ (s.updBank b g).eo x = s.eo x ∧ (s.updBank b g).cell x = s.cell x ∧
    (s.updBank b g).slot x = s.slot x ∧ (s.updBank b g).input x = s.input x ∧ (s.updBank b g).aoc x = s.aoc x ∧
    (s.updBank b g).proc x = s.proc x ∧ (s.updBank b g).pc x = s.pc x ∧ (s.updBank b g).sensor x = s.sensor x ∧
    (s.updBank b g).rec_ x = s.rec_ x := by
  repeat' apply And.intro
  all_goals rfl

/-- The updated instance, and every other. -/
@[simp] theorem State.updBank_bank (b : Nat) (g : Bank → Bank) (x : Nat) :
    (s.updBank b g).bank x = if x = b then g (s.bank b) else s.bank x := Tbl.get_set

@[simp] theorem State.updEv_fields (k : Nat) (g : EvCh → EvCh) :
    (s.updEv k g).pending = s.pending ∧ (s.updEv k g).fresh = s.fresh ∧ (s.updEv k g).lc = s.lc ∧ (s.updEv k g).tb = s.tb ∧
    (s.updEv k g).power = s.power ∧ (s.updEv k g).smb = s.smb ∧ (s.updEv k g).out = s.out ∧ (s.updEv k g).fns = s.fns ∧
    (s.updEv k g).sys = s.sys ∧ (s.updEv k g).jobs = s.jobs ∧ (s.updEv k g).sched = s.sched ∧ (s.updEv k g).actAt = s.actAt ∧
    (s.updEv k g).waiting = s.waiting ∧ (s.updEv k g).held = s.held ∧ (s.updEv k g).seq = s.seq ∧ (s.updEv k g).clk = s.clk ∧
    (s.updEv k g).lockmon = s.lockmon ∧ (s.updEv k g).ctxs = s.ctxs ∧ (s.updEv k g).ctxSel = s.ctxSel ∧
    (s.updEv k g).engines = s.engines ∧ (s.updEv k g).allocPtr = s.allocPtr ∧ (s.updEv k g).allocLast = s.allocLast ∧
    (s.updEv k g).segs = s.segs ∧ (s.updEv k g).segFree = s.segFree ∧ (s.updEv k g).scenes = s.scenes ∧
    (s.updEv k g).markers = s.markers ∧ (s.updEv k g).divAt = s.divAt ∧ (s.updEv k g).voices = s.voices ∧
    (s.updEv k g).summers = s.summers ∧ (s.updEv k g).conv = s.conv ∧ (s.updEv k g).fchs = s.fchs ∧
    (s.updEv k g).clrCount = s.clrCount ∧ (s.updEv k g).pchs = s.pchs ∧ (s.updEv k g).groups = s.groups ∧
    (s.updEv k g).precLinkDown = s.precLinkDown ∧ (s.updEv k g).linkDown = s.linkDown ∧ (s.updEv k g).sql = s.sql ∧
    (s.updEv k g).mem = s.mem ∧ (s.updEv k g).banks = s.banks ∧ (s.updEv k g).bnk = s.bnk ∧ (s.updEv k g).cons = s.cons ∧
    (s.updEv k g).eos = s.eos ∧ (s.updEv k g).cells = s.cells ∧ (s.updEv k g).regs = s.regs ∧ (s.updEv k g).slots = s.slots ∧
    (s.updEv k g).inputs = s.inputs ∧ (s.updEv k g).mon = s.mon ∧ (s.updEv k g).aocs = s.aocs ∧ (s.updEv k g).cal = s.cal ∧
    (s.updEv k g).log = s.log ∧ (s.updEv k g).procs = s.procs ∧ (s.updEv k g).tmp = s.tmp ∧ (s.updEv k g).fw = s.fw := by
  repeat' apply And.intro
  all_goals rfl

@[simp] theorem State.updEv_others (k : Nat) (g : EvCh → EvCh) (x : Nat) :
    (s.updEv k g).fnWin x = s.fnWin x ∧ (s.updEv k g).ctx x = s.ctx x ∧ (s.updEv k g).eng x = s.eng x ∧
    (s.updEv k g).seg x = s.seg x ∧ (s.updEv k g).scene x = s.scene x ∧ (s.updEv k g).marker x = s.marker x ∧
    (s.updEv k g).voice x = s.voice x ∧ (s.updEv k g).summer x = s.summer x ∧ (s.updEv k g).fch x = s.fch x ∧
    (s.updEv k g).pch x = s.pch x ∧ (s.updEv k g).group x = s.group x ∧ (s.updEv k g).bank x = s.bank x ∧
    (s.updEv k g).con x = s.con x ∧ (s.updEv k g).eo x = s.eo x ∧ (s.updEv k g).cell x = s.cell x ∧
    (s.updEv k g).slot x = s.slot x ∧ (s.updEv k g).input x = s.input x ∧ (s.updEv k g).aoc x = s.aoc x ∧
    (s.updEv k g).proc x = s.proc x ∧ (s.updEv k g).pc x = s.pc x ∧ (s.updEv k g).sensor x = s.sensor x ∧
    (s.updEv k g).rec_ x = s.rec_ x := by
  repeat' apply And.intro
  all_goals rfl

/-- The updated instance, and every other. -/
@[simp] theorem State.updEv_ev (k : Nat) (g : EvCh → EvCh) (x : Nat) :
    (s.updEv k g).ev x = if x = k then g (s.ev k) else s.ev x := Tbl.get_set

@[simp] theorem State.updCon_fields (n : Nat) (g : Cons → Cons) :
    (s.updCon n g).pending = s.pending ∧ (s.updCon n g).fresh = s.fresh ∧ (s.updCon n g).lc = s.lc ∧ (s.updCon n g).tb = s.tb ∧
    (s.updCon n g).power = s.power ∧ (s.updCon n g).smb = s.smb ∧ (s.updCon n g).out = s.out ∧ (s.updCon n g).fns = s.fns ∧
    (s.updCon n g).sys = s.sys ∧ (s.updCon n g).jobs = s.jobs ∧ (s.updCon n g).sched = s.sched ∧ (s.updCon n g).actAt = s.actAt ∧
    (s.updCon n g).waiting = s.waiting ∧ (s.updCon n g).held = s.held ∧ (s.updCon n g).seq = s.seq ∧ (s.updCon n g).clk = s.clk ∧
    (s.updCon n g).lockmon = s.lockmon ∧ (s.updCon n g).ctxs = s.ctxs ∧ (s.updCon n g).ctxSel = s.ctxSel ∧
    (s.updCon n g).engines = s.engines ∧ (s.updCon n g).allocPtr = s.allocPtr ∧ (s.updCon n g).allocLast = s.allocLast ∧
    (s.updCon n g).segs = s.segs ∧ (s.updCon n g).segFree = s.segFree ∧ (s.updCon n g).scenes = s.scenes ∧
    (s.updCon n g).markers = s.markers ∧ (s.updCon n g).divAt = s.divAt ∧ (s.updCon n g).voices = s.voices ∧
    (s.updCon n g).summers = s.summers ∧ (s.updCon n g).conv = s.conv ∧ (s.updCon n g).fchs = s.fchs ∧
    (s.updCon n g).clrCount = s.clrCount ∧ (s.updCon n g).pchs = s.pchs ∧ (s.updCon n g).groups = s.groups ∧
    (s.updCon n g).precLinkDown = s.precLinkDown ∧ (s.updCon n g).linkDown = s.linkDown ∧ (s.updCon n g).sql = s.sql ∧
    (s.updCon n g).mem = s.mem ∧ (s.updCon n g).banks = s.banks ∧ (s.updCon n g).bnk = s.bnk ∧ (s.updCon n g).evch = s.evch ∧
    (s.updCon n g).eos = s.eos ∧ (s.updCon n g).cells = s.cells ∧ (s.updCon n g).regs = s.regs ∧ (s.updCon n g).slots = s.slots ∧
    (s.updCon n g).inputs = s.inputs ∧ (s.updCon n g).mon = s.mon ∧ (s.updCon n g).aocs = s.aocs ∧ (s.updCon n g).cal = s.cal ∧
    (s.updCon n g).log = s.log ∧ (s.updCon n g).procs = s.procs ∧ (s.updCon n g).tmp = s.tmp ∧ (s.updCon n g).fw = s.fw := by
  repeat' apply And.intro
  all_goals rfl

@[simp] theorem State.updCon_others (n : Nat) (g : Cons → Cons) (x : Nat) :
    (s.updCon n g).fnWin x = s.fnWin x ∧ (s.updCon n g).ctx x = s.ctx x ∧ (s.updCon n g).eng x = s.eng x ∧
    (s.updCon n g).seg x = s.seg x ∧ (s.updCon n g).scene x = s.scene x ∧ (s.updCon n g).marker x = s.marker x ∧
    (s.updCon n g).voice x = s.voice x ∧ (s.updCon n g).summer x = s.summer x ∧ (s.updCon n g).fch x = s.fch x ∧
    (s.updCon n g).pch x = s.pch x ∧ (s.updCon n g).group x = s.group x ∧ (s.updCon n g).bank x = s.bank x ∧
    (s.updCon n g).ev x = s.ev x ∧ (s.updCon n g).eo x = s.eo x ∧ (s.updCon n g).cell x = s.cell x ∧
    (s.updCon n g).slot x = s.slot x ∧ (s.updCon n g).input x = s.input x ∧ (s.updCon n g).aoc x = s.aoc x ∧
    (s.updCon n g).proc x = s.proc x ∧ (s.updCon n g).pc x = s.pc x ∧ (s.updCon n g).sensor x = s.sensor x ∧
    (s.updCon n g).rec_ x = s.rec_ x := by
  repeat' apply And.intro
  all_goals rfl

/-- The updated instance, and every other. -/
@[simp] theorem State.updCon_con (n : Nat) (g : Cons → Cons) (x : Nat) :
    (s.updCon n g).con x = if x = n then g (s.con n) else s.con x := Tbl.get_set

@[simp] theorem State.updEo_fields (n : Nat) (g : EvOut → EvOut) :
    (s.updEo n g).pending = s.pending ∧ (s.updEo n g).fresh = s.fresh ∧ (s.updEo n g).lc = s.lc ∧ (s.updEo n g).tb = s.tb ∧
    (s.updEo n g).power = s.power ∧ (s.updEo n g).smb = s.smb ∧ (s.updEo n g).out = s.out ∧ (s.updEo n g).fns = s.fns ∧
    (s.updEo n g).sys = s.sys ∧ (s.updEo n g).jobs = s.jobs ∧ (s.updEo n g).sched = s.sched ∧ (s.updEo n g).actAt = s.actAt ∧
    (s.updEo n g).waiting = s.waiting ∧ (s.updEo n g).held = s.held ∧ (s.updEo n g).seq = s.seq ∧ (s.updEo n g).clk = s.clk ∧
    (s.updEo n g).lockmon = s.lockmon ∧ (s.updEo n g).ctxs = s.ctxs ∧ (s.updEo n g).ctxSel = s.ctxSel ∧
    (s.updEo n g).engines = s.engines ∧ (s.updEo n g).allocPtr = s.allocPtr ∧ (s.updEo n g).allocLast = s.allocLast ∧
    (s.updEo n g).segs = s.segs ∧ (s.updEo n g).segFree = s.segFree ∧ (s.updEo n g).scenes = s.scenes ∧
    (s.updEo n g).markers = s.markers ∧ (s.updEo n g).divAt = s.divAt ∧ (s.updEo n g).voices = s.voices ∧
    (s.updEo n g).summers = s.summers ∧ (s.updEo n g).conv = s.conv ∧ (s.updEo n g).fchs = s.fchs ∧
    (s.updEo n g).clrCount = s.clrCount ∧ (s.updEo n g).pchs = s.pchs ∧ (s.updEo n g).groups = s.groups ∧
    (s.updEo n g).precLinkDown = s.precLinkDown ∧ (s.updEo n g).linkDown = s.linkDown ∧ (s.updEo n g).sql = s.sql ∧
    (s.updEo n g).mem = s.mem ∧ (s.updEo n g).banks = s.banks ∧ (s.updEo n g).bnk = s.bnk ∧ (s.updEo n g).evch = s.evch ∧
    (s.updEo n g).cons = s.cons ∧ (s.updEo n g).cells = s.cells ∧ (s.updEo n g).regs = s.regs ∧ (s.updEo n g).slots = s.slots ∧
    (s.updEo n g).inputs = s.inputs ∧ (s.updEo n g).mon = s.mon ∧ (s.updEo n g).aocs = s.aocs ∧ (s.updEo n g).cal = s.cal ∧
    (s.updEo n g).log = s.log ∧ (s.updEo n g).procs = s.procs ∧ (s.updEo n g).tmp = s.tmp ∧ (s.updEo n g).fw = s.fw := by
  repeat' apply And.intro
  all_goals rfl

@[simp] theorem State.updEo_others (n : Nat) (g : EvOut → EvOut) (x : Nat) :
    (s.updEo n g).fnWin x = s.fnWin x ∧ (s.updEo n g).ctx x = s.ctx x ∧ (s.updEo n g).eng x = s.eng x ∧
    (s.updEo n g).seg x = s.seg x ∧ (s.updEo n g).scene x = s.scene x ∧ (s.updEo n g).marker x = s.marker x ∧
    (s.updEo n g).voice x = s.voice x ∧ (s.updEo n g).summer x = s.summer x ∧ (s.updEo n g).fch x = s.fch x ∧
    (s.updEo n g).pch x = s.pch x ∧ (s.updEo n g).group x = s.group x ∧ (s.updEo n g).bank x = s.bank x ∧
    (s.updEo n g).ev x = s.ev x ∧ (s.updEo n g).con x = s.con x ∧ (s.updEo n g).cell x = s.cell x ∧
    (s.updEo n g).slot x = s.slot x ∧ (s.updEo n g).input x = s.input x ∧ (s.updEo n g).aoc x = s.aoc x ∧
    (s.updEo n g).proc x = s.proc x ∧ (s.updEo n g).pc x = s.pc x ∧ (s.updEo n g).sensor x = s.sensor x ∧
    (s.updEo n g).rec_ x = s.rec_ x := by
  repeat' apply And.intro
  all_goals rfl

/-- The updated instance, and every other. -/
@[simp] theorem State.updEo_eo (n : Nat) (g : EvOut → EvOut) (x : Nat) :
    (s.updEo n g).eo x = if x = n then g (s.eo n) else s.eo x := Tbl.get_set

@[simp] theorem State.updCell_fields (n : Nat) (g : Cell → Cell) :
    (s.updCell n g).pending = s.pending ∧ (s.updCell n g).fresh = s.fresh ∧ (s.updCell n g).lc = s.lc ∧
    (s.updCell n g).tb = s.tb ∧ (s.updCell n g).power = s.power ∧ (s.updCell n g).smb = s.smb ∧ (s.updCell n g).out = s.out ∧
    (s.updCell n g).fns = s.fns ∧ (s.updCell n g).sys = s.sys ∧ (s.updCell n g).jobs = s.jobs ∧ (s.updCell n g).sched = s.sched ∧
    (s.updCell n g).actAt = s.actAt ∧ (s.updCell n g).waiting = s.waiting ∧ (s.updCell n g).held = s.held ∧
    (s.updCell n g).seq = s.seq ∧ (s.updCell n g).clk = s.clk ∧ (s.updCell n g).lockmon = s.lockmon ∧
    (s.updCell n g).ctxs = s.ctxs ∧ (s.updCell n g).ctxSel = s.ctxSel ∧ (s.updCell n g).engines = s.engines ∧
    (s.updCell n g).allocPtr = s.allocPtr ∧ (s.updCell n g).allocLast = s.allocLast ∧ (s.updCell n g).segs = s.segs ∧
    (s.updCell n g).segFree = s.segFree ∧ (s.updCell n g).scenes = s.scenes ∧ (s.updCell n g).markers = s.markers ∧
    (s.updCell n g).divAt = s.divAt ∧ (s.updCell n g).voices = s.voices ∧ (s.updCell n g).summers = s.summers ∧
    (s.updCell n g).conv = s.conv ∧ (s.updCell n g).fchs = s.fchs ∧ (s.updCell n g).clrCount = s.clrCount ∧
    (s.updCell n g).pchs = s.pchs ∧ (s.updCell n g).groups = s.groups ∧ (s.updCell n g).precLinkDown = s.precLinkDown ∧
    (s.updCell n g).linkDown = s.linkDown ∧ (s.updCell n g).sql = s.sql ∧ (s.updCell n g).mem = s.mem ∧
    (s.updCell n g).banks = s.banks ∧ (s.updCell n g).bnk = s.bnk ∧ (s.updCell n g).evch = s.evch ∧
    (s.updCell n g).cons = s.cons ∧ (s.updCell n g).eos = s.eos ∧ (s.updCell n g).regs = s.regs ∧
    (s.updCell n g).slots = s.slots ∧ (s.updCell n g).inputs = s.inputs ∧ (s.updCell n g).mon = s.mon ∧
    (s.updCell n g).aocs = s.aocs ∧ (s.updCell n g).cal = s.cal ∧ (s.updCell n g).log = s.log ∧ (s.updCell n g).procs = s.procs ∧
    (s.updCell n g).tmp = s.tmp ∧ (s.updCell n g).fw = s.fw := by
  repeat' apply And.intro
  all_goals rfl

@[simp] theorem State.updCell_others (n : Nat) (g : Cell → Cell) (x : Nat) :
    (s.updCell n g).fnWin x = s.fnWin x ∧ (s.updCell n g).ctx x = s.ctx x ∧ (s.updCell n g).eng x = s.eng x ∧
    (s.updCell n g).seg x = s.seg x ∧ (s.updCell n g).scene x = s.scene x ∧ (s.updCell n g).marker x = s.marker x ∧
    (s.updCell n g).voice x = s.voice x ∧ (s.updCell n g).summer x = s.summer x ∧ (s.updCell n g).fch x = s.fch x ∧
    (s.updCell n g).pch x = s.pch x ∧ (s.updCell n g).group x = s.group x ∧ (s.updCell n g).bank x = s.bank x ∧
    (s.updCell n g).ev x = s.ev x ∧ (s.updCell n g).con x = s.con x ∧ (s.updCell n g).eo x = s.eo x ∧
    (s.updCell n g).slot x = s.slot x ∧ (s.updCell n g).input x = s.input x ∧ (s.updCell n g).aoc x = s.aoc x ∧
    (s.updCell n g).proc x = s.proc x ∧ (s.updCell n g).pc x = s.pc x ∧ (s.updCell n g).sensor x = s.sensor x ∧
    (s.updCell n g).rec_ x = s.rec_ x := by
  repeat' apply And.intro
  all_goals rfl

/-- The updated instance, and every other. -/
@[simp] theorem State.updCell_cell (n : Nat) (g : Cell → Cell) (x : Nat) :
    (s.updCell n g).cell x = if x = n then g (s.cell n) else s.cell x := Tbl.get_set

@[simp] theorem State.updSlot_fields (k : Nat) (g : Slot → Slot) :
    (s.updSlot k g).pending = s.pending ∧ (s.updSlot k g).fresh = s.fresh ∧ (s.updSlot k g).lc = s.lc ∧
    (s.updSlot k g).tb = s.tb ∧ (s.updSlot k g).power = s.power ∧ (s.updSlot k g).smb = s.smb ∧ (s.updSlot k g).out = s.out ∧
    (s.updSlot k g).fns = s.fns ∧ (s.updSlot k g).sys = s.sys ∧ (s.updSlot k g).jobs = s.jobs ∧ (s.updSlot k g).sched = s.sched ∧
    (s.updSlot k g).actAt = s.actAt ∧ (s.updSlot k g).waiting = s.waiting ∧ (s.updSlot k g).held = s.held ∧
    (s.updSlot k g).seq = s.seq ∧ (s.updSlot k g).clk = s.clk ∧ (s.updSlot k g).lockmon = s.lockmon ∧
    (s.updSlot k g).ctxs = s.ctxs ∧ (s.updSlot k g).ctxSel = s.ctxSel ∧ (s.updSlot k g).engines = s.engines ∧
    (s.updSlot k g).allocPtr = s.allocPtr ∧ (s.updSlot k g).allocLast = s.allocLast ∧ (s.updSlot k g).segs = s.segs ∧
    (s.updSlot k g).segFree = s.segFree ∧ (s.updSlot k g).scenes = s.scenes ∧ (s.updSlot k g).markers = s.markers ∧
    (s.updSlot k g).divAt = s.divAt ∧ (s.updSlot k g).voices = s.voices ∧ (s.updSlot k g).summers = s.summers ∧
    (s.updSlot k g).conv = s.conv ∧ (s.updSlot k g).fchs = s.fchs ∧ (s.updSlot k g).clrCount = s.clrCount ∧
    (s.updSlot k g).pchs = s.pchs ∧ (s.updSlot k g).groups = s.groups ∧ (s.updSlot k g).precLinkDown = s.precLinkDown ∧
    (s.updSlot k g).linkDown = s.linkDown ∧ (s.updSlot k g).sql = s.sql ∧ (s.updSlot k g).mem = s.mem ∧
    (s.updSlot k g).banks = s.banks ∧ (s.updSlot k g).bnk = s.bnk ∧ (s.updSlot k g).evch = s.evch ∧
    (s.updSlot k g).cons = s.cons ∧ (s.updSlot k g).eos = s.eos ∧ (s.updSlot k g).cells = s.cells ∧
    (s.updSlot k g).regs = s.regs ∧ (s.updSlot k g).inputs = s.inputs ∧ (s.updSlot k g).mon = s.mon ∧
    (s.updSlot k g).aocs = s.aocs ∧ (s.updSlot k g).cal = s.cal ∧ (s.updSlot k g).log = s.log ∧ (s.updSlot k g).procs = s.procs ∧
    (s.updSlot k g).tmp = s.tmp ∧ (s.updSlot k g).fw = s.fw := by
  repeat' apply And.intro
  all_goals rfl

@[simp] theorem State.updSlot_others (k : Nat) (g : Slot → Slot) (x : Nat) :
    (s.updSlot k g).fnWin x = s.fnWin x ∧ (s.updSlot k g).ctx x = s.ctx x ∧ (s.updSlot k g).eng x = s.eng x ∧
    (s.updSlot k g).seg x = s.seg x ∧ (s.updSlot k g).scene x = s.scene x ∧ (s.updSlot k g).marker x = s.marker x ∧
    (s.updSlot k g).voice x = s.voice x ∧ (s.updSlot k g).summer x = s.summer x ∧ (s.updSlot k g).fch x = s.fch x ∧
    (s.updSlot k g).pch x = s.pch x ∧ (s.updSlot k g).group x = s.group x ∧ (s.updSlot k g).bank x = s.bank x ∧
    (s.updSlot k g).ev x = s.ev x ∧ (s.updSlot k g).con x = s.con x ∧ (s.updSlot k g).eo x = s.eo x ∧
    (s.updSlot k g).cell x = s.cell x ∧ (s.updSlot k g).input x = s.input x ∧ (s.updSlot k g).aoc x = s.aoc x ∧
    (s.updSlot k g).proc x = s.proc x ∧ (s.updSlot k g).pc x = s.pc x ∧ (s.updSlot k g).sensor x = s.sensor x ∧
    (s.updSlot k g).rec_ x = s.rec_ x := by
  repeat' apply And.intro
  all_goals rfl

/-- The updated instance, and every other. -/
@[simp] theorem State.updSlot_slot (k : Nat) (g : Slot → Slot) (x : Nat) :
    (s.updSlot k g).slot x = if x = k then g (s.slot k) else s.slot x := Tbl.get_set

@[simp] theorem State.updInput_fields (i : Nat) (g : Input → Input) :
    (s.updInput i g).pending = s.pending ∧ (s.updInput i g).fresh = s.fresh ∧ (s.updInput i g).lc = s.lc ∧
    (s.updInput i g).tb = s.tb ∧ (s.updInput i g).power = s.power ∧ (s.updInput i g).smb = s.smb ∧ (s.updInput i g).out = s.out ∧
    (s.updInput i g).fns = s.fns ∧ (s.updInput i g).sys = s.sys ∧ (s.updInput i g).jobs = s.jobs ∧
    (s.updInput i g).sched = s.sched ∧ (s.updInput i g).actAt = s.actAt ∧ (s.updInput i g).waiting = s.waiting ∧
    (s.updInput i g).held = s.held ∧ (s.updInput i g).seq = s.seq ∧ (s.updInput i g).clk = s.clk ∧
    (s.updInput i g).lockmon = s.lockmon ∧ (s.updInput i g).ctxs = s.ctxs ∧ (s.updInput i g).ctxSel = s.ctxSel ∧
    (s.updInput i g).engines = s.engines ∧ (s.updInput i g).allocPtr = s.allocPtr ∧ (s.updInput i g).allocLast = s.allocLast ∧
    (s.updInput i g).segs = s.segs ∧ (s.updInput i g).segFree = s.segFree ∧ (s.updInput i g).scenes = s.scenes ∧
    (s.updInput i g).markers = s.markers ∧ (s.updInput i g).divAt = s.divAt ∧ (s.updInput i g).voices = s.voices ∧
    (s.updInput i g).summers = s.summers ∧ (s.updInput i g).conv = s.conv ∧ (s.updInput i g).fchs = s.fchs ∧
    (s.updInput i g).clrCount = s.clrCount ∧ (s.updInput i g).pchs = s.pchs ∧ (s.updInput i g).groups = s.groups ∧
    (s.updInput i g).precLinkDown = s.precLinkDown ∧ (s.updInput i g).linkDown = s.linkDown ∧ (s.updInput i g).sql = s.sql ∧
    (s.updInput i g).mem = s.mem ∧ (s.updInput i g).banks = s.banks ∧ (s.updInput i g).bnk = s.bnk ∧
    (s.updInput i g).evch = s.evch ∧ (s.updInput i g).cons = s.cons ∧ (s.updInput i g).eos = s.eos ∧
    (s.updInput i g).cells = s.cells ∧ (s.updInput i g).regs = s.regs ∧ (s.updInput i g).slots = s.slots ∧
    (s.updInput i g).mon = s.mon ∧ (s.updInput i g).aocs = s.aocs ∧ (s.updInput i g).cal = s.cal ∧ (s.updInput i g).log = s.log ∧
    (s.updInput i g).procs = s.procs ∧ (s.updInput i g).tmp = s.tmp ∧ (s.updInput i g).fw = s.fw := by
  repeat' apply And.intro
  all_goals rfl

@[simp] theorem State.updInput_others (i : Nat) (g : Input → Input) (x : Nat) :
    (s.updInput i g).fnWin x = s.fnWin x ∧ (s.updInput i g).ctx x = s.ctx x ∧ (s.updInput i g).eng x = s.eng x ∧
    (s.updInput i g).seg x = s.seg x ∧ (s.updInput i g).scene x = s.scene x ∧ (s.updInput i g).marker x = s.marker x ∧
    (s.updInput i g).voice x = s.voice x ∧ (s.updInput i g).summer x = s.summer x ∧ (s.updInput i g).fch x = s.fch x ∧
    (s.updInput i g).pch x = s.pch x ∧ (s.updInput i g).group x = s.group x ∧ (s.updInput i g).bank x = s.bank x ∧
    (s.updInput i g).ev x = s.ev x ∧ (s.updInput i g).con x = s.con x ∧ (s.updInput i g).eo x = s.eo x ∧
    (s.updInput i g).cell x = s.cell x ∧ (s.updInput i g).slot x = s.slot x ∧ (s.updInput i g).aoc x = s.aoc x ∧
    (s.updInput i g).proc x = s.proc x ∧ (s.updInput i g).pc x = s.pc x ∧ (s.updInput i g).sensor x = s.sensor x ∧
    (s.updInput i g).rec_ x = s.rec_ x := by
  repeat' apply And.intro
  all_goals rfl

/-- The updated instance, and every other. -/
@[simp] theorem State.updInput_input (i : Nat) (g : Input → Input) (x : Nat) :
    (s.updInput i g).input x = if x = i then g (s.input i) else s.input x := Tbl.get_set

@[simp] theorem State.updAoc_fields (c : Nat) (g : Aoc → Aoc) :
    (s.updAoc c g).pending = s.pending ∧ (s.updAoc c g).fresh = s.fresh ∧ (s.updAoc c g).lc = s.lc ∧ (s.updAoc c g).tb = s.tb ∧
    (s.updAoc c g).power = s.power ∧ (s.updAoc c g).smb = s.smb ∧ (s.updAoc c g).out = s.out ∧ (s.updAoc c g).fns = s.fns ∧
    (s.updAoc c g).sys = s.sys ∧ (s.updAoc c g).jobs = s.jobs ∧ (s.updAoc c g).sched = s.sched ∧ (s.updAoc c g).actAt = s.actAt ∧
    (s.updAoc c g).waiting = s.waiting ∧ (s.updAoc c g).held = s.held ∧ (s.updAoc c g).seq = s.seq ∧ (s.updAoc c g).clk = s.clk ∧
    (s.updAoc c g).lockmon = s.lockmon ∧ (s.updAoc c g).ctxs = s.ctxs ∧ (s.updAoc c g).ctxSel = s.ctxSel ∧
    (s.updAoc c g).engines = s.engines ∧ (s.updAoc c g).allocPtr = s.allocPtr ∧ (s.updAoc c g).allocLast = s.allocLast ∧
    (s.updAoc c g).segs = s.segs ∧ (s.updAoc c g).segFree = s.segFree ∧ (s.updAoc c g).scenes = s.scenes ∧
    (s.updAoc c g).markers = s.markers ∧ (s.updAoc c g).divAt = s.divAt ∧ (s.updAoc c g).voices = s.voices ∧
    (s.updAoc c g).summers = s.summers ∧ (s.updAoc c g).conv = s.conv ∧ (s.updAoc c g).fchs = s.fchs ∧
    (s.updAoc c g).clrCount = s.clrCount ∧ (s.updAoc c g).pchs = s.pchs ∧ (s.updAoc c g).groups = s.groups ∧
    (s.updAoc c g).precLinkDown = s.precLinkDown ∧ (s.updAoc c g).linkDown = s.linkDown ∧ (s.updAoc c g).sql = s.sql ∧
    (s.updAoc c g).mem = s.mem ∧ (s.updAoc c g).banks = s.banks ∧ (s.updAoc c g).bnk = s.bnk ∧ (s.updAoc c g).evch = s.evch ∧
    (s.updAoc c g).cons = s.cons ∧ (s.updAoc c g).eos = s.eos ∧ (s.updAoc c g).cells = s.cells ∧ (s.updAoc c g).regs = s.regs ∧
    (s.updAoc c g).slots = s.slots ∧ (s.updAoc c g).inputs = s.inputs ∧ (s.updAoc c g).mon = s.mon ∧ (s.updAoc c g).cal = s.cal ∧
    (s.updAoc c g).log = s.log ∧ (s.updAoc c g).procs = s.procs ∧ (s.updAoc c g).tmp = s.tmp ∧ (s.updAoc c g).fw = s.fw := by
  repeat' apply And.intro
  all_goals rfl

@[simp] theorem State.updAoc_others (c : Nat) (g : Aoc → Aoc) (x : Nat) :
    (s.updAoc c g).fnWin x = s.fnWin x ∧ (s.updAoc c g).ctx x = s.ctx x ∧ (s.updAoc c g).eng x = s.eng x ∧
    (s.updAoc c g).seg x = s.seg x ∧ (s.updAoc c g).scene x = s.scene x ∧ (s.updAoc c g).marker x = s.marker x ∧
    (s.updAoc c g).voice x = s.voice x ∧ (s.updAoc c g).summer x = s.summer x ∧ (s.updAoc c g).fch x = s.fch x ∧
    (s.updAoc c g).pch x = s.pch x ∧ (s.updAoc c g).group x = s.group x ∧ (s.updAoc c g).bank x = s.bank x ∧
    (s.updAoc c g).ev x = s.ev x ∧ (s.updAoc c g).con x = s.con x ∧ (s.updAoc c g).eo x = s.eo x ∧
    (s.updAoc c g).cell x = s.cell x ∧ (s.updAoc c g).slot x = s.slot x ∧ (s.updAoc c g).input x = s.input x ∧
    (s.updAoc c g).proc x = s.proc x ∧ (s.updAoc c g).pc x = s.pc x ∧ (s.updAoc c g).sensor x = s.sensor x ∧
    (s.updAoc c g).rec_ x = s.rec_ x := by
  repeat' apply And.intro
  all_goals rfl

/-- The updated instance, and every other. -/
@[simp] theorem State.updAoc_aoc (c : Nat) (g : Aoc → Aoc) (x : Nat) :
    (s.updAoc c g).aoc x = if x = c then g (s.aoc c) else s.aoc x := Tbl.get_set

@[simp] theorem State.updProc_fields (p : Nat) (g : Proc → Proc) :
    (s.updProc p g).pending = s.pending ∧ (s.updProc p g).fresh = s.fresh ∧ (s.updProc p g).lc = s.lc ∧
    (s.updProc p g).tb = s.tb ∧ (s.updProc p g).power = s.power ∧ (s.updProc p g).smb = s.smb ∧ (s.updProc p g).out = s.out ∧
    (s.updProc p g).fns = s.fns ∧ (s.updProc p g).sys = s.sys ∧ (s.updProc p g).jobs = s.jobs ∧ (s.updProc p g).sched = s.sched ∧
    (s.updProc p g).actAt = s.actAt ∧ (s.updProc p g).waiting = s.waiting ∧ (s.updProc p g).held = s.held ∧
    (s.updProc p g).seq = s.seq ∧ (s.updProc p g).clk = s.clk ∧ (s.updProc p g).lockmon = s.lockmon ∧
    (s.updProc p g).ctxs = s.ctxs ∧ (s.updProc p g).ctxSel = s.ctxSel ∧ (s.updProc p g).engines = s.engines ∧
    (s.updProc p g).allocPtr = s.allocPtr ∧ (s.updProc p g).allocLast = s.allocLast ∧ (s.updProc p g).segs = s.segs ∧
    (s.updProc p g).segFree = s.segFree ∧ (s.updProc p g).scenes = s.scenes ∧ (s.updProc p g).markers = s.markers ∧
    (s.updProc p g).divAt = s.divAt ∧ (s.updProc p g).voices = s.voices ∧ (s.updProc p g).summers = s.summers ∧
    (s.updProc p g).conv = s.conv ∧ (s.updProc p g).fchs = s.fchs ∧ (s.updProc p g).clrCount = s.clrCount ∧
    (s.updProc p g).pchs = s.pchs ∧ (s.updProc p g).groups = s.groups ∧ (s.updProc p g).precLinkDown = s.precLinkDown ∧
    (s.updProc p g).linkDown = s.linkDown ∧ (s.updProc p g).sql = s.sql ∧ (s.updProc p g).mem = s.mem ∧
    (s.updProc p g).banks = s.banks ∧ (s.updProc p g).bnk = s.bnk ∧ (s.updProc p g).evch = s.evch ∧
    (s.updProc p g).cons = s.cons ∧ (s.updProc p g).eos = s.eos ∧ (s.updProc p g).cells = s.cells ∧
    (s.updProc p g).regs = s.regs ∧ (s.updProc p g).slots = s.slots ∧ (s.updProc p g).inputs = s.inputs ∧
    (s.updProc p g).mon = s.mon ∧ (s.updProc p g).aocs = s.aocs ∧ (s.updProc p g).cal = s.cal ∧ (s.updProc p g).log = s.log ∧
    (s.updProc p g).tmp = s.tmp ∧ (s.updProc p g).fw = s.fw := by
  repeat' apply And.intro
  all_goals rfl

@[simp] theorem State.updProc_others (p : Nat) (g : Proc → Proc) (x : Nat) :
    (s.updProc p g).fnWin x = s.fnWin x ∧ (s.updProc p g).ctx x = s.ctx x ∧ (s.updProc p g).eng x = s.eng x ∧
    (s.updProc p g).seg x = s.seg x ∧ (s.updProc p g).scene x = s.scene x ∧ (s.updProc p g).marker x = s.marker x ∧
    (s.updProc p g).voice x = s.voice x ∧ (s.updProc p g).summer x = s.summer x ∧ (s.updProc p g).fch x = s.fch x ∧
    (s.updProc p g).pch x = s.pch x ∧ (s.updProc p g).group x = s.group x ∧ (s.updProc p g).bank x = s.bank x ∧
    (s.updProc p g).ev x = s.ev x ∧ (s.updProc p g).con x = s.con x ∧ (s.updProc p g).eo x = s.eo x ∧
    (s.updProc p g).cell x = s.cell x ∧ (s.updProc p g).slot x = s.slot x ∧ (s.updProc p g).input x = s.input x ∧
    (s.updProc p g).aoc x = s.aoc x ∧ (s.updProc p g).pc x = s.pc x ∧ (s.updProc p g).sensor x = s.sensor x ∧
    (s.updProc p g).rec_ x = s.rec_ x := by
  repeat' apply And.intro
  all_goals rfl

/-- The updated instance, and every other. -/
@[simp] theorem State.updProc_proc (p : Nat) (g : Proc → Proc) (x : Nat) :
    (s.updProc p g).proc x = if x = p then g (s.proc p) else s.proc x := Tbl.get_set

@[simp] theorem State.updMem_fields (g : Mem → Mem) :
    (s.updMem g).pending = s.pending ∧ (s.updMem g).fresh = s.fresh ∧ (s.updMem g).lc = s.lc ∧ (s.updMem g).tb = s.tb ∧
    (s.updMem g).power = s.power ∧ (s.updMem g).smb = s.smb ∧ (s.updMem g).out = s.out ∧ (s.updMem g).fns = s.fns ∧
    (s.updMem g).sys = s.sys ∧ (s.updMem g).jobs = s.jobs ∧ (s.updMem g).sched = s.sched ∧ (s.updMem g).actAt = s.actAt ∧
    (s.updMem g).waiting = s.waiting ∧ (s.updMem g).held = s.held ∧ (s.updMem g).seq = s.seq ∧ (s.updMem g).clk = s.clk ∧
    (s.updMem g).lockmon = s.lockmon ∧ (s.updMem g).ctxs = s.ctxs ∧ (s.updMem g).ctxSel = s.ctxSel ∧
    (s.updMem g).engines = s.engines ∧ (s.updMem g).allocPtr = s.allocPtr ∧ (s.updMem g).allocLast = s.allocLast ∧
    (s.updMem g).segs = s.segs ∧ (s.updMem g).segFree = s.segFree ∧ (s.updMem g).scenes = s.scenes ∧
    (s.updMem g).markers = s.markers ∧ (s.updMem g).divAt = s.divAt ∧ (s.updMem g).voices = s.voices ∧
    (s.updMem g).summers = s.summers ∧ (s.updMem g).conv = s.conv ∧ (s.updMem g).fchs = s.fchs ∧
    (s.updMem g).clrCount = s.clrCount ∧ (s.updMem g).pchs = s.pchs ∧ (s.updMem g).groups = s.groups ∧
    (s.updMem g).precLinkDown = s.precLinkDown ∧ (s.updMem g).linkDown = s.linkDown ∧ (s.updMem g).sql = s.sql ∧
    (s.updMem g).banks = s.banks ∧ (s.updMem g).bnk = s.bnk ∧ (s.updMem g).evch = s.evch ∧ (s.updMem g).cons = s.cons ∧
    (s.updMem g).eos = s.eos ∧ (s.updMem g).cells = s.cells ∧ (s.updMem g).regs = s.regs ∧ (s.updMem g).slots = s.slots ∧
    (s.updMem g).inputs = s.inputs ∧ (s.updMem g).mon = s.mon ∧ (s.updMem g).aocs = s.aocs ∧ (s.updMem g).cal = s.cal ∧
    (s.updMem g).log = s.log ∧ (s.updMem g).procs = s.procs ∧ (s.updMem g).tmp = s.tmp ∧ (s.updMem g).fw = s.fw := by
  repeat' apply And.intro
  all_goals rfl

@[simp] theorem State.updMem_others (g : Mem → Mem) (x : Nat) :
    (s.updMem g).fnWin x = s.fnWin x ∧ (s.updMem g).ctx x = s.ctx x ∧ (s.updMem g).eng x = s.eng x ∧
    (s.updMem g).seg x = s.seg x ∧ (s.updMem g).scene x = s.scene x ∧ (s.updMem g).marker x = s.marker x ∧
    (s.updMem g).voice x = s.voice x ∧ (s.updMem g).summer x = s.summer x ∧ (s.updMem g).fch x = s.fch x ∧
    (s.updMem g).pch x = s.pch x ∧ (s.updMem g).group x = s.group x ∧ (s.updMem g).bank x = s.bank x ∧
    (s.updMem g).ev x = s.ev x ∧ (s.updMem g).con x = s.con x ∧ (s.updMem g).eo x = s.eo x ∧ (s.updMem g).cell x = s.cell x ∧
    (s.updMem g).slot x = s.slot x ∧ (s.updMem g).input x = s.input x ∧ (s.updMem g).aoc x = s.aoc x ∧
    (s.updMem g).proc x = s.proc x ∧ (s.updMem g).sensor x = s.sensor x ∧ (s.updMem g).rec_ x = s.rec_ x := by
  repeat' apply And.intro
  all_goals rfl

@[simp] theorem State.updMem_mem (g : Mem → Mem) : (s.updMem g).mem = g s.mem := Eq.trans rfl rfl

@[simp] theorem State.updClk_fields (g : Clk → Clk) :
    (s.updClk g).pending = s.pending ∧ (s.updClk g).fresh = s.fresh ∧ (s.updClk g).lc = s.lc ∧ (s.updClk g).tb = s.tb ∧
    (s.updClk g).power = s.power ∧ (s.updClk g).smb = s.smb ∧ (s.updClk g).out = s.out ∧ (s.updClk g).fns = s.fns ∧
    (s.updClk g).sys = s.sys ∧ (s.updClk g).jobs = s.jobs ∧ (s.updClk g).sched = s.sched ∧ (s.updClk g).actAt = s.actAt ∧
    (s.updClk g).waiting = s.waiting ∧ (s.updClk g).held = s.held ∧ (s.updClk g).seq = s.seq ∧ (s.updClk g).lockmon = s.lockmon ∧
    (s.updClk g).ctxs = s.ctxs ∧ (s.updClk g).ctxSel = s.ctxSel ∧ (s.updClk g).engines = s.engines ∧
    (s.updClk g).allocPtr = s.allocPtr ∧ (s.updClk g).allocLast = s.allocLast ∧ (s.updClk g).segs = s.segs ∧
    (s.updClk g).segFree = s.segFree ∧ (s.updClk g).scenes = s.scenes ∧ (s.updClk g).markers = s.markers ∧
    (s.updClk g).divAt = s.divAt ∧ (s.updClk g).voices = s.voices ∧ (s.updClk g).summers = s.summers ∧
    (s.updClk g).conv = s.conv ∧ (s.updClk g).fchs = s.fchs ∧ (s.updClk g).clrCount = s.clrCount ∧ (s.updClk g).pchs = s.pchs ∧
    (s.updClk g).groups = s.groups ∧ (s.updClk g).precLinkDown = s.precLinkDown ∧ (s.updClk g).linkDown = s.linkDown ∧
    (s.updClk g).sql = s.sql ∧ (s.updClk g).mem = s.mem ∧ (s.updClk g).banks = s.banks ∧ (s.updClk g).bnk = s.bnk ∧
    (s.updClk g).evch = s.evch ∧ (s.updClk g).cons = s.cons ∧ (s.updClk g).eos = s.eos ∧ (s.updClk g).cells = s.cells ∧
    (s.updClk g).regs = s.regs ∧ (s.updClk g).slots = s.slots ∧ (s.updClk g).inputs = s.inputs ∧ (s.updClk g).mon = s.mon ∧
    (s.updClk g).aocs = s.aocs ∧ (s.updClk g).cal = s.cal ∧ (s.updClk g).log = s.log ∧ (s.updClk g).procs = s.procs ∧
    (s.updClk g).tmp = s.tmp ∧ (s.updClk g).fw = s.fw := by
  repeat' apply And.intro
  all_goals rfl

@[simp] theorem State.updClk_others (g : Clk → Clk) (x : Nat) :
    (s.updClk g).fnWin x = s.fnWin x ∧ (s.updClk g).ctx x = s.ctx x ∧ (s.updClk g).eng x = s.eng x ∧
    (s.updClk g).seg x = s.seg x ∧ (s.updClk g).scene x = s.scene x ∧ (s.updClk g).marker x = s.marker x ∧
    (s.updClk g).voice x = s.voice x ∧ (s.updClk g).summer x = s.summer x ∧ (s.updClk g).fch x = s.fch x ∧
    (s.updClk g).pch x = s.pch x ∧ (s.updClk g).group x = s.group x ∧ (s.updClk g).bank x = s.bank x ∧
    (s.updClk g).ev x = s.ev x ∧ (s.updClk g).con x = s.con x ∧ (s.updClk g).eo x = s.eo x ∧ (s.updClk g).cell x = s.cell x ∧
    (s.updClk g).slot x = s.slot x ∧ (s.updClk g).input x = s.input x ∧ (s.updClk g).aoc x = s.aoc x ∧
    (s.updClk g).proc x = s.proc x ∧ (s.updClk g).pc x = s.pc x ∧ (s.updClk g).sensor x = s.sensor x ∧
    (s.updClk g).rec_ x = s.rec_ x := by
  repeat' apply And.intro
  all_goals rfl

@[simp] theorem State.updClk_clk (g : Clk → Clk) : (s.updClk g).clk = g s.clk := Eq.trans rfl rfl

@[simp] theorem State.updSys_fields (g : Sys → Sys) :
    (s.updSys g).pending = s.pending ∧ (s.updSys g).fresh = s.fresh ∧ (s.updSys g).lc = s.lc ∧ (s.updSys g).tb = s.tb ∧
    (s.updSys g).power = s.power ∧ (s.updSys g).smb = s.smb ∧ (s.updSys g).out = s.out ∧ (s.updSys g).fns = s.fns ∧
    (s.updSys g).jobs = s.jobs ∧ (s.updSys g).sched = s.sched ∧ (s.updSys g).actAt = s.actAt ∧ (s.updSys g).waiting = s.waiting ∧
    (s.updSys g).held = s.held ∧ (s.updSys g).seq = s.seq ∧ (s.updSys g).clk = s.clk ∧ (s.updSys g).lockmon = s.lockmon ∧
    (s.updSys g).ctxs = s.ctxs ∧ (s.updSys g).ctxSel = s.ctxSel ∧ (s.updSys g).engines = s.engines ∧
    (s.updSys g).allocPtr = s.allocPtr ∧ (s.updSys g).allocLast = s.allocLast ∧ (s.updSys g).segs = s.segs ∧
    (s.updSys g).segFree = s.segFree ∧ (s.updSys g).scenes = s.scenes ∧ (s.updSys g).markers = s.markers ∧
    (s.updSys g).divAt = s.divAt ∧ (s.updSys g).voices = s.voices ∧ (s.updSys g).summers = s.summers ∧
    (s.updSys g).conv = s.conv ∧ (s.updSys g).fchs = s.fchs ∧ (s.updSys g).clrCount = s.clrCount ∧ (s.updSys g).pchs = s.pchs ∧
    (s.updSys g).groups = s.groups ∧ (s.updSys g).precLinkDown = s.precLinkDown ∧ (s.updSys g).linkDown = s.linkDown ∧
    (s.updSys g).sql = s.sql ∧ (s.updSys g).mem = s.mem ∧ (s.updSys g).banks = s.banks ∧ (s.updSys g).bnk = s.bnk ∧
    (s.updSys g).evch = s.evch ∧ (s.updSys g).cons = s.cons ∧ (s.updSys g).eos = s.eos ∧ (s.updSys g).cells = s.cells ∧
    (s.updSys g).regs = s.regs ∧ (s.updSys g).slots = s.slots ∧ (s.updSys g).inputs = s.inputs ∧ (s.updSys g).mon = s.mon ∧
    (s.updSys g).aocs = s.aocs ∧ (s.updSys g).cal = s.cal ∧ (s.updSys g).log = s.log ∧ (s.updSys g).procs = s.procs ∧
    (s.updSys g).tmp = s.tmp ∧ (s.updSys g).fw = s.fw := by
  repeat' apply And.intro
  all_goals rfl

@[simp] theorem State.updSys_others (g : Sys → Sys) (x : Nat) :
    (s.updSys g).fnWin x = s.fnWin x ∧ (s.updSys g).ctx x = s.ctx x ∧ (s.updSys g).eng x = s.eng x ∧
    (s.updSys g).seg x = s.seg x ∧ (s.updSys g).scene x = s.scene x ∧ (s.updSys g).marker x = s.marker x ∧
    (s.updSys g).voice x = s.voice x ∧ (s.updSys g).summer x = s.summer x ∧ (s.updSys g).fch x = s.fch x ∧
    (s.updSys g).pch x = s.pch x ∧ (s.updSys g).group x = s.group x ∧ (s.updSys g).bank x = s.bank x ∧
    (s.updSys g).ev x = s.ev x ∧ (s.updSys g).con x = s.con x ∧ (s.updSys g).eo x = s.eo x ∧ (s.updSys g).cell x = s.cell x ∧
    (s.updSys g).slot x = s.slot x ∧ (s.updSys g).input x = s.input x ∧ (s.updSys g).aoc x = s.aoc x ∧
    (s.updSys g).proc x = s.proc x ∧ (s.updSys g).pc x = s.pc x ∧ (s.updSys g).sensor x = s.sensor x ∧
    (s.updSys g).rec_ x = s.rec_ x := by
  repeat' apply And.intro
  all_goals rfl

@[simp] theorem State.updSys_sys (g : Sys → Sys) : (s.updSys g).sys = g s.sys := Eq.trans rfl rfl

@[simp] theorem State.updSql_fields (g : Sql → Sql) :
    (s.updSql g).pending = s.pending ∧ (s.updSql g).fresh = s.fresh ∧ (s.updSql g).lc = s.lc ∧ (s.updSql g).tb = s.tb ∧
    (s.updSql g).power = s.power ∧ (s.updSql g).smb = s.smb ∧ (s.updSql g).out = s.out ∧ (s.updSql g).fns = s.fns ∧
    (s.updSql g).sys = s.sys ∧ (s.updSql g).jobs = s.jobs ∧ (s.updSql g).sched = s.sched ∧ (s.updSql g).actAt = s.actAt ∧
    (s.updSql g).waiting = s.waiting ∧ (s.updSql g).held = s.held ∧ (s.updSql g).seq = s.seq ∧ (s.updSql g).clk = s.clk ∧
    (s.updSql g).lockmon = s.lockmon ∧ (s.updSql g).ctxs = s.ctxs ∧ (s.updSql g).ctxSel = s.ctxSel ∧
    (s.updSql g).engines = s.engines ∧ (s.updSql g).allocPtr = s.allocPtr ∧ (s.updSql g).allocLast = s.allocLast ∧
    (s.updSql g).segs = s.segs ∧ (s.updSql g).segFree = s.segFree ∧ (s.updSql g).scenes = s.scenes ∧
    (s.updSql g).markers = s.markers ∧ (s.updSql g).divAt = s.divAt ∧ (s.updSql g).voices = s.voices ∧
    (s.updSql g).summers = s.summers ∧ (s.updSql g).conv = s.conv ∧ (s.updSql g).fchs = s.fchs ∧
    (s.updSql g).clrCount = s.clrCount ∧ (s.updSql g).pchs = s.pchs ∧ (s.updSql g).groups = s.groups ∧
    (s.updSql g).precLinkDown = s.precLinkDown ∧ (s.updSql g).linkDown = s.linkDown ∧ (s.updSql g).mem = s.mem ∧
    (s.updSql g).banks = s.banks ∧ (s.updSql g).bnk = s.bnk ∧ (s.updSql g).evch = s.evch ∧ (s.updSql g).cons = s.cons ∧
    (s.updSql g).eos = s.eos ∧ (s.updSql g).cells = s.cells ∧ (s.updSql g).regs = s.regs ∧ (s.updSql g).slots = s.slots ∧
    (s.updSql g).inputs = s.inputs ∧ (s.updSql g).mon = s.mon ∧ (s.updSql g).aocs = s.aocs ∧ (s.updSql g).cal = s.cal ∧
    (s.updSql g).log = s.log ∧ (s.updSql g).procs = s.procs ∧ (s.updSql g).tmp = s.tmp ∧ (s.updSql g).fw = s.fw := by
  repeat' apply And.intro
  all_goals rfl

@[simp] theorem State.updSql_others (g : Sql → Sql) (x : Nat) :
    (s.updSql g).fnWin x = s.fnWin x ∧ (s.updSql g).ctx x = s.ctx x ∧ (s.updSql g).eng x = s.eng x ∧
    (s.updSql g).seg x = s.seg x ∧ (s.updSql g).scene x = s.scene x ∧ (s.updSql g).marker x = s.marker x ∧
    (s.updSql g).voice x = s.voice x ∧ (s.updSql g).summer x = s.summer x ∧ (s.updSql g).fch x = s.fch x ∧
    (s.updSql g).pch x = s.pch x ∧ (s.updSql g).group x = s.group x ∧ (s.updSql g).bank x = s.bank x ∧
    (s.updSql g).ev x = s.ev x ∧ (s.updSql g).con x = s.con x ∧ (s.updSql g).eo x = s.eo x ∧ (s.updSql g).cell x = s.cell x ∧
    (s.updSql g).slot x = s.slot x ∧ (s.updSql g).input x = s.input x ∧ (s.updSql g).aoc x = s.aoc x ∧
    (s.updSql g).proc x = s.proc x ∧ (s.updSql g).pc x = s.pc x ∧ (s.updSql g).sensor x = s.sensor x ∧
    (s.updSql g).rec_ x = s.rec_ x := by
  repeat' apply And.intro
  all_goals rfl

@[simp] theorem State.updSql_sql (g : Sql → Sql) : (s.updSql g).sql = g s.sql := Eq.trans rfl rfl

@[simp] theorem State.updCal_fields (g : Cal → Cal) :
    (s.updCal g).pending = s.pending ∧ (s.updCal g).fresh = s.fresh ∧ (s.updCal g).lc = s.lc ∧ (s.updCal g).tb = s.tb ∧
    (s.updCal g).power = s.power ∧ (s.updCal g).smb = s.smb ∧ (s.updCal g).out = s.out ∧ (s.updCal g).fns = s.fns ∧
    (s.updCal g).sys = s.sys ∧ (s.updCal g).jobs = s.jobs ∧ (s.updCal g).sched = s.sched ∧ (s.updCal g).actAt = s.actAt ∧
    (s.updCal g).waiting = s.waiting ∧ (s.updCal g).held = s.held ∧ (s.updCal g).seq = s.seq ∧ (s.updCal g).clk = s.clk ∧
    (s.updCal g).lockmon = s.lockmon ∧ (s.updCal g).ctxs = s.ctxs ∧ (s.updCal g).ctxSel = s.ctxSel ∧
    (s.updCal g).engines = s.engines ∧ (s.updCal g).allocPtr = s.allocPtr ∧ (s.updCal g).allocLast = s.allocLast ∧
    (s.updCal g).segs = s.segs ∧ (s.updCal g).segFree = s.segFree ∧ (s.updCal g).scenes = s.scenes ∧
    (s.updCal g).markers = s.markers ∧ (s.updCal g).divAt = s.divAt ∧ (s.updCal g).voices = s.voices ∧
    (s.updCal g).summers = s.summers ∧ (s.updCal g).conv = s.conv ∧ (s.updCal g).fchs = s.fchs ∧
    (s.updCal g).clrCount = s.clrCount ∧ (s.updCal g).pchs = s.pchs ∧ (s.updCal g).groups = s.groups ∧
    (s.updCal g).precLinkDown = s.precLinkDown ∧ (s.updCal g).linkDown = s.linkDown ∧ (s.updCal g).sql = s.sql ∧
    (s.updCal g).mem = s.mem ∧ (s.updCal g).banks = s.banks ∧ (s.updCal g).bnk = s.bnk ∧ (s.updCal g).evch = s.evch ∧
    (s.updCal g).cons = s.cons ∧ (s.updCal g).eos = s.eos ∧ (s.updCal g).cells = s.cells ∧ (s.updCal g).regs = s.regs ∧
    (s.updCal g).slots = s.slots ∧ (s.updCal g).inputs = s.inputs ∧ (s.updCal g).mon = s.mon ∧ (s.updCal g).aocs = s.aocs ∧
    (s.updCal g).log = s.log ∧ (s.updCal g).procs = s.procs ∧ (s.updCal g).tmp = s.tmp ∧ (s.updCal g).fw = s.fw := by
  repeat' apply And.intro
  all_goals rfl

@[simp] theorem State.updCal_others (g : Cal → Cal) (x : Nat) :
    (s.updCal g).fnWin x = s.fnWin x ∧ (s.updCal g).ctx x = s.ctx x ∧ (s.updCal g).eng x = s.eng x ∧
    (s.updCal g).seg x = s.seg x ∧ (s.updCal g).scene x = s.scene x ∧ (s.updCal g).marker x = s.marker x ∧
    (s.updCal g).voice x = s.voice x ∧ (s.updCal g).summer x = s.summer x ∧ (s.updCal g).fch x = s.fch x ∧
    (s.updCal g).pch x = s.pch x ∧ (s.updCal g).group x = s.group x ∧ (s.updCal g).bank x = s.bank x ∧
    (s.updCal g).ev x = s.ev x ∧ (s.updCal g).con x = s.con x ∧ (s.updCal g).eo x = s.eo x ∧ (s.updCal g).cell x = s.cell x ∧
    (s.updCal g).slot x = s.slot x ∧ (s.updCal g).input x = s.input x ∧ (s.updCal g).aoc x = s.aoc x ∧
    (s.updCal g).proc x = s.proc x ∧ (s.updCal g).pc x = s.pc x ∧ (s.updCal g).sensor x = s.sensor x := by
  repeat' apply And.intro
  all_goals rfl

@[simp] theorem State.updCal_cal (g : Cal → Cal) : (s.updCal g).cal = g s.cal := Eq.trans rfl rfl

@[simp] theorem State.updFw_fields (g : Fw → Fw) :
    (s.updFw g).pending = s.pending ∧ (s.updFw g).fresh = s.fresh ∧ (s.updFw g).lc = s.lc ∧ (s.updFw g).tb = s.tb ∧
    (s.updFw g).power = s.power ∧ (s.updFw g).smb = s.smb ∧ (s.updFw g).out = s.out ∧ (s.updFw g).fns = s.fns ∧
    (s.updFw g).sys = s.sys ∧ (s.updFw g).jobs = s.jobs ∧ (s.updFw g).sched = s.sched ∧ (s.updFw g).actAt = s.actAt ∧
    (s.updFw g).waiting = s.waiting ∧ (s.updFw g).held = s.held ∧ (s.updFw g).seq = s.seq ∧ (s.updFw g).clk = s.clk ∧
    (s.updFw g).lockmon = s.lockmon ∧ (s.updFw g).ctxs = s.ctxs ∧ (s.updFw g).ctxSel = s.ctxSel ∧
    (s.updFw g).engines = s.engines ∧ (s.updFw g).allocPtr = s.allocPtr ∧ (s.updFw g).allocLast = s.allocLast ∧
    (s.updFw g).segs = s.segs ∧ (s.updFw g).segFree = s.segFree ∧ (s.updFw g).scenes = s.scenes ∧
    (s.updFw g).markers = s.markers ∧ (s.updFw g).divAt = s.divAt ∧ (s.updFw g).voices = s.voices ∧
    (s.updFw g).summers = s.summers ∧ (s.updFw g).conv = s.conv ∧ (s.updFw g).fchs = s.fchs ∧ (s.updFw g).clrCount = s.clrCount ∧
    (s.updFw g).pchs = s.pchs ∧ (s.updFw g).groups = s.groups ∧ (s.updFw g).precLinkDown = s.precLinkDown ∧
    (s.updFw g).linkDown = s.linkDown ∧ (s.updFw g).sql = s.sql ∧ (s.updFw g).mem = s.mem ∧ (s.updFw g).banks = s.banks ∧
    (s.updFw g).bnk = s.bnk ∧ (s.updFw g).evch = s.evch ∧ (s.updFw g).cons = s.cons ∧ (s.updFw g).eos = s.eos ∧
    (s.updFw g).cells = s.cells ∧ (s.updFw g).regs = s.regs ∧ (s.updFw g).slots = s.slots ∧ (s.updFw g).inputs = s.inputs ∧
    (s.updFw g).mon = s.mon ∧ (s.updFw g).aocs = s.aocs ∧ (s.updFw g).cal = s.cal ∧ (s.updFw g).log = s.log ∧
    (s.updFw g).procs = s.procs ∧ (s.updFw g).tmp = s.tmp := by
  repeat' apply And.intro
  all_goals rfl

@[simp] theorem State.updFw_others (g : Fw → Fw) (x : Nat) :
    (s.updFw g).fnWin x = s.fnWin x ∧ (s.updFw g).ctx x = s.ctx x ∧ (s.updFw g).eng x = s.eng x ∧ (s.updFw g).seg x = s.seg x ∧
    (s.updFw g).scene x = s.scene x ∧ (s.updFw g).marker x = s.marker x ∧ (s.updFw g).voice x = s.voice x ∧
    (s.updFw g).summer x = s.summer x ∧ (s.updFw g).fch x = s.fch x ∧ (s.updFw g).pch x = s.pch x ∧
    (s.updFw g).group x = s.group x ∧ (s.updFw g).bank x = s.bank x ∧ (s.updFw g).ev x = s.ev x ∧ (s.updFw g).con x = s.con x ∧
    (s.updFw g).eo x = s.eo x ∧ (s.updFw g).cell x = s.cell x ∧ (s.updFw g).slot x = s.slot x ∧ (s.updFw g).input x = s.input x ∧
    (s.updFw g).aoc x = s.aoc x ∧ (s.updFw g).proc x = s.proc x ∧ (s.updFw g).pc x = s.pc x ∧ (s.updFw g).sensor x = s.sensor x ∧
    (s.updFw g).rec_ x = s.rec_ x := by
  repeat' apply And.intro
  all_goals rfl

@[simp] theorem State.updFw_fw (g : Fw → Fw) : (s.updFw g).fw = g s.fw := Eq.trans rfl rfl

@[simp] theorem State.updPc_fields (k : Nat) (g : Pc → Pc) :
    (s.updPc k g).pending = s.pending ∧ (s.updPc k g).fresh = s.fresh ∧ (s.updPc k g).lc = s.lc ∧ (s.updPc k g).tb = s.tb ∧
    (s.updPc k g).power = s.power ∧ (s.updPc k g).smb = s.smb ∧ (s.updPc k g).out = s.out ∧ (s.updPc k g).fns = s.fns ∧
    (s.updPc k g).sys = s.sys ∧ (s.updPc k g).jobs = s.jobs ∧ (s.updPc k g).sched = s.sched ∧ (s.updPc k g).actAt = s.actAt ∧
    (s.updPc k g).waiting = s.waiting ∧ (s.updPc k g).held = s.held ∧ (s.updPc k g).seq = s.seq ∧ (s.updPc k g).clk = s.clk ∧
    (s.updPc k g).lockmon = s.lockmon ∧ (s.updPc k g).ctxs = s.ctxs ∧ (s.updPc k g).ctxSel = s.ctxSel ∧
    (s.updPc k g).engines = s.engines ∧ (s.updPc k g).allocPtr = s.allocPtr ∧ (s.updPc k g).allocLast = s.allocLast ∧
    (s.updPc k g).segs = s.segs ∧ (s.updPc k g).segFree = s.segFree ∧ (s.updPc k g).scenes = s.scenes ∧
    (s.updPc k g).markers = s.markers ∧ (s.updPc k g).divAt = s.divAt ∧ (s.updPc k g).voices = s.voices ∧
    (s.updPc k g).summers = s.summers ∧ (s.updPc k g).conv = s.conv ∧ (s.updPc k g).fchs = s.fchs ∧
    (s.updPc k g).clrCount = s.clrCount ∧ (s.updPc k g).pchs = s.pchs ∧ (s.updPc k g).groups = s.groups ∧
    (s.updPc k g).precLinkDown = s.precLinkDown ∧ (s.updPc k g).linkDown = s.linkDown ∧ (s.updPc k g).sql = s.sql ∧
    (s.updPc k g).banks = s.banks ∧ (s.updPc k g).bnk = s.bnk ∧ (s.updPc k g).evch = s.evch ∧ (s.updPc k g).cons = s.cons ∧
    (s.updPc k g).eos = s.eos ∧ (s.updPc k g).cells = s.cells ∧ (s.updPc k g).regs = s.regs ∧ (s.updPc k g).slots = s.slots ∧
    (s.updPc k g).inputs = s.inputs ∧ (s.updPc k g).mon = s.mon ∧ (s.updPc k g).aocs = s.aocs ∧ (s.updPc k g).cal = s.cal ∧
    (s.updPc k g).log = s.log ∧ (s.updPc k g).procs = s.procs ∧ (s.updPc k g).tmp = s.tmp ∧ (s.updPc k g).fw = s.fw := by
  repeat' apply And.intro
  all_goals rfl

@[simp] theorem State.updPc_others (k : Nat) (g : Pc → Pc) (x : Nat) :
    (s.updPc k g).fnWin x = s.fnWin x ∧ (s.updPc k g).ctx x = s.ctx x ∧ (s.updPc k g).eng x = s.eng x ∧
    (s.updPc k g).seg x = s.seg x ∧ (s.updPc k g).scene x = s.scene x ∧ (s.updPc k g).marker x = s.marker x ∧
    (s.updPc k g).voice x = s.voice x ∧ (s.updPc k g).summer x = s.summer x ∧ (s.updPc k g).fch x = s.fch x ∧
    (s.updPc k g).pch x = s.pch x ∧ (s.updPc k g).group x = s.group x ∧ (s.updPc k g).bank x = s.bank x ∧
    (s.updPc k g).ev x = s.ev x ∧ (s.updPc k g).con x = s.con x ∧ (s.updPc k g).eo x = s.eo x ∧ (s.updPc k g).cell x = s.cell x ∧
    (s.updPc k g).slot x = s.slot x ∧ (s.updPc k g).input x = s.input x ∧ (s.updPc k g).aoc x = s.aoc x ∧
    (s.updPc k g).proc x = s.proc x ∧ (s.updPc k g).sensor x = s.sensor x ∧ (s.updPc k g).rec_ x = s.rec_ x := by
  repeat' apply And.intro
  all_goals rfl

@[simp] theorem State.updPc_pc (k : Nat) (g : Pc → Pc) (x : Nat) :
    (s.updPc k g).pc x = if x = k then g (s.pc k) else s.pc x := Tbl.get_set

@[simp] theorem State.updSensor_fields (k : Nat) (g : Sensor → Sensor) :
    (s.updSensor k g).pending = s.pending ∧ (s.updSensor k g).fresh = s.fresh ∧ (s.updSensor k g).lc = s.lc ∧
    (s.updSensor k g).tb = s.tb ∧ (s.updSensor k g).power = s.power ∧ (s.updSensor k g).smb = s.smb ∧
    (s.updSensor k g).out = s.out ∧ (s.updSensor k g).fns = s.fns ∧ (s.updSensor k g).sys = s.sys ∧
    (s.updSensor k g).jobs = s.jobs ∧ (s.updSensor k g).sched = s.sched ∧ (s.updSensor k g).actAt = s.actAt ∧
    (s.updSensor k g).waiting = s.waiting ∧ (s.updSensor k g).held = s.held ∧ (s.updSensor k g).seq = s.seq ∧
    (s.updSensor k g).clk = s.clk ∧ (s.updSensor k g).lockmon = s.lockmon ∧ (s.updSensor k g).ctxs = s.ctxs ∧
    (s.updSensor k g).ctxSel = s.ctxSel ∧ (s.updSensor k g).engines = s.engines ∧ (s.updSensor k g).allocPtr = s.allocPtr ∧
    (s.updSensor k g).allocLast = s.allocLast ∧ (s.updSensor k g).segs = s.segs ∧ (s.updSensor k g).segFree = s.segFree ∧
    (s.updSensor k g).scenes = s.scenes ∧ (s.updSensor k g).markers = s.markers ∧ (s.updSensor k g).divAt = s.divAt ∧
    (s.updSensor k g).voices = s.voices ∧ (s.updSensor k g).summers = s.summers ∧ (s.updSensor k g).conv = s.conv ∧
    (s.updSensor k g).fchs = s.fchs ∧ (s.updSensor k g).clrCount = s.clrCount ∧ (s.updSensor k g).pchs = s.pchs ∧
    (s.updSensor k g).groups = s.groups ∧ (s.updSensor k g).precLinkDown = s.precLinkDown ∧
    (s.updSensor k g).linkDown = s.linkDown ∧ (s.updSensor k g).sql = s.sql ∧ (s.updSensor k g).mem = s.mem ∧
    (s.updSensor k g).banks = s.banks ∧ (s.updSensor k g).bnk = s.bnk ∧ (s.updSensor k g).evch = s.evch ∧
    (s.updSensor k g).cons = s.cons ∧ (s.updSensor k g).eos = s.eos ∧ (s.updSensor k g).cells = s.cells ∧
    (s.updSensor k g).regs = s.regs ∧ (s.updSensor k g).slots = s.slots ∧ (s.updSensor k g).inputs = s.inputs ∧
    (s.updSensor k g).mon = s.mon ∧ (s.updSensor k g).aocs = s.aocs ∧ (s.updSensor k g).cal = s.cal ∧
    (s.updSensor k g).log = s.log ∧ (s.updSensor k g).procs = s.procs ∧ (s.updSensor k g).fw = s.fw := by
  repeat' apply And.intro
  all_goals rfl

@[simp] theorem State.updSensor_others (k : Nat) (g : Sensor → Sensor) (x : Nat) :
    (s.updSensor k g).fnWin x = s.fnWin x ∧ (s.updSensor k g).ctx x = s.ctx x ∧ (s.updSensor k g).eng x = s.eng x ∧
    (s.updSensor k g).seg x = s.seg x ∧ (s.updSensor k g).scene x = s.scene x ∧ (s.updSensor k g).marker x = s.marker x ∧
    (s.updSensor k g).voice x = s.voice x ∧ (s.updSensor k g).summer x = s.summer x ∧ (s.updSensor k g).fch x = s.fch x ∧
    (s.updSensor k g).pch x = s.pch x ∧ (s.updSensor k g).group x = s.group x ∧ (s.updSensor k g).bank x = s.bank x ∧
    (s.updSensor k g).ev x = s.ev x ∧ (s.updSensor k g).con x = s.con x ∧ (s.updSensor k g).eo x = s.eo x ∧
    (s.updSensor k g).cell x = s.cell x ∧ (s.updSensor k g).slot x = s.slot x ∧ (s.updSensor k g).input x = s.input x ∧
    (s.updSensor k g).aoc x = s.aoc x ∧ (s.updSensor k g).proc x = s.proc x ∧ (s.updSensor k g).pc x = s.pc x ∧
    (s.updSensor k g).rec_ x = s.rec_ x := by
  repeat' apply And.intro
  all_goals rfl

@[simp] theorem State.updSensor_sensor (k : Nat) (g : Sensor → Sensor) (x : Nat) :
    (s.updSensor k g).sensor x = if x = k then g (s.sensor k) else s.sensor x := Tbl.get_set

@[simp] theorem State.updRec_fields (k : Nat) (g : CalRec → CalRec) :
    (s.updRec k g).pending = s.pending ∧ (s.updRec k g).fresh = s.fresh ∧ (s.updRec k g).lc = s.lc ∧ (s.updRec k g).tb = s.tb ∧
    (s.updRec k g).power = s.power ∧ (s.updRec k g).smb = s.smb ∧ (s.updRec k g).out = s.out ∧ (s.updRec k g).fns = s.fns ∧
    (s.updRec k g).sys = s.sys ∧ (s.updRec k g).jobs = s.jobs ∧ (s.updRec k g).sched = s.sched ∧ (s.updRec k g).actAt = s.actAt ∧
    (s.updRec k g).waiting = s.waiting ∧ (s.updRec k g).held = s.held ∧ (s.updRec k g).seq = s.seq ∧ (s.updRec k g).clk = s.clk ∧
    (s.updRec k g).lockmon = s.lockmon ∧ (s.updRec k g).ctxs = s.ctxs ∧ (s.updRec k g).ctxSel = s.ctxSel ∧
    (s.updRec k g).engines = s.engines ∧ (s.updRec k g).allocPtr = s.allocPtr ∧ (s.updRec k g).allocLast = s.allocLast ∧
    (s.updRec k g).segs = s.segs ∧ (s.updRec k g).segFree = s.segFree ∧ (s.updRec k g).scenes = s.scenes ∧
    (s.updRec k g).markers = s.markers ∧ (s.updRec k g).divAt = s.divAt ∧ (s.updRec k g).voices = s.voices ∧
    (s.updRec k g).summers = s.summers ∧ (s.updRec k g).conv = s.conv ∧ (s.updRec k g).fchs = s.fchs ∧
    (s.updRec k g).clrCount = s.clrCount ∧ (s.updRec k g).pchs = s.pchs ∧ (s.updRec k g).groups = s.groups ∧
    (s.updRec k g).precLinkDown = s.precLinkDown ∧ (s.updRec k g).linkDown = s.linkDown ∧ (s.updRec k g).sql = s.sql ∧
    (s.updRec k g).mem = s.mem ∧ (s.updRec k g).banks = s.banks ∧ (s.updRec k g).bnk = s.bnk ∧ (s.updRec k g).evch = s.evch ∧
    (s.updRec k g).cons = s.cons ∧ (s.updRec k g).eos = s.eos ∧ (s.updRec k g).cells = s.cells ∧ (s.updRec k g).regs = s.regs ∧
    (s.updRec k g).slots = s.slots ∧ (s.updRec k g).inputs = s.inputs ∧ (s.updRec k g).mon = s.mon ∧
    (s.updRec k g).aocs = s.aocs ∧ (s.updRec k g).log = s.log ∧ (s.updRec k g).procs = s.procs ∧ (s.updRec k g).tmp = s.tmp ∧
    (s.updRec k g).fw = s.fw := by
  repeat' apply And.intro
  all_goals rfl

@[simp] theorem State.updRec_others (k : Nat) (g : CalRec → CalRec) (x : Nat) :
    (s.updRec k g).fnWin x = s.fnWin x ∧ (s.updRec k g).ctx x = s.ctx x ∧ (s.updRec k g).eng x = s.eng x ∧
    (s.updRec k g).seg x = s.seg x ∧ (s.updRec k g).scene x = s.scene x ∧ (s.updRec k g).marker x = s.marker x ∧
    (s.updRec k g).voice x = s.voice x ∧ (s.updRec k g).summer x = s.summer x ∧ (s.updRec k g).fch x = s.fch x ∧
    (s.updRec k g).pch x = s.pch x ∧ (s.updRec k g).group x = s.group x ∧ (s.updRec k g).bank x = s.bank x ∧
    (s.updRec k g).ev x = s.ev x ∧ (s.updRec k g).con x = s.con x ∧ (s.updRec k g).eo x = s.eo x ∧
    (s.updRec k g).cell x = s.cell x ∧ (s.updRec k g).slot x = s.slot x ∧ (s.updRec k g).input x = s.input x ∧
    (s.updRec k g).aoc x = s.aoc x ∧ (s.updRec k g).proc x = s.proc x ∧ (s.updRec k g).pc x = s.pc x ∧
    (s.updRec k g).sensor x = s.sensor x := by
  repeat' apply And.intro
  all_goals rfl

@[simp] theorem State.updRec_rec_ (k : Nat) (g : CalRec → CalRec) (x : Nat) :
    (s.updRec k g).rec_ x = if x = k then g (s.rec_ k) else s.rec_ x := Tbl.get_set

end Sys2Proof.Machine
end

