-- ==== Sys2Proof/Laws/Packets.lean ====
section
/-! SUPPORT. What the shared packet operations do: a packet that starts at once has its opcode's effect, and a completion adds
one entry to the completions held. -/
namespace Sys2Proof.Machine

variable {op : Op} {p : Pkt} {s : State}

@[simp] theorem State.ring_eq (f r : Nat) : s.ring f r = (s.fnWin f).ring r := Eq.trans rfl rfl

/-- Seeing a packet takes one place in the order of acceptance and changes nothing else. -/
@[simp] theorem State.seen_fields :
    s.seen.seq = s.seq + 1 ∧ s.seen.held = s.held ∧ s.seen.tb = s.tb ∧ s.seen.lc = s.lc ∧ s.seen.jobs = s.jobs ∧
    s.seen.sched = s.sched ∧ s.seen.out = s.out ∧ s.seen.sys = s.sys ∧ s.seen.clk = s.clk ∧ s.seen.fns = s.fns ∧
    s.seen.sql = s.sql ∧ s.seen.bnk = s.bnk ∧ s.seen.mem = s.mem ∧ s.seen.cal = s.cal ∧ s.seen.fw = s.fw ∧
    s.seen.log = s.log ∧ s.seen.power = s.power ∧ s.seen.fresh = s.fresh ∧ s.seen.waiting = s.waiting ∧
    s.seen.regs = s.regs ∧ s.seen.mon = s.mon ∧ s.seen.tmp = s.tmp ∧ s.seen.smb = s.smb ∧ s.seen.segFree = s.segFree ∧
    s.seen.allocPtr = s.allocPtr ∧ s.seen.divAt = s.divAt := by
  repeat' apply And.intro
  all_goals rfl

@[simp] theorem State.seen_others (x : Nat) :
    s.seen.fnWin x = s.fnWin x ∧ s.seen.ctx x = s.ctx x ∧ s.seen.eng x = s.eng x ∧ s.seen.seg x = s.seg x ∧
    s.seen.scene x = s.scene x ∧ s.seen.marker x = s.marker x ∧ s.seen.voice x = s.voice x ∧ s.seen.summer x = s.summer x ∧
    s.seen.fch x = s.fch x ∧ s.seen.pch x = s.pch x ∧ s.seen.group x = s.group x ∧ s.seen.bank x = s.bank x ∧
    s.seen.ev x = s.ev x ∧ s.seen.con x = s.con x ∧ s.seen.eo x = s.eo x ∧ s.seen.cell x = s.cell x ∧
    s.seen.slot x = s.slot x ∧ s.seen.input x = s.input x ∧ s.seen.aoc x = s.aoc x ∧ s.seen.proc x = s.proc x ∧
    s.seen.pc x = s.pc x ∧ s.seen.sensor x = s.sensor x ∧ s.seen.rec_ x = s.rec_ x := by
  repeat' apply And.intro
  all_goals rfl

/-- What a packet's own run carries. -/
@[simp] theorem newRun_fields :
    (newRun op p s).op = op ∧ (newRun op p s).p = p ∧ (newRun op p s).timed = false ∧ (newRun op p s).ranLate = false ∧
    (newRun op p s).skipped = 0 ∧ (newRun op p s).born = s.lc ∧ (newRun op p s).seq = s.seq ∧
    (newRun op p s).gen = (s.ctx p.ctx).gen := by
  repeat' apply And.intro
  all_goals rfl

/-- What `startsNow` says, part by part. -/
theorem startsNow_iff : startsNow op p s = true ↔
    s.power.pwrgd = true ∧ s.mgmtUp = true ∧ blocked (newRun op p s) s.seen = false ∧ p.act = 0 ∧
    preChecks (newRun op p s) s.seen = none ∧ (meaningOf op).accept (newRun op p s) s.seen = none ∧
    periodCheck op p = none ∧ (meaningOf op).check (newRun op p s) s.seen = none := by
  simp [startsNow, and_assoc]

/-- A packet that starts at once has its effect, and one with a PERIOD then completes or waits for its next repetition. -/
theorem submit_startsNow (h : startsNow op p s = true) :
    submit op (meaningOf op) p s =
      if periodic op then
        finishRep (newRun op p s) s.tb (periodOf op p) (repeatOf op p) ((meaningOf op).act (newRun op p s) s.seen)
      else (meaningOf op).act (newRun op p s) s.seen := by
  obtain ⟨hp, hm, hb, ha, h1, h2, h3, h4⟩ := startsNow_iff.1 h
  have hm' : s.seen.mgmtUp = true := hm
  have hl : submit op (meaningOf op) p s = launch (meaningOf op) (newRun op p s) s.seen := by
    have hu : submit op (meaningOf op) p s =
        if (!s.power.pwrgd) = true then s.seen
        else if (!s.mgmtUp || blocked (newRun op p s) s.seen) = true then
          { s.seen with waiting := s.seen.waiting ++ [newRun op p s] }
        else launch (meaningOf op) (newRun op p s) s.seen := rfl
    rw [hu]; simp [hp, hm, hb]
  simp [hl, launch, h1, h2, orElse, ha, perform, h3, h4]

/-- A packet that starts at once and has no PERIOD has its opcode's effect. -/
theorem submit_act (h : startsNow op p s = true) (hp : periodic op = false) :
    submit op (meaningOf op) p s = (meaningOf op).act (newRun op p s) s.seen := by
  rw [submit_startsNow h]; simp [hp]

/-- A final completion joins those held; no other field changes but FW_LAST, of FW_SCHEDULE. -/
theorem State.complete_eq (t : State) (st : Status) (res : Nat) (hop : op ≠ .fwSchedule) (hs : t.seq = s.seq + 1 := by rfl) :
    t.complete (newRun op p s) st res = { t with held := t.held ++ [finalOf op p st res t] } := by
  simp [State.complete, State.completeAt, State.cplAt, State.noteLast, finalOf, newRun, hop, State.ring, FnWin.ring, hs]

/-- A packet command submits its packet under its opcode's meaning. -/
theorem exec_packet {c : Instr} (h : packetOf c = some (op, p)) : exec c s = .next (submit op (meaningOf op) p s) := by
  cases c <;> first | (cases h; rfl) | (exact absurd h (by simp [packetOf]))

/-- A packet that nothing holds back is launched. -/
theorem submit_launch (hp : s.power.pwrgd = true) (hm : s.mgmtUp = true) (hb : blocked (newRun op p s) s.seen = false) (m) :
    submit op m p s = launch m (newRun op p s) s.seen := by
  have hu : submit op m p s =
      if (!s.power.pwrgd) = true then s.seen
      else if (!s.mgmtUp || blocked (newRun op p s) s.seen) = true then
        { s.seen with waiting := s.seen.waiting ++ [newRun op p s] }
      else launch m (newRun op p s) s.seen := rfl
  rw [hu]; simp [hp, hm, hb]

/-- A final completion: one entry joins those held, and FW_SCHEDULE's is noted in FW_LAST. -/
theorem complete_run (t : State) (st : Status) (res : Nat) (hs : t.seq = s.seq + 1 := by rfl) :
    t.complete (newRun op p s) st res = { t with
      held := t.held ++ [finalOf op p st res t]
      fw := if op = .fwSchedule then { t.fw with lastStatus := BitVec.ofNat 8 (statusByte st), lastResult := BitVec.ofNat 24 res } else t.fw } := by
  by_cases hop : op = .fwSchedule
  · subst hop
    simp [State.complete, State.completeAt, State.cplAt, State.noteLast, finalOf, newRun, State.ring, FnWin.ring, State.updFw, hs]
  · rw [State.complete_eq t st res hop hs, if_neg hop]

/-- An untimed packet's final completion, and a packet that goes on. -/
theorem State.complete_answered (t : State) (st : Status) (res : Nat) (hop : op ≠ .fwSchedule) (hs : t.seq = s.seq + 1 := by rfl) :
    t.complete (newRun op p s) st res = t.answered op p st res := State.complete_eq t st res hop hs

/-- An answer whose state is one with a final completion. -/
theorem next_answered {x t : State} {st : Status} {res : Nat} (e : x = t.complete (newRun op p s) st res)
    (hop : op ≠ .fwSchedule := by decide) (hs : t.seq = s.seq + 1 := by rfl) :
    (Host.Outcome.next x : Host.Outcome State Fault Refusal) = .next (t.answered op p st res) := by
  rw [e, State.complete_answered _ _ _ hop hs]

/-- Two answers of one state. -/
theorem next_eq {a b : State} (h : a = b) : (Host.Outcome.next a : Host.Outcome State Fault Refusal) = .next b := congrArg _ h

theorem State.addJob_going (t : State) (k : JobKind) : t.addJob (newRun op p s) k = t.going op p k s := Eq.trans rfl rfl

/-! What a completion and a job leave alone. -/

@[simp] theorem State.answered_others {t : State} {st : Status} {res : Nat} (x : Nat) :
    (t.answered op p st res).fnWin x = t.fnWin x ∧ (t.answered op p st res).ctx x = t.ctx x ∧ (t.answered op p st res).eng x = t.eng x ∧
    (t.answered op p st res).seg x = t.seg x ∧ (t.answered op p st res).scene x = t.scene x ∧ (t.answered op p st res).marker x = t.marker x ∧
    (t.answered op p st res).voice x = t.voice x ∧ (t.answered op p st res).summer x = t.summer x ∧ (t.answered op p st res).fch x = t.fch x ∧
    (t.answered op p st res).pch x = t.pch x ∧ (t.answered op p st res).group x = t.group x ∧ (t.answered op p st res).bank x = t.bank x ∧
    (t.answered op p st res).ev x = t.ev x ∧ (t.answered op p st res).con x = t.con x ∧ (t.answered op p st res).eo x = t.eo x ∧
    (t.answered op p st res).cell x = t.cell x ∧ (t.answered op p st res).slot x = t.slot x ∧ (t.answered op p st res).input x = t.input x ∧
    (t.answered op p st res).aoc x = t.aoc x ∧ (t.answered op p st res).proc x = t.proc x ∧ (t.answered op p st res).pc x = t.pc x ∧
    (t.answered op p st res).sensor x = t.sensor x ∧ (t.answered op p st res).rec_ x = t.rec_ x := by
  repeat' apply And.intro
  all_goals rfl

@[simp] theorem State.going_others {t : State} {k : JobKind} (x : Nat) :
    (t.going op p k s).fnWin x = t.fnWin x ∧ (t.going op p k s).ctx x = t.ctx x ∧ (t.going op p k s).eng x = t.eng x ∧
    (t.going op p k s).seg x = t.seg x ∧ (t.going op p k s).scene x = t.scene x ∧ (t.going op p k s).marker x = t.marker x ∧
    (t.going op p k s).voice x = t.voice x ∧ (t.going op p k s).summer x = t.summer x ∧ (t.going op p k s).fch x = t.fch x ∧
    (t.going op p k s).pch x = t.pch x ∧ (t.going op p k s).group x = t.group x ∧ (t.going op p k s).bank x = t.bank x ∧
    (t.going op p k s).ev x = t.ev x ∧ (t.going op p k s).con x = t.con x ∧ (t.going op p k s).eo x = t.eo x ∧
    (t.going op p k s).cell x = t.cell x ∧ (t.going op p k s).slot x = t.slot x ∧ (t.going op p k s).input x = t.input x ∧
    (t.going op p k s).aoc x = t.aoc x ∧ (t.going op p k s).proc x = t.proc x ∧ (t.going op p k s).pc x = t.pc x ∧
    (t.going op p k s).sensor x = t.sensor x ∧ (t.going op p k s).rec_ x = t.rec_ x := by
  repeat' apply And.intro
  all_goals rfl

/-- A packet of no period that starts at once has its opcode's effect. -/
theorem exec_act {c : Instr} (hc : packetOf c = some (op, p)) (hp : periodic op = false) (h : startsNow op p s = true) :
    exec c s = .next ((meaningOf op).act (newRun op p s) s.seen) := by
  rw [exec_packet hc, submit_act h hp]

/-- What `acceptsNow` says, part by part. -/
theorem acceptsNow_iff : acceptsNow op p s = true ↔
    s.power.pwrgd = true ∧ s.mgmtUp = true ∧ blocked (newRun op p s) s.seen = false ∧ p.act ≠ 0 ∧
    s.tb.toNat + leadOf op ≤ p.act.toNat ∧ preChecks (newRun op p s) s.seen = none ∧
    (meaningOf op).accept (newRun op p s) s.seen = none ∧ s.countSched (fun t => t.run.timed) < 4096 ∧
    s.countSched (fun t => t.run.timed && decide (t.run.p.fn = p.fn)) < 1024 := by
  simp [acceptsNow, and_assoc]

/-- A timed packet that is accepted is held by the scheduler, and then has what its opcode does at acceptance. -/
theorem exec_accept {c : Instr} (hc : packetOf c = some (op, p)) (h : acceptsNow op p s = true) :
    exec c s = .next ((meaningOf op).hold { newRun op p s with timed := true, seq := s.seq + 1 } (s.accepting op p)) := by
  obtain ⟨hp, hm, hb, ha, hl, h1, h2, h3, h4⟩ := acceptsNow_iff.1 h
  rw [exec_packet hc, submit_launch hp hm hb]
  have k1 : ¬ (newRun op p s).p.act = 0 := ha
  have k2 : ¬ (newRun op p s).p.act.toNat < s.seen.tb.toNat + leadOf (newRun op p s).op := by simp; omega
  have k3 : ¬ (4096 ≤ s.seen.countSched (fun t => t.run.timed) ||
      1024 ≤ s.seen.countSched (fun t => t.run.timed && decide (t.run.p.fn = (newRun op p s).p.fn))) = true := by
    simp [State.countSched] at *; omega
  simp -zeta only [launch, h1, h2, orElse, if_neg k1, if_neg k2]
  unfold holdTimed
  rw [if_neg k3]
  rfl

end Sys2Proof.Machine
end

