-- ==== Sys2Proof/Laws/Keeps.lean ====
section
/-! SUPPORT. What the shared operations leave alone: the order of acceptance, the queue of waiting commands and every byte of
both waveform memories. -/
namespace Sys2Proof.Machine

/-- What almost every operation leaves alone: the next place in the order of acceptance, the queue, and the contents of DRAM and of the
banks. A whole command keeps all but the first. -/
def State.kept (s : State) : Nat × List Instr × Memory × Memory := (s.seq, s.pending, s.sql.dram, s.bnk.ram)

/-- The four parts, as one term that simp leaves together. -/
def keptOf (n : Nat) (q : List Instr) (d r : Memory) : Nat × List Instr × Memory × Memory := (n, q, d, r)

variable {s t : State}

theorem State.kept_iff : t.kept = s.kept ↔ t.seq = s.seq ∧ t.pending = s.pending ∧ t.sql.dram = s.sql.dram ∧ t.bnk.ram = s.bnk.ram := by
  simp [State.kept]

/-- An operation that keeps them keeps the order of acceptance. -/
theorem State.seq_of_kept (h : t.kept = s.kept) : t.seq = s.seq := (State.kept_iff.1 h).1

@[simp] theorem State.kept_eta : keptOf s.seq s.pending s.sql.dram s.bnk.ram = s.kept := Prod.ext rfl rfl
@[simp] theorem State.kept_eta' : ((s.pending, s.sql.dram, s.bnk.ram) : List Instr × Memory × Memory) = s.kept.2 := Prod.ext rfl rfl
@[simp] theorem keptOf_snd {n : Nat} {q : List Instr} {d r : Memory} : (keptOf n q d r).2 = (q, d, r) := Prod.ext rfl rfl

@[simp] theorem State.kept_mk {x_pending x_fresh x_lc x_tb x_power x_smb x_out x_fns x_sys x_jobs x_sched x_actAt x_waiting x_held x_seq x_clk x_lockmon x_ctxs
    x_ctxSel x_engines x_allocPtr x_allocLast x_segs x_segFree x_scenes x_markers x_divAt x_voices x_summers x_conv x_fchs
    x_clrCount x_pchs x_groups x_precLinkDown x_linkDown x_sql x_mem x_banks x_bnk x_evch x_cons x_eos x_cells x_regs x_slots
    x_inputs x_mon x_aocs x_cal x_log x_procs x_tmp x_fw} :
    (State.mk x_pending x_fresh x_lc x_tb x_power x_smb x_out x_fns x_sys x_jobs x_sched x_actAt x_waiting x_held x_seq x_clk x_lockmon x_ctxs
    x_ctxSel x_engines x_allocPtr x_allocLast x_segs x_segFree x_scenes x_markers x_divAt x_voices x_summers x_conv x_fchs
    x_clrCount x_pchs x_groups x_precLinkDown x_linkDown x_sql x_mem x_banks x_bnk x_evch x_cons x_eos x_cells x_regs x_slots
    x_inputs x_mon x_aocs x_cal x_log x_procs x_tmp x_fw).kept = keptOf x_seq x_pending x_sql.dram x_bnk.ram := Prod.ext rfl rfl

@[simp] theorem State.ite_kept {c : Prop} [Decidable c] : (if c then s else t).kept = if c then s.kept else t.kept :=
  apply_ite State.kept c s t

@[simp] theorem State.updSql_kept {g : Sql → Sql} : (s.updSql g).kept = keptOf s.seq s.pending (g s.sql).dram s.bnk.ram := Prod.ext rfl rfl

/-- A run of steps that each keep it keeps it. -/
@[simp] theorem State.foldl_kept {α : Type} {f : State → α → State} {l : List α} (h : ∀ s a, (f s a).kept = s.kept) :
    (l.foldl f s).kept = s.kept := by
  induction l generalizing s with
  | nil => rfl
  | cons a l ih => rw [List.foldl_cons, ih, h]

@[simp] theorem State.each_kept {f : Nat → State → State} {l : List Nat} (h : ∀ k s, (f k s).kept = s.kept) :
    (s.each l f).kept = s.kept := by
  induction l generalizing s with
  | nil => rfl
  | cons a l ih => rw [State.each, ih, h]

/-- What an outcome's next state keeps. -/
def outKept (a : Ans) : Option (List Instr × Memory × Memory) :=
  match a with
  | .next s => some s.kept.2
  | _ => none

@[simp] theorem outKept_next : outKept (.next s) = some s.kept.2 := rfl
@[simp] theorem outKept_ite {c : Prop} [Decidable c] {a b : Ans} :
    outKept (if c then a else b) = if c then outKept a else outKept b := apply_ite outKept c a b

/-! ### Operations that write the memories: the queue stays, and the memories stay canonical -/

/-- Both memories are canonical. -/
def bothWf (m : Memory × Memory) : Prop := Memory.wf m.1 ∧ Memory.wf m.2

theorem State.memWf_iff : s.MemWf ↔ bothWf s.kept.2.2 := Iff.rfl

/-- What every operation does from one queue and pair of memories to another. -/
def Good (k k' : List Instr × Memory × Memory) : Prop := k'.1 = k.1 ∧ (bothWf k.2 → bothWf k'.2)

variable {k k' : List Instr × Memory × Memory}

@[simp] theorem Good.refl : Good k k := ⟨Eq.trans rfl rfl, id⟩

/-- A run of steps that are each good is good. -/
theorem Good.foldl {α : Type} {f : State → α → State} {l : List α} (h : ∀ s a, Good k s.kept.2 → Good k (f s a).kept.2)
    (hs : Good k s.kept.2) : Good k (l.foldl f s).kept.2 := by
  induction l generalizing s with
  | nil => exact hs
  | cons a l ih => exact ih (h s a hs)

theorem Good.each {f : Nat → State → State} {l : List Nat} (h : ∀ n s, Good k s.kept.2 → Good k (f n s).kept.2)
    (hs : Good k s.kept.2) : Good k (s.each l f).kept.2 := by
  induction l generalizing s with
  | nil => exact hs
  | cons a l ih => exact ih (h a s hs)

/-- An outcome with a next state that is good. -/
def outGood (k : List Instr × Memory × Memory) (a : Ans) : Prop := ∃ t, a = .next t ∧ Good k t.kept.2

@[simp] theorem outGood_next : outGood k (.next t) ↔ Good k t.kept.2 :=
  ⟨fun ⟨_, h, g⟩ => by cases h; exact g, fun g => ⟨t, rfl, g⟩⟩

theorem outGood.of_kept {a : Ans} (h : outKept a = some s.kept.2) : outGood s.kept.2 a := by
  cases a with
  | next t => exact ⟨t, rfl, by rw [Option.some.inj h]; exact .refl⟩
  | fault _ => cases h
  | refused _ => cases h

/-! ### The updates of one array or block -/

@[simp] theorem State.updFn_kept {a0 a1} : (s.updFn a0 a1).kept = s.kept := State.kept_iff.2 ⟨rfl, rfl, rfl, rfl⟩
@[simp] theorem State.updRing_kept {a0 a1 a2} : (s.updRing a0 a1 a2).kept = s.kept := State.kept_iff.2 ⟨rfl, rfl, rfl, rfl⟩
@[simp] theorem State.updCq_kept {a0 a1 a2} : (s.updCq a0 a1 a2).kept = s.kept := State.kept_iff.2 ⟨rfl, rfl, rfl, rfl⟩
@[simp] theorem State.updCtx_kept {a0 a1} : (s.updCtx a0 a1).kept = s.kept := State.kept_iff.2 ⟨rfl, rfl, rfl, rfl⟩
@[simp] theorem State.updJump_kept {a0 a1 a2} : (s.updJump a0 a1 a2).kept = s.kept := State.kept_iff.2 ⟨rfl, rfl, rfl, rfl⟩
@[simp] theorem State.updEng_kept {a0 a1} : (s.updEng a0 a1).kept = s.kept := State.kept_iff.2 ⟨rfl, rfl, rfl, rfl⟩
@[simp] theorem State.updSeg_kept {a0 a1} : (s.updSeg a0 a1).kept = s.kept := State.kept_iff.2 ⟨rfl, rfl, rfl, rfl⟩
@[simp] theorem State.updScene_kept {a0 a1} : (s.updScene a0 a1).kept = s.kept := State.kept_iff.2 ⟨rfl, rfl, rfl, rfl⟩
@[simp] theorem State.updMarker_kept {a0 a1} : (s.updMarker a0 a1).kept = s.kept := State.kept_iff.2 ⟨rfl, rfl, rfl, rfl⟩
@[simp] theorem State.updVoice_kept {a0 a1} : (s.updVoice a0 a1).kept = s.kept := State.kept_iff.2 ⟨rfl, rfl, rfl, rfl⟩
@[simp] theorem State.updSummer_kept {a0 a1} : (s.updSummer a0 a1).kept = s.kept := State.kept_iff.2 ⟨rfl, rfl, rfl, rfl⟩
@[simp] theorem State.updFch_kept {a0 a1} : (s.updFch a0 a1).kept = s.kept := State.kept_iff.2 ⟨rfl, rfl, rfl, rfl⟩
@[simp] theorem State.updPch_kept {a0 a1} : (s.updPch a0 a1).kept = s.kept := State.kept_iff.2 ⟨rfl, rfl, rfl, rfl⟩
@[simp] theorem State.updGroup_kept {a0 a1} : (s.updGroup a0 a1).kept = s.kept := State.kept_iff.2 ⟨rfl, rfl, rfl, rfl⟩
@[simp] theorem State.updMem_kept {a0} : (s.updMem a0).kept = s.kept := State.kept_iff.2 ⟨rfl, rfl, rfl, rfl⟩
@[simp] theorem State.updPc_kept {a0 a1} : (s.updPc a0 a1).kept = s.kept := State.kept_iff.2 ⟨rfl, rfl, rfl, rfl⟩
@[simp] theorem State.updDBank_kept {a0 a1 a2} : (s.updDBank a0 a1 a2).kept = s.kept := State.kept_iff.2 ⟨rfl, rfl, rfl, rfl⟩
@[simp] theorem State.updBank_kept {a0 a1} : (s.updBank a0 a1).kept = s.kept := State.kept_iff.2 ⟨rfl, rfl, rfl, rfl⟩
@[simp] theorem State.updEv_kept {a0 a1} : (s.updEv a0 a1).kept = s.kept := State.kept_iff.2 ⟨rfl, rfl, rfl, rfl⟩
@[simp] theorem State.updCon_kept {a0 a1} : (s.updCon a0 a1).kept = s.kept := State.kept_iff.2 ⟨rfl, rfl, rfl, rfl⟩
@[simp] theorem State.updEo_kept {a0 a1} : (s.updEo a0 a1).kept = s.kept := State.kept_iff.2 ⟨rfl, rfl, rfl, rfl⟩
@[simp] theorem State.updCell_kept {a0 a1} : (s.updCell a0 a1).kept = s.kept := State.kept_iff.2 ⟨rfl, rfl, rfl, rfl⟩
@[simp] theorem State.updSlot_kept {a0 a1} : (s.updSlot a0 a1).kept = s.kept := State.kept_iff.2 ⟨rfl, rfl, rfl, rfl⟩
@[simp] theorem State.updInput_kept {a0 a1} : (s.updInput a0 a1).kept = s.kept := State.kept_iff.2 ⟨rfl, rfl, rfl, rfl⟩
@[simp] theorem State.updAoc_kept {a0 a1} : (s.updAoc a0 a1).kept = s.kept := State.kept_iff.2 ⟨rfl, rfl, rfl, rfl⟩
@[simp] theorem State.updProc_kept {a0 a1} : (s.updProc a0 a1).kept = s.kept := State.kept_iff.2 ⟨rfl, rfl, rfl, rfl⟩
@[simp] theorem State.updSensor_kept {a0 a1} : (s.updSensor a0 a1).kept = s.kept := State.kept_iff.2 ⟨rfl, rfl, rfl, rfl⟩
@[simp] theorem State.updFw_kept {a0} : (s.updFw a0).kept = s.kept := State.kept_iff.2 ⟨rfl, rfl, rfl, rfl⟩
@[simp] theorem State.updImg_kept {a0 a1 a2} : (s.updImg a0 a1 a2).kept = s.kept := State.kept_iff.2 ⟨rfl, rfl, rfl, rfl⟩
@[simp] theorem State.updClk_kept {a0} : (s.updClk a0).kept = s.kept := State.kept_iff.2 ⟨rfl, rfl, rfl, rfl⟩
@[simp] theorem State.updSys_kept {a0} : (s.updSys a0).kept = s.kept := State.kept_iff.2 ⟨rfl, rfl, rfl, rfl⟩
@[simp] theorem State.updCal_kept {a0} : (s.updCal a0).kept = s.kept := State.kept_iff.2 ⟨rfl, rfl, rfl, rfl⟩
@[simp] theorem State.updRec_kept {a0 a1} : (s.updRec a0 a1).kept = s.kept := State.kept_iff.2 ⟨rfl, rfl, rfl, rfl⟩
@[simp] theorem State.dropJobs_kept {a} : (s.dropJobs a).kept = s.kept := State.kept_iff.2 ⟨rfl, rfl, rfl, rfl⟩

end Sys2Proof.Machine
end

