-- ==== Sys2Proof/Laws/KeepsOps.lean ====
section
/-! SUPPORT. What the operations of Machine/Ops.lean keep: the order of acceptance, the queue of waiting commands and the
memories (or, where one writes memory, the canonical form); and that a command of it always completes. -/

namespace Sys2Proof.Machine

variable {s t : State}

@[simp] theorem State.register_kept' {k u st} : (s.register k u st).kept = s.kept := by
  unfold State.register; split <;> simp
@[simp] theorem State.fireSrc_kept {p u} : (s.fireSrc p u).kept = s.kept := by simp [State.fireSrc]

variable {k : List Instr × Memory × Memory}

theorem Good.dram {g : Sql → Sql} (h : Good k s.kept.2) (hg : Memory.wf s.sql.dram → Memory.wf (g s.sql).dram) :
    Good k (s.updSql g).kept.2 := ⟨h.1, fun w => ⟨hg (h.2 w).1, (h.2 w).2⟩⟩

@[simp] theorem State.writeDram_good {g o d} (h : Good k s.kept.2) : Good k (s.writeDram g o d).kept.2 := by
  induction d generalizing s o with
  | nil => exact h
  | cons v vs ih =>
    refine ih (Good.foldl (fun s a hs => ?_) h)
    exact hs.dram (fun w => Tbl.wf_set w)

@[simp] theorem State.writeBank_good {b o d} (h : Good k s.kept.2) : Good k (s.writeBank b o d).kept.2 :=
  ⟨h.1, fun w => ⟨(h.2 w).1, Tbl.wf_setMany (h.2 w).2⟩⟩

@[simp] theorem State.zeroBank_good {b o n} (h : Good k s.kept.2) : Good k (s.zeroBank b o n).kept.2 :=
  ⟨h.1, fun w => ⟨(h.2 w).1, Tbl.wf_clear (h.2 w).2⟩⟩

theorem State.zeroDram_good' {e n} (h : Good k s.kept.2) :
    Good k (s.updSql (fun q => { q with dram := Memory.zero q.dram (16384 * e) (16384 * n) })).kept.2 :=
  h.dram (fun w => Tbl.wf_clear w)

theorem State.dramMany_good {a : Nat} {d : List Byte} (h : Good k s.kept.2) :
    Good k (s.updSql (fun q => { q with dram := Memory.writeMany q.dram a d })).kept.2 := h.dram (fun w => Tbl.wf_setMany w)

@[simp] theorem State.emit_kept : ∀ s a1, (State.emit s a1).kept = s.kept := by
  intro s a1
  unfold State.emit
  repeat' first | split | simp | intro _ | rw [State.foldl_kept (fun _ _ => ?_)] | rw [State.each_kept (fun _ _ => ?_)]

@[simp] theorem State.bump_kept : ∀ s, (State.bump s).kept = s.kept := by
  intro s
  unfold State.bump
  repeat' first | split | simp | intro _ | rw [State.foldl_kept (fun _ _ => ?_)] | rw [State.each_kept (fun _ _ => ?_)]

@[simp] theorem State.bumpBy_kept : ∀ s a1, (State.bumpBy s a1).kept = s.kept := by
  intro s a1
  unfold State.bumpBy
  repeat' first | split | simp | intro _ | rw [State.foldl_kept (fun _ _ => ?_)] | rw [State.each_kept (fun _ _ => ?_)]

@[simp] theorem State.register_kept : ∀ s a1 a2 a3, (State.register s a1 a2 a3).kept = s.kept := by
  intro s a1 a2 a3
  unfold State.register
  repeat' first | split | simp | intro _ | rw [State.foldl_kept (fun _ _ => ?_)] | rw [State.each_kept (fun _ _ => ?_)]

@[simp] theorem State.notice_kept : ∀ s a1 a2 a3, (State.notice s a1 a2 a3).kept = s.kept := by
  intro s a1 a2 a3
  unfold State.notice
  repeat' first | split | simp | intro _ | rw [State.foldl_kept (fun _ _ => ?_)] | rw [State.each_kept (fun _ _ => ?_)]

@[simp] theorem State.enterRec_kept : ∀ s a1, (State.enterRec s a1).kept = s.kept := by
  intro s a1
  unfold State.enterRec
  repeat' first | split | simp | intro _ | rw [State.foldl_kept (fun _ _ => ?_)] | rw [State.each_kept (fun _ _ => ?_)]

@[simp] theorem State.swapRecs_kept : ∀ s a1 a2, (State.swapRecs s a1 a2).kept = s.kept := by
  intro s a1 a2
  unfold State.swapRecs
  repeat' first | split | simp | intro _ | rw [State.foldl_kept (fun _ _ => ?_)] | rw [State.each_kept (fun _ _ => ?_)]

@[simp] theorem State.settleRec_kept : ∀ s a1 a2, (State.settleRec s a1 a2).kept = s.kept := by
  intro s a1 a2
  induction a2 generalizing s a1 with
  | zero => rfl
  | succ n ih =>
    unfold State.settleRec
    dsimp only
    split
    · rw [ih]; simp
    · rfl

@[simp] theorem State.takeRec_kept : ∀ s a1, (State.takeRec s a1).kept = s.kept := by
  intro s a1
  unfold State.takeRec
  repeat' first | split | simp | intro _ | rw [State.foldl_kept (fun _ _ => ?_)] | rw [State.each_kept (fun _ _ => ?_)]

@[simp] theorem State.logRec_kept : ∀ s a1, (State.logRec s a1).kept = s.kept := by
  intro s a1
  unfold State.logRec
  repeat' first | split | simp | intro _ | rw [State.foldl_kept (fun _ _ => ?_)] | rw [State.each_kept (fun _ _ => ?_)]

@[simp] theorem State.faultAt_kept : ∀ s a1 a2 a3 a4 a5 a6 a7, (State.faultAt s a1 a2 a3 a4 a5 a6 a7).kept = s.kept := by
  intro s a1 a2 a3 a4 a5 a6 a7
  unfold State.faultAt
  repeat' first | split | simp | intro _ | rw [State.foldl_kept (fun _ _ => ?_)] | rw [State.each_kept (fun _ _ => ?_)]

@[simp] theorem State.fault_kept : ∀ s a1 a2 a3 a4 a5 a6, (State.fault s a1 a2 a3 a4 a5 a6).kept = s.kept := by
  intro s a1 a2 a3 a4 a5 a6
  unfold State.fault
  repeat' first | split | simp | intro _ | rw [State.foldl_kept (fun _ _ => ?_)] | rw [State.each_kept (fun _ _ => ?_)]

@[simp] theorem State.cplAt_kept : ∀ s a1 a2 a3 a4 a5, (State.cplAt s a1 a2 a3 a4 a5).kept = s.kept := by
  intro s a1 a2 a3 a4 a5
  unfold State.cplAt
  repeat' first | split | simp | intro _ | rw [State.foldl_kept (fun _ _ => ?_)] | rw [State.each_kept (fun _ _ => ?_)]

@[simp] theorem State.noteLast_kept : ∀ s a1 a2 a3, (State.noteLast s a1 a2 a3).kept = s.kept := by
  intro s a1 a2 a3
  unfold State.noteLast
  repeat' first | split | simp | intro _ | rw [State.foldl_kept (fun _ _ => ?_)] | rw [State.each_kept (fun _ _ => ?_)]

@[simp] theorem State.completeAt_kept : ∀ s a1 a2 a3 a4, (State.completeAt s a1 a2 a3 a4).kept = s.kept := by
  intro s a1 a2 a3 a4
  unfold State.completeAt
  repeat' first | split | simp | intro _ | rw [State.foldl_kept (fun _ _ => ?_)] | rw [State.each_kept (fun _ _ => ?_)]

@[simp] theorem State.complete_kept : ∀ s a1 a2 a3, (State.complete s a1 a2 a3).kept = s.kept := by
  intro s a1 a2 a3
  unfold State.complete
  repeat' first | split | simp | intro _ | rw [State.foldl_kept (fun _ _ => ?_)] | rw [State.each_kept (fun _ _ => ?_)]

@[simp] theorem State.interim_kept : ∀ s a1 a2, (State.interim s a1 a2).kept = s.kept := by
  intro s a1 a2
  unfold State.interim
  repeat' first | split | simp | intro _ | rw [State.foldl_kept (fun _ _ => ?_)] | rw [State.each_kept (fun _ _ => ?_)]

@[simp] theorem State.addJob_kept : ∀ s a1 a2, (State.addJob s a1 a2).kept = s.kept := by
  intro s a1 a2
  unfold State.addJob
  repeat' first | split | simp | intro _ | rw [State.foldl_kept (fun _ _ => ?_)] | rw [State.each_kept (fun _ _ => ?_)]

@[simp] theorem State.replyData_kept : ∀ s a1 a2 a3 a4, (State.replyData s a1 a2 a3 a4).kept = s.kept := by
  intro s a1 a2 a3 a4
  unfold State.replyData
  repeat' first | split | simp | intro _ | rw [State.foldl_kept (fun _ _ => ?_)] | rw [State.each_kept (fun _ _ => ?_)]

@[simp] theorem State.reply_kept : ∀ s a1 a2 a3 a4, (State.reply s a1 a2 a3 a4).kept = s.kept := by
  intro s a1 a2 a3 a4
  unfold State.reply
  repeat' first | split | simp | intro _ | rw [State.foldl_kept (fun _ _ => ?_)] | rw [State.each_kept (fun _ _ => ?_)]

@[simp] theorem State.clearPoison_kept : ∀ s a1 a2, (State.clearPoison s a1 a2).kept = s.kept := by
  intro s a1 a2
  unfold State.clearPoison
  repeat' first | split | simp | intro _ | rw [State.foldl_kept (fun _ _ => ?_)] | rw [State.each_kept (fun _ _ => ?_)]

@[simp] theorem State.takeExtents_kept : ∀ s a1 a2, (State.takeExtents s a1 a2).kept = s.kept := by
  intro s a1 a2
  unfold State.takeExtents
  repeat' first | split | simp | intro _ | rw [State.foldl_kept (fun _ _ => ?_)] | rw [State.each_kept (fun _ _ => ?_)]

@[simp] theorem State.freeExtents_kept : ∀ s a1 a2, (State.freeExtents s a1 a2).kept = s.kept := by
  intro s a1 a2
  unfold State.freeExtents
  repeat' first | split | simp | intro _ | rw [State.foldl_kept (fun _ _ => ?_)] | rw [State.each_kept (fun _ _ => ?_)]

@[simp] theorem State.takeBank_kept : ∀ s a1 a2 a3, (State.takeBank s a1 a2 a3).kept = s.kept := by
  intro s a1 a2 a3
  unfold State.takeBank
  repeat' first | split | simp | intro _ | rw [State.foldl_kept (fun _ _ => ?_)] | rw [State.each_kept (fun _ _ => ?_)]

@[simp] theorem State.freeBank_kept : ∀ s a1 a2 a3, (State.freeBank s a1 a2 a3).kept = s.kept := by
  intro s a1 a2 a3
  unfold State.freeBank
  repeat' first | split | simp | intro _ | rw [State.foldl_kept (fun _ _ => ?_)] | rw [State.each_kept (fun _ _ => ?_)]

@[simp] theorem State.setOwner_kept : ∀ s a1 a2, (State.setOwner s a1 a2).kept = s.kept := by
  intro s a1 a2
  unfold State.setOwner
  repeat' first | split | simp | intro _ | rw [State.foldl_kept (fun _ _ => ?_)] | rw [State.each_kept (fun _ _ => ?_)]

end Sys2Proof.Machine
end

