-- ==== Sys2Proof/Laws/KeepsStream.lean ====
section
/-! SUPPORT. What the operations of Machine/Stream.lean keep: the order of acceptance, the queue of waiting commands and the
memories (or, where one writes memory, the canonical form); and that a command of it always completes. -/

namespace Sys2Proof.Machine

variable {s t : State}

@[simp] theorem State.noteOut_kept : ∀ s a1 a2, (State.noteOut s a1 a2).kept = s.kept := by
  intro s a1 a2
  unfold State.noteOut
  repeat' first | split | simp | intro _ | rw [State.foldl_kept (fun _ _ => ?_)] | rw [State.each_kept (fun _ _ => ?_)]

@[simp] theorem State.chanLc_kept : ∀ s a1, (State.chanLc s a1).kept = s.kept := by
  intro s a1
  unfold State.chanLc
  repeat' first | split | simp | intro _ | rw [State.foldl_kept (fun _ _ => ?_)] | rw [State.each_kept (fun _ _ => ?_)]

@[simp] theorem State.swept_kept : ∀ s, (State.swept s).kept = s.kept := by
  intro s
  unfold State.swept
  repeat' first | split | simp | intro _ | rw [State.foldl_kept (fun _ _ => ?_)] | rw [State.each_kept (fun _ _ => ?_)]

@[simp] theorem State.cycle_kept : ∀ s, (State.cycle s).kept = s.kept := by
  intro s
  unfold State.cycle
  repeat' first | split | simp | intro _ | rw [State.foldl_kept (fun _ _ => ?_)] | rw [State.each_kept (fun _ _ => ?_)]

@[simp] theorem State.cycles_kept : ∀ a0 s, (State.cycles a0 s).kept = s.kept := by
  intro a0 s
  induction a0 generalizing s with
  | zero => rfl
  | succ n ih =>
    unfold State.cycles
    split
    · simp
    · rw [ih]; simp

@[simp] theorem State.advanceTo_kept : ∀ s a1, (State.advanceTo s a1).kept = s.kept := by
  intro s a1
  unfold State.advanceTo
  repeat' first | split | simp | intro _ | rw [State.foldl_kept (fun _ _ => ?_)] | rw [State.each_kept (fun _ _ => ?_)]

@[simp] theorem State.tick_kept : ∀ s, (State.tick s).kept = s.kept := by
  intro s
  unfold State.tick
  repeat' first | split | simp | intro _ | rw [State.foldl_kept (fun _ _ => ?_)] | rw [State.each_kept (fun _ _ => ?_)]

end Sys2Proof.Machine
end

