-- ==== Sys2Proof/Laws/KeepsOperands.lean ====
section
/-! SUPPORT. What the operations of Machine/Operands.lean keep: the order of acceptance, the queue of waiting commands and the
memories (or, where one writes memory, the canonical form); and that a command of it always completes. -/

namespace Sys2Proof.Machine

variable {s t : State}

@[simp] theorem State.endJobs_kept {p st res} : (s.endJobs p st res).kept = s.kept := by simp [State.endJobs]
@[simp] theorem State.endKind_kept {p st res} : (s.endKind p st res).kept = s.kept := by simp [State.endKind]

/-- A meaning whose effect, refusal and hold each leave the queue and both memories alone. -/
structure Meaning.Keeps (m : Meaning) : Prop where
  act : ∀ r s, (m.act r s).kept = s.kept := by intro r s; simp
  fail : ∀ r st s, (m.fail r st s).kept = s.kept := by intro r st s; simp
  hold : ∀ r s, (m.hold r s).kept = s.kept := by intro r s; simp

theorem finishRep_kept' {r act period reps} : (finishRep r act period reps s).kept = s.kept := by
  unfold finishRep; split <;> simp
@[simp] theorem logLate_kept' {r st res} : (logLate r st res s).kept = s.kept := by simp [logLate, State.fault, State.faultAt]

variable {m : Meaning}

theorem holdTimed_kept (h : m.Keeps) {r act reps k} : (holdTimed m r act reps k s).kept.2 = s.kept.2 := by
  unfold holdTimed; split <;> simp [h.hold]

theorem perform_kept (h : m.Keeps) {r reps act} : (perform m r reps act s).kept.2 = s.kept.2 := by
  unfold perform
  split
  · simp [h.fail]
  · split <;> simp [h.act, finishRep_kept']

theorem late_kept (h : m.Keeps) {r} : (late m r s).kept.2 = s.kept.2 := by
  unfold late
  split
  · simp [h.fail]
  · split
    · simp [perform_kept h]
    · split
      · dsimp only; split <;> simp [holdTimed_kept h]
      · simp

theorem launch_kept (h : m.Keeps) {r} : (launch m r s).kept.2 = s.kept.2 := by
  unfold launch
  split
  · simp
  · split
    · exact perform_kept h
    · split
      · exact late_kept h
      · exact holdTimed_kept h

theorem submit_kept (h : m.Keeps) {op p} : (submit op m p s).kept.2 = s.kept.2 := by
  unfold submit
  dsimp only
  split
  · simp
  · split
    · simp
    · rw [launch_kept h]; simp

/-! ### Meanings that write the memories -/

variable {k : List Instr × Memory × Memory}

@[simp] theorem State.zeroDram_good {e n} (h : Good k s.kept.2) : Good k (s.zeroDram e n).kept.2 := by
  unfold State.zeroDram; rw [State.clearPoison_kept]; exact State.zeroDram_good' h

/-- A meaning whose effect, refusal and hold are each good. -/
structure Meaning.Good (m : Meaning) : Prop where
  act : ∀ r s k, Machine.Good k s.kept.2 → Machine.Good k (m.act r s).kept.2
  fail : ∀ r st s k, Machine.Good k s.kept.2 → Machine.Good k (m.fail r st s).kept.2
  hold : ∀ r s k, Machine.Good k s.kept.2 → Machine.Good k (m.hold r s).kept.2

theorem Meaning.Keeps.good (h : m.Keeps) : m.Good where
  act r s k g := by rw [h.act]; exact g
  fail r st s k g := by rw [h.fail]; exact g
  hold r s k g := by rw [h.hold]; exact g

theorem holdTimed_good (h : m.Good) {r act reps n} (g : Machine.Good k s.kept.2) :
    Machine.Good k (holdTimed m r act reps n s).kept.2 := by
  unfold holdTimed; split <;> simp [h.hold, g]

theorem perform_good (h : m.Good) {r reps act} (g : Machine.Good k s.kept.2) : Machine.Good k (perform m r reps act s).kept.2 := by
  unfold perform
  split
  · exact h.fail _ _ _ _ (by simpa using g)
  · split
    · rw [finishRep_kept']; exact h.act _ _ _ g
    · exact h.act _ _ _ g

theorem late_good (h : m.Good) {r} (g : Machine.Good k s.kept.2) : Machine.Good k (late m r s).kept.2 := by
  unfold late
  split
  · exact h.fail _ _ _ _ (by simpa using g)
  · split
    · exact perform_good h (by simpa using g)
    · split
      · dsimp only; split
        · exact holdTimed_good h (by simpa using g)
        · simpa using g
      · simpa using g

theorem launch_good (h : m.Good) {r} (g : Machine.Good k s.kept.2) : Machine.Good k (launch m r s).kept.2 := by
  unfold launch
  split
  · simpa using g
  · split
    · exact perform_good h g
    · split
      · exact late_good h g
      · exact holdTimed_good h g

theorem submit_good (h : m.Good) {op p} (g : Machine.Good k s.kept.2) : Machine.Good k (submit op m p s).kept.2 := by
  unfold submit
  dsimp only
  split
  · simpa using g
  · split
    · simpa using g
    · exact launch_good h (by simpa using g)


@[simp] theorem finishRep_kept : ∀ a0 a1 a2 a3 s, (finishRep a0 a1 a2 a3 s).kept = s.kept := by
  intro a0 a1 a2 a3 s
  unfold finishRep
  repeat' first | split | simp | intro _ | rw [State.foldl_kept (fun _ _ => ?_)] | rw [State.each_kept (fun _ _ => ?_)]

@[simp] theorem logLate_kept : ∀ a0 a1 a2 s, (logLate a0 a1 a2 s).kept = s.kept := by
  intro a0 a1 a2 s
  unfold logLate
  repeat' first | split | simp | intro _ | rw [State.foldl_kept (fun _ _ => ?_)] | rw [State.each_kept (fun _ _ => ?_)]

end Sys2Proof.Machine
end

