-- ==== Sys2Proof/Laws/KeepsLifecycle.lean ====
section
/-! SUPPORT. What the operations of Machine/Lifecycle.lean keep: the order of acceptance, the queue of waiting commands and the
memories (or, where one writes memory, the canonical form); and that a command of it always completes. -/

namespace Sys2Proof.Machine

variable {s t : State}

@[simp] theorem State.abandonTags_kept {p} : (s.abandonTags p).kept = s.kept := State.kept_iff.2 ⟨rfl, rfl, rfl, rfl⟩
@[simp] theorem State.dropEdges_kept {m p} : (s.dropEdges m p).kept = s.kept := State.kept_iff.2 ⟨rfl, rfl, rfl, rfl⟩
@[simp] theorem State.dropChEdges_kept {c p} : (s.dropChEdges c p).kept = s.kept := State.kept_iff.2 ⟨rfl, rfl, rfl, rfl⟩
@[simp] theorem State.dropAllEdges_kept {p} : (s.dropAllEdges p).kept = s.kept := by simp [State.dropAllEdges]


@[simp] theorem State.timeoutRun_kept : ∀ s a1 a2, (State.timeoutRun s a1 a2).kept = s.kept := by
  intro s a1 a2
  unfold State.timeoutRun
  repeat' first | split | simp | intro _ | rw [State.foldl_kept (fun _ _ => ?_)] | rw [State.each_kept (fun _ _ => ?_)]

@[simp] theorem State.unstage_kept : ∀ s a1, (State.unstage s a1).kept = s.kept := by
  intro s a1
  unfold State.unstage
  repeat' first | split | simp | intro _ | rw [State.foldl_kept (fun _ _ => ?_)] | rw [State.each_kept (fun _ _ => ?_)]

@[simp] theorem State.applyRows_kept : ∀ s, (State.applyRows s).kept = s.kept := by
  intro s
  unfold State.applyRows
  repeat' first | split | simp | intro _ | rw [State.foldl_kept (fun _ _ => ?_)] | rw [State.each_kept (fun _ _ => ?_)]

@[simp] theorem State.allocTurn_kept : ∀ s a1 a2, (State.allocTurn s a1 a2).kept = s.kept := by
  intro s a1 a2
  unfold State.allocTurn
  repeat' first | split | simp | intro _ | rw [State.foldl_kept (fun _ _ => ?_)] | rw [State.each_kept (fun _ _ => ?_)]

@[simp] theorem State.runVoice_kept : ∀ s a1 a2, (State.runVoice s a1 a2).kept = s.kept := by
  intro s a1 a2
  unfold State.runVoice
  repeat' first | split | simp | intro _ | rw [State.foldl_kept (fun _ _ => ?_)] | rw [State.each_kept (fun _ _ => ?_)]

@[simp] theorem State.pastNco_kept : ∀ s a1, (State.pastNco s a1).kept = s.kept := by
  intro s a1
  unfold State.pastNco
  repeat' first | split | simp | intro _ | rw [State.foldl_kept (fun _ _ => ?_)] | rw [State.each_kept (fun _ _ => ?_)]

@[simp] theorem State.flushNco_kept : ∀ s, (State.flushNco s).kept = s.kept := by
  intro s
  unfold State.flushNco
  repeat' first | split | simp | intro _ | rw [State.foldl_kept (fun _ _ => ?_)] | rw [State.each_kept (fun _ _ => ?_)]

@[simp] theorem State.reRate_kept : ∀ s a1 a2, (State.reRate s a1 a2).kept = s.kept := by
  intro s a1 a2
  unfold State.reRate
  repeat' first | split | simp | intro _ | rw [State.foldl_kept (fun _ _ => ?_)] | rw [State.each_kept (fun _ _ => ?_)]

@[simp] theorem State.tmuLoad_kept : ∀ s, (State.tmuLoad s).kept = s.kept := by
  intro s
  unfold State.tmuLoad
  repeat' first | split | simp | intro _ | rw [State.foldl_kept (fun _ _ => ?_)] | rw [State.each_kept (fun _ _ => ?_)]

@[simp] theorem State.laneSwitch_kept : ∀ s a1, (State.laneSwitch s a1).kept = s.kept := by
  intro s a1
  unfold State.laneSwitch
  repeat' first | split | simp | intro _ | rw [State.foldl_kept (fun _ _ => ?_)] | rw [State.each_kept (fun _ _ => ?_)]

@[simp] theorem State.keepHeads_kept : ∀ s a1 a2, (State.keepHeads s a1 a2).kept = s.kept := by
  intro s a1 a2
  unfold State.keepHeads
  repeat' first | split | simp | intro _ | rw [State.foldl_kept (fun _ _ => ?_)] | rw [State.each_kept (fun _ _ => ?_)]

@[simp] theorem State.markersLow_kept : ∀ s a1, (State.markersLow s a1).kept = s.kept := by
  intro s a1
  unfold State.markersLow
  repeat' first | split | simp | intro _ | rw [State.foldl_kept (fun _ _ => ?_)] | rw [State.each_kept (fun _ _ => ?_)]

@[simp] theorem State.tellFrozen_kept {v p} : (s.tellFrozen v p).kept = s.kept := by
  unfold State.tellFrozen; simp

@[simp] theorem State.freeVoice_kept : ∀ s a1, (State.freeVoice s a1).kept = s.kept := by
  intro s a1
  unfold State.freeVoice
  repeat' first | split | simp | intro _ | rw [State.foldl_kept (fun _ _ => ?_)] | rw [State.each_kept (fun _ _ => ?_)]

@[simp] theorem State.vernLimit_kept : ∀ s a1 a2 a3 a4, (State.vernLimit s a1 a2 a3 a4).kept = s.kept := by
  intro s a1 a2 a3 a4
  unfold State.vernLimit
  repeat' first | split | simp | intro _ | rw [State.foldl_kept (fun _ _ => ?_)] | rw [State.each_kept (fun _ _ => ?_)]

@[simp] theorem State.carryF_kept : ∀ s a1, (State.carryF s a1).kept = s.kept := by
  intro s a1
  unfold State.carryF
  repeat' first | split | simp | intro _ | rw [State.foldl_kept (fun _ _ => ?_)] | rw [State.each_kept (fun _ _ => ?_)]

@[simp] theorem State.tellFill_kept : ∀ s a1 a2 a3 a4, (State.tellFill s a1 a2 a3 a4).kept = s.kept := by
  intro s a1 a2 a3 a4
  unfold State.tellFill
  repeat' first | split | simp | intro _ | rw [State.foldl_kept (fun _ _ => ?_)] | rw [State.each_kept (fun _ _ => ?_)]

@[simp] theorem State.tellEnd_kept : ∀ s a1 a2 a3 a4, (State.tellEnd s a1 a2 a3 a4).kept = s.kept := by
  intro s a1 a2 a3 a4
  unfold State.tellEnd
  repeat' first | split | simp | intro _ | rw [State.foldl_kept (fun _ _ => ?_)] | rw [State.each_kept (fun _ _ => ?_)]

@[simp] theorem State.closeFill_kept : ∀ s a1 a2, (State.closeFill s a1 a2).kept = s.kept := by
  intro s a1 a2
  unfold State.closeFill
  repeat' first | split | simp | intro _ | rw [State.foldl_kept (fun _ _ => ?_)] | rw [State.each_kept (fun _ _ => ?_)]

@[simp] theorem State.endFill_kept : ∀ s a1 a2 a3, (State.endFill s a1 a2 a3).kept = s.kept := by
  intro s a1 a2 a3
  unfold State.endFill
  repeat' first | split | simp | intro _ | rw [State.foldl_kept (fun _ _ => ?_)] | rw [State.each_kept (fun _ _ => ?_)]

@[simp] theorem State.clearQueue_kept : ∀ s a1, (State.clearQueue s a1).kept = s.kept := by
  intro s a1
  unfold State.clearQueue
  repeat' first | split | simp | intro _ | rw [State.foldl_kept (fun _ _ => ?_)] | rw [State.each_kept (fun _ _ => ?_)]

@[simp] theorem State.stopVoice_kept : ∀ s a1, (State.stopVoice s a1).kept = s.kept := by
  intro s a1
  unfold State.stopVoice
  repeat' first | split | simp | intro _ | rw [State.foldl_kept (fun _ _ => ?_)] | rw [State.each_kept (fun _ _ => ?_)]

@[simp] theorem State.releaseVoice_kept : ∀ s a1, (State.releaseVoice s a1).kept = s.kept := by
  intro s a1
  unfold State.releaseVoice
  repeat' first | split | simp | intro _ | rw [State.foldl_kept (fun _ _ => ?_)] | rw [State.each_kept (fun _ _ => ?_)]

@[simp] theorem State.withdrawStart_kept : ∀ s a1, (State.withdrawStart s a1).kept = s.kept := by
  intro s a1
  unfold State.withdrawStart
  repeat' first | split | simp | intro _ | rw [State.foldl_kept (fun _ _ => ?_)] | rw [State.each_kept (fun _ _ => ?_)]

@[simp] theorem State.unstart_kept : ∀ s a1, (State.unstart s a1).kept = s.kept := by
  intro s a1
  unfold State.unstart
  repeat' first | split | simp | intro _ | rw [State.foldl_kept (fun _ _ => ?_)] | rw [State.each_kept (fun _ _ => ?_)]

@[simp] theorem State.stopFch_kept : ∀ s a1, (State.stopFch s a1).kept = s.kept := by
  intro s a1
  unfold State.stopFch
  repeat' first | split | simp | intro _ | rw [State.foldl_kept (fun _ _ => ?_)] | rw [State.each_kept (fun _ _ => ?_)]

@[simp] theorem State.hwStopAt_kept : ∀ s a1 a2, (State.hwStopAt s a1 a2).kept = s.kept := by
  intro s a1 a2
  unfold State.hwStopAt
  repeat' first | split | simp | intro _ | rw [State.foldl_kept (fun _ _ => ?_)] | rw [State.each_kept (fun _ _ => ?_)]

@[simp] theorem State.hwStopFch_kept : ∀ s a1, (State.hwStopFch s a1).kept = s.kept := by
  intro s a1
  unfold State.hwStopFch
  repeat' first | split | simp | intro _ | rw [State.foldl_kept (fun _ _ => ?_)] | rw [State.each_kept (fun _ _ => ?_)]

@[simp] theorem State.dropCommit_kept : ∀ s a1, (State.dropCommit s a1).kept = s.kept := by
  intro s a1
  unfold State.dropCommit
  repeat' first | split | simp | intro _ | rw [State.foldl_kept (fun _ _ => ?_)] | rw [State.each_kept (fun _ _ => ?_)]

@[simp] theorem State.freeFch_kept : ∀ s a1, (State.freeFch s a1).kept = s.kept := by
  intro s a1
  unfold State.freeFch
  repeat' first | split | simp | intro _ | rw [State.foldl_kept (fun _ _ => ?_)] | rw [State.each_kept (fun _ _ => ?_)]

@[simp] theorem State.releaseFch_kept : ∀ s a1, (State.releaseFch s a1).kept = s.kept := by
  intro s a1
  unfold State.releaseFch
  repeat' first | split | simp | intro _ | rw [State.foldl_kept (fun _ _ => ?_)] | rw [State.each_kept (fun _ _ => ?_)]

@[simp] theorem State.muteFch_kept : ∀ s a1, (State.muteFch s a1).kept = s.kept := by
  intro s a1
  unfold State.muteFch
  repeat' first | split | simp | intro _ | rw [State.foldl_kept (fun _ _ => ?_)] | rw [State.each_kept (fun _ _ => ?_)]

@[simp] theorem State.failFch_kept : ∀ s a1, (State.failFch s a1).kept = s.kept := by
  intro s a1
  unfold State.failFch
  repeat' first | split | simp | intro _ | rw [State.foldl_kept (fun _ _ => ?_)] | rw [State.each_kept (fun _ _ => ?_)]

@[simp] theorem State.endUnder_kept : ∀ s a1, (State.endUnder s a1).kept = s.kept := by
  intro s a1
  unfold State.endUnder
  repeat' first | split | simp | intro _ | rw [State.foldl_kept (fun _ _ => ?_)] | rw [State.each_kept (fun _ _ => ?_)]

@[simp] theorem State.rampPch_kept : ∀ s a1, (State.rampPch s a1).kept = s.kept := by
  intro s a1
  unfold State.rampPch
  repeat' first | split | simp | intro _ | rw [State.foldl_kept (fun _ _ => ?_)] | rw [State.each_kept (fun _ _ => ?_)]

@[simp] theorem State.freePch_kept : ∀ s a1, (State.freePch s a1).kept = s.kept := by
  intro s a1
  unfold State.freePch
  repeat' first | split | simp | intro _ | rw [State.foldl_kept (fun _ _ => ?_)] | rw [State.each_kept (fun _ _ => ?_)]

@[simp] theorem State.releasePch_kept : ∀ s a1, (State.releasePch s a1).kept = s.kept := by
  intro s a1
  unfold State.releasePch
  repeat' first | split | simp | intro _ | rw [State.foldl_kept (fun _ _ => ?_)] | rw [State.each_kept (fun _ _ => ?_)]

@[simp] theorem State.unattach_kept : ∀ s a1, (State.unattach s a1).kept = s.kept := by
  intro s a1
  unfold State.unattach
  repeat' first | split | simp | intro _ | rw [State.foldl_kept (fun _ _ => ?_)] | rw [State.each_kept (fun _ _ => ?_)]

@[simp] theorem State.attach_kept : ∀ s a1 a2, (State.attach s a1 a2).kept = s.kept := by
  intro s a1 a2
  unfold State.attach
  repeat' first | split | simp | intro _ | rw [State.foldl_kept (fun _ _ => ?_)] | rw [State.each_kept (fun _ _ => ?_)]

@[simp] theorem State.forgetCons_kept : ∀ s a1, (State.forgetCons s a1).kept = s.kept := by
  intro s a1
  unfold State.forgetCons
  repeat' first | split | simp | intro _ | rw [State.foldl_kept (fun _ _ => ?_)] | rw [State.each_kept (fun _ _ => ?_)]

@[simp] theorem State.detach_kept : ∀ s a1, (State.detach s a1).kept = s.kept := by
  intro s a1
  unfold State.detach
  repeat' first | split | simp | intro _ | rw [State.foldl_kept (fun _ _ => ?_)] | rw [State.each_kept (fun _ _ => ?_)]

@[simp] theorem State.stopSlot_kept : ∀ s a1, (State.stopSlot s a1).kept = s.kept := by
  intro s a1
  unfold State.stopSlot
  repeat' first | split | simp | intro _ | rw [State.foldl_kept (fun _ _ => ?_)] | rw [State.each_kept (fun _ _ => ?_)]

@[simp] theorem State.freeSlot_kept : ∀ s a1, (State.freeSlot s a1).kept = s.kept := by
  intro s a1
  unfold State.freeSlot
  repeat' first | split | simp | intro _ | rw [State.foldl_kept (fun _ _ => ?_)] | rw [State.each_kept (fun _ _ => ?_)]

@[simp] theorem State.freeEv_kept : ∀ s a1, (State.freeEv s a1).kept = s.kept := by
  intro s a1
  unfold State.freeEv
  repeat' first | split | simp | intro _ | rw [State.foldl_kept (fun _ _ => ?_)] | rw [State.each_kept (fun _ _ => ?_)]

@[simp] theorem State.freeCon_kept : ∀ s a1, (State.freeCon s a1).kept = s.kept := by
  intro s a1
  unfold State.freeCon
  repeat' first | split | simp | intro _ | rw [State.foldl_kept (fun _ _ => ?_)] | rw [State.each_kept (fun _ _ => ?_)]

@[simp] theorem State.freeEo_kept : ∀ s a1, (State.freeEo s a1).kept = s.kept := by
  intro s a1
  unfold State.freeEo
  repeat' first | split | simp | intro _ | rw [State.foldl_kept (fun _ _ => ?_)] | rw [State.each_kept (fun _ _ => ?_)]

@[simp] theorem State.freeInputs_kept : ∀ s a1, (State.freeInputs s a1).kept = s.kept := by
  intro s a1
  unfold State.freeInputs
  repeat' first | split | simp | intro _ | rw [State.foldl_kept (fun _ _ => ?_)] | rw [State.each_kept (fun _ _ => ?_)]

@[simp] theorem State.freeCell_kept : ∀ s a1, (State.freeCell s a1).kept = s.kept := by
  intro s a1
  unfold State.freeCell
  repeat' first | split | simp | intro _ | rw [State.foldl_kept (fun _ _ => ?_)] | rw [State.each_kept (fun _ _ => ?_)]

@[simp] theorem State.freeGroup_kept : ∀ s a1, (State.freeGroup s a1).kept = s.kept := by
  intro s a1
  unfold State.freeGroup
  repeat' first | split | simp | intro _ | rw [State.foldl_kept (fun _ _ => ?_)] | rw [State.each_kept (fun _ _ => ?_)]

@[simp] theorem State.liftSeg_kept : ∀ s a1, (State.liftSeg s a1).kept = s.kept := by
  intro s a1
  unfold State.liftSeg
  repeat' first | split | simp | intro _ | rw [State.foldl_kept (fun _ _ => ?_)] | rw [State.each_kept (fun _ _ => ?_)]

@[simp] theorem State.freeSeg_kept : ∀ s a1, (State.freeSeg s a1).kept = s.kept := by
  intro s a1
  unfold State.freeSeg
  repeat' first | split | simp | intro _ | rw [State.foldl_kept (fun _ _ => ?_)] | rw [State.each_kept (fun _ _ => ?_)]

@[simp] theorem State.withdrawHandover_kept : ∀ s a1, (State.withdrawHandover s a1).kept = s.kept := by
  intro s a1
  unfold State.withdrawHandover
  repeat' first | split | simp | intro _ | rw [State.foldl_kept (fun _ _ => ?_)] | rw [State.each_kept (fun _ _ => ?_)]

@[simp] theorem State.freeByState_kept : ∀ s a1, (State.freeByState s a1).kept = s.kept := by
  intro s a1
  unfold State.freeByState
  repeat' first | split | simp | intro _ | rw [State.foldl_kept (fun _ _ => ?_)] | rw [State.each_kept (fun _ _ => ?_)]

@[simp] theorem State.releaseBank_kept : ∀ s a1, (State.releaseBank s a1).kept = s.kept := by
  intro s a1
  unfold State.releaseBank
  repeat' first | split | simp | intro _ | rw [State.foldl_kept (fun _ _ => ?_)] | rw [State.each_kept (fun _ _ => ?_)]

@[simp] theorem State.disarm_kept : ∀ s a1 a2, (State.disarm s a1 a2).kept = s.kept := by
  intro s a1 a2
  unfold State.disarm
  repeat' first | split | simp | intro _ | rw [State.foldl_kept (fun _ _ => ?_)] | rw [State.each_kept (fun _ _ => ?_)]

@[simp] theorem State.overrunCon_kept : ∀ s a1, (State.overrunCon s a1).kept = s.kept := by
  intro s a1
  unfold State.overrunCon
  repeat' first | split | simp | intro _ | rw [State.foldl_kept (fun _ _ => ?_)] | rw [State.each_kept (fun _ _ => ?_)]

@[simp] theorem State.dropTrig_kept : ∀ s a1, (State.dropTrig s a1).kept = s.kept := by
  intro s a1
  unfold State.dropTrig
  repeat' first | split | simp | intro _ | rw [State.foldl_kept (fun _ _ => ?_)] | rw [State.each_kept (fun _ _ => ?_)]

@[simp] theorem State.withdrawProgram_kept : ∀ s a1, (State.withdrawProgram s a1).kept = s.kept := by
  intro s a1
  unfold State.withdrawProgram
  repeat' first | split | simp | intro _ | rw [State.foldl_kept (fun _ _ => ?_)] | rw [State.each_kept (fun _ _ => ?_)]

@[simp] theorem State.haltThread_kept : ∀ s a1, (State.haltThread s a1).kept = s.kept := by
  intro s a1
  unfold State.haltThread
  repeat' first | split | simp | intro _ | rw [State.foldl_kept (fun _ _ => ?_)] | rw [State.each_kept (fun _ _ => ?_)]

@[simp] theorem State.haltCtx_kept : ∀ s a1, (State.haltCtx s a1).kept = s.kept := by
  intro s a1
  unfold State.haltCtx
  repeat' first | split | simp | intro _ | rw [State.foldl_kept (fun _ _ => ?_)] | rw [State.each_kept (fun _ _ => ?_)]

@[simp] theorem State.discardPreRun_kept : ∀ s a1, (State.discardPreRun s a1).kept = s.kept := by
  intro s a1
  unfold State.discardPreRun
  repeat' first | split | simp | intro _ | rw [State.foldl_kept (fun _ _ => ?_)] | rw [State.each_kept (fun _ _ => ?_)]

@[simp] theorem State.stopCtx_kept : ∀ s a1, (State.stopCtx s a1).kept = s.kept := by
  intro s a1
  unfold State.stopCtx
  repeat' first | split | simp | intro _ | rw [State.foldl_kept (fun _ _ => ?_)] | rw [State.each_kept (fun _ _ => ?_)]

@[simp] theorem State.faultS_kept : ∀ s a1 a2 a3, (State.faultS s a1 a2 a3).kept = s.kept := by
  intro s a1 a2 a3
  unfold State.faultS
  repeat' first | split | simp | intro _ | rw [State.foldl_kept (fun _ _ => ?_)] | rw [State.each_kept (fun _ _ => ?_)]

@[simp] theorem State.faultStop_kept : ∀ s a1 a2 a3, (State.faultStop s a1 a2 a3).kept = s.kept := by
  intro s a1 a2 a3
  unfold State.faultStop
  repeat' first | split | simp | intro _ | rw [State.foldl_kept (fun _ _ => ?_)] | rw [State.each_kept (fun _ _ => ?_)]

@[simp] theorem State.stalePackets_kept : ∀ s a1, (State.stalePackets s a1).kept = s.kept := by
  intro s a1
  unfold State.stalePackets
  repeat' first | split | simp | intro _ | rw [State.foldl_kept (fun _ _ => ?_)] | rw [State.each_kept (fun _ _ => ?_)]

@[simp] theorem State.resetCtx_kept : ∀ s a1, (State.resetCtx s a1).kept = s.kept := by
  intro s a1
  unfold State.resetCtx
  repeat' first | split | simp | intro _ | rw [State.foldl_kept (fun _ _ => ?_)] | rw [State.each_kept (fun _ _ => ?_)]

@[simp] theorem State.nextGen_kept : ∀ s a1, (State.nextGen s a1).kept = s.kept := by
  intro s a1
  unfold State.nextGen
  repeat' first | split | simp | intro _ | rw [State.foldl_kept (fun _ _ => ?_)] | rw [State.each_kept (fun _ _ => ?_)]

@[simp] theorem State.deviceReset_kept : ∀ s a1 a2 a3, (State.deviceReset s a1 a2 a3).kept = s.kept := by
  intro s a1 a2 a3
  unfold State.deviceReset
  repeat' first | split | simp | intro _ | rw [State.foldl_kept (fun _ _ => ?_)] | rw [State.each_kept (fun _ _ => ?_)]

@[simp] theorem State.dropFn_kept : ∀ s a1, (State.dropFn s a1).kept = s.kept := by
  intro s a1
  unfold State.dropFn
  repeat' first | split | simp | intro _ | rw [State.foldl_kept (fun _ _ => ?_)] | rw [State.each_kept (fun _ _ => ?_)]

@[simp] theorem State.closeCtxs_kept : ∀ s a1, (State.closeCtxs s a1).kept = s.kept := by
  intro s a1
  unfold State.closeCtxs
  repeat' first | split | simp | intro _ | rw [State.foldl_kept (fun _ _ => ?_)] | rw [State.each_kept (fun _ _ => ?_)]

@[simp] theorem State.flr_kept : ∀ s a1, (State.flr s a1).kept = s.kept := by
  intro s a1
  unfold State.flr
  repeat' first | split | simp | intro _ | rw [State.foldl_kept (fun _ _ => ?_)] | rw [State.each_kept (fun _ _ => ?_)]

end Sys2Proof.Machine
end

