-- ==== Sys2Proof/Laws/KeepsClock.lean ====
section
/-! SUPPORT. What the operations of Machine/Clock.lean keep: the order of acceptance, the queue of waiting commands and the
memories (or, where one writes memory, the canonical form); and that a command of it always completes. -/

namespace Sys2Proof.Machine

variable {s t : State}

@[simp] theorem State.fixSlew_kept : ∀ s, (State.fixSlew s).kept = s.kept := by
  intro s
  unfold State.fixSlew
  repeat' first | split | simp | intro _ | rw [State.foldl_kept (fun _ _ => ?_)] | rw [State.each_kept (fun _ _ => ?_)]

@[simp] theorem State.clkEvent_kept : ∀ s a1, (State.clkEvent s a1).kept = s.kept := by
  intro s a1
  unfold State.clkEvent
  repeat' first | split | simp | intro _ | rw [State.foldl_kept (fun _ _ => ?_)] | rw [State.each_kept (fun _ _ => ?_)]

@[simp] theorem State.traceLost_kept : ∀ s, (State.traceLost s).kept = s.kept := by
  intro s
  unfold State.traceLost
  repeat' first | split | simp | intro _ | rw [State.foldl_kept (fun _ _ => ?_)] | rw [State.each_kept (fun _ _ => ?_)]

@[simp] theorem State.unlock_kept : ∀ s, (State.unlock s).kept = s.kept := by
  intro s
  unfold State.unlock
  repeat' first | split | simp | intro _ | rw [State.foldl_kept (fun _ _ => ?_)] | rw [State.each_kept (fun _ _ => ?_)]

@[simp] theorem State.startReturn_kept : ∀ s, (State.startReturn s).kept = s.kept := by
  intro s
  unfold State.startReturn
  repeat' first | split | simp | intro _ | rw [State.foldl_kept (fun _ _ => ?_)] | rw [State.each_kept (fun _ _ => ?_)]

@[simp] theorem actClkConfig_kept : ∀ a0 s, (actClkConfig a0 s).kept = s.kept := by
  intro a0 s
  unfold actClkConfig
  repeat' first | split | simp | intro _ | rw [State.foldl_kept (fun _ _ => ?_)] | rw [State.each_kept (fun _ _ => ?_)]

theorem mClkConfig_keeps : mClkConfig.Keeps where
  act r s := by
    simp only [mClkConfig]
    repeat' first | split | simp | intro _ | rw [State.foldl_kept (fun _ _ => ?_)] | rw [State.each_kept (fun _ _ => ?_)]
  fail r st s := by
    simp only [mClkConfig]
    repeat' first | split | simp | intro _ | rw [State.foldl_kept (fun _ _ => ?_)] | rw [State.each_kept (fun _ _ => ?_)]
  hold r s := by
    simp only [mClkConfig]
    repeat' first | split | simp | intro _ | rw [State.foldl_kept (fun _ _ => ?_)] | rw [State.each_kept (fun _ _ => ?_)]

@[simp] theorem execClkConfig_kept : ∀ a0 s, outKept (execClkConfig a0 s) = some s.kept.2 := by
  intro a0 s
  simp [execClkConfig, submit_kept mClkConfig_keeps]

@[simp] theorem State.beginRamp_kept : ∀ s a1 a2, (State.beginRamp s a1 a2).kept = s.kept := by
  intro s a1 a2
  unfold State.beginRamp
  repeat' first | split | simp | intro _ | rw [State.foldl_kept (fun _ _ => ?_)] | rw [State.each_kept (fun _ _ => ?_)]

@[simp] theorem actClkStep_kept : ∀ a0 s, (actClkStep a0 s).kept = s.kept := by
  intro a0 s
  unfold actClkStep
  repeat' first | split | simp | intro _ | rw [State.foldl_kept (fun _ _ => ?_)] | rw [State.each_kept (fun _ _ => ?_)]

theorem mClkStep_keeps : mClkStep.Keeps where
  act r s := by
    simp only [mClkStep]
    repeat' first | split | simp | intro _ | rw [State.foldl_kept (fun _ _ => ?_)] | rw [State.each_kept (fun _ _ => ?_)]
  fail r st s := by
    simp only [mClkStep]
    repeat' first | split | simp | intro _ | rw [State.foldl_kept (fun _ _ => ?_)] | rw [State.each_kept (fun _ _ => ?_)]
  hold r s := by
    simp only [mClkStep]
    repeat' first | split | simp | intro _ | rw [State.foldl_kept (fun _ _ => ?_)] | rw [State.each_kept (fun _ _ => ?_)]

@[simp] theorem execClkStep_kept : ∀ a0 s, outKept (execClkStep a0 s) = some s.kept.2 := by
  intro a0 s
  simp [execClkStep, submit_kept mClkStep_keeps]

@[simp] theorem nextRamp_kept : ∀ a0 s, (nextRamp a0 s).kept = s.kept := by
  intro a0 s
  induction a0 generalizing s with
  | nil => rfl
  | cons j js ih =>
    unfold nextRamp
    repeat' first | split | simp [ih]

@[simp] theorem execClkStepRampEnd_kept : ∀ s, outKept (execClkStepRampEnd s) = some s.kept.2 := by
  intro s
  unfold execClkStepRampEnd
  repeat' first | split | simp | intro _ | rw [State.foldl_kept (fun _ _ => ?_)] | rw [State.each_kept (fun _ _ => ?_)]

@[simp] theorem execPhaseSlewEnd_kept : ∀ s, outKept (execPhaseSlewEnd s) = some s.kept.2 := by
  intro s
  unfold execPhaseSlewEnd
  repeat' first | split | simp | intro _ | rw [State.foldl_kept (fun _ _ => ?_)] | rw [State.each_kept (fun _ _ => ?_)]

@[simp] theorem actClkSync_kept : ∀ a0 s, (actClkSync a0 s).kept = s.kept := by
  intro a0 s
  unfold actClkSync
  repeat' first | split | simp | intro _ | rw [State.foldl_kept (fun _ _ => ?_)] | rw [State.each_kept (fun _ _ => ?_)]

theorem mClkSync_keeps : mClkSync.Keeps where
  act r s := by
    simp only [mClkSync]
    repeat' first | split | simp | intro _ | rw [State.foldl_kept (fun _ _ => ?_)] | rw [State.each_kept (fun _ _ => ?_)]
  fail r st s := by
    simp only [mClkSync]
    repeat' first | split | simp | intro _ | rw [State.foldl_kept (fun _ _ => ?_)] | rw [State.each_kept (fun _ _ => ?_)]
  hold r s := by
    simp only [mClkSync]
    repeat' first | split | simp | intro _ | rw [State.foldl_kept (fun _ _ => ?_)] | rw [State.each_kept (fun _ _ => ?_)]

@[simp] theorem execClkSync_kept : ∀ a0 s, outKept (execClkSync a0 s) = some s.kept.2 := by
  intro a0 s
  simp [execClkSync, submit_kept mClkSync_keeps]

@[simp] theorem execSyncMark_kept : ∀ a0 a1 s, outKept (execSyncMark a0 a1 s) = some s.kept.2 := by
  intro a0 a1 s
  unfold execSyncMark
  repeat' first | split | simp | intro _ | rw [State.foldl_kept (fun _ _ => ?_)] | rw [State.each_kept (fun _ _ => ?_)]

@[simp] theorem execSyncLoad_kept : ∀ s, outKept (execSyncLoad s) = some s.kept.2 := by
  intro s
  unfold execSyncLoad
  repeat' first | split | simp | intro _ | rw [State.foldl_kept (fun _ _ => ?_)] | rw [State.each_kept (fun _ _ => ?_)]

@[simp] theorem execClkSyncWaitExpiry_kept : ∀ s, outKept (execClkSyncWaitExpiry s) = some s.kept.2 := by
  intro s
  unfold execClkSyncWaitExpiry
  repeat' first | split | simp | intro _ | rw [State.foldl_kept (fun _ _ => ?_)] | rw [State.each_kept (fun _ _ => ?_)]

@[simp] theorem actTimeSet_kept : ∀ a0 s, (actTimeSet a0 s).kept = s.kept := by
  intro a0 s
  unfold actTimeSet
  repeat' first | split | simp | intro _ | rw [State.foldl_kept (fun _ _ => ?_)] | rw [State.each_kept (fun _ _ => ?_)]

theorem mTimeSet_keeps : mTimeSet.Keeps where
  act r s := by
    simp only [mTimeSet]
    repeat' first | split | simp | intro _ | rw [State.foldl_kept (fun _ _ => ?_)] | rw [State.each_kept (fun _ _ => ?_)]
  fail r st s := by
    simp only [mTimeSet]
    repeat' first | split | simp | intro _ | rw [State.foldl_kept (fun _ _ => ?_)] | rw [State.each_kept (fun _ _ => ?_)]
  hold r s := by
    simp only [mTimeSet]
    repeat' first | split | simp | intro _ | rw [State.foldl_kept (fun _ _ => ?_)] | rw [State.each_kept (fun _ _ => ?_)]

@[simp] theorem execTimeSet_kept : ∀ a0 s, outKept (execTimeSet a0 s) = some s.kept.2 := by
  intro a0 s
  simp [execTimeSet, submit_kept mTimeSet_keeps]

@[simp] theorem execAdpllLock_kept : ∀ a0 a1 s, outKept (execAdpllLock a0 a1 s) = some s.kept.2 := by
  intro a0 a1 s
  unfold execAdpllLock
  repeat' first | split | simp | intro _ | rw [State.foldl_kept (fun _ _ => ?_)] | rw [State.each_kept (fun _ _ => ?_)]

@[simp] theorem execRequalify_kept : ∀ a0 s, outKept (execRequalify a0 s) = some s.kept.2 := by
  intro a0 s
  unfold execRequalify
  repeat' first | split | simp | intro _ | rw [State.foldl_kept (fun _ _ => ?_)] | rw [State.each_kept (fun _ _ => ?_)]

@[simp] theorem stopForLock_kept : ∀ a0 s, (stopForLock a0 s).kept = s.kept := by
  intro a0 s
  unfold stopForLock
  repeat' first | split | simp | intro _ | rw [State.foldl_kept (fun _ _ => ?_)] | rw [State.each_kept (fun _ _ => ?_)]

@[simp] theorem State.releaseDco_kept : ∀ s, (State.releaseDco s).kept = s.kept := by
  intro s
  unfold State.releaseDco
  repeat' first | split | simp | intro _ | rw [State.foldl_kept (fun _ _ => ?_)] | rw [State.each_kept (fun _ _ => ?_)]

@[simp] theorem State.serveMem_kept : ∀ s, (State.serveMem s).kept = s.kept := by
  intro s
  unfold State.serveMem
  repeat' first | split | simp | intro _ | rw [State.foldl_kept (fun _ _ => ?_)] | rw [State.each_kept (fun _ _ => ?_)]

@[simp] theorem State.closeBatch_kept : ∀ s, (State.closeBatch s).kept = s.kept := by
  intro s
  unfold State.closeBatch
  repeat' first | split | simp | intro _ | rw [State.foldl_kept (fun _ _ => ?_)] | rw [State.each_kept (fun _ _ => ?_)]

@[simp] theorem State.rejectBatch_kept : ∀ s a1, (State.rejectBatch s a1).kept = s.kept := by
  intro s a1
  unfold State.rejectBatch
  repeat' first | split | simp | intro _ | rw [State.foldl_kept (fun _ _ => ?_)] | rw [State.each_kept (fun _ _ => ?_)]

@[simp] theorem State.abandonBatch_kept : ∀ s a1, (State.abandonBatch s a1).kept = s.kept := by
  intro s a1
  unfold State.abandonBatch
  repeat' first | split | simp | intro _ | rw [State.foldl_kept (fun _ _ => ?_)] | rw [State.each_kept (fun _ _ => ?_)]

@[simp] theorem execLossOfLock_kept : ∀ s, outKept (execLossOfLock s) = some s.kept.2 := by
  intro s
  unfold execLossOfLock
  repeat' first | split | simp | intro _ | rw [State.foldl_kept (fun _ _ => ?_)] | rw [State.each_kept (fun _ _ => ?_)]

@[simp] theorem State.loseRef_kept : ∀ s, (State.loseRef s).kept = s.kept := by
  intro s
  unfold State.loseRef
  repeat' first | split | simp | intro _ | rw [State.foldl_kept (fun _ _ => ?_)] | rw [State.each_kept (fun _ _ => ?_)]

@[simp] theorem execLossOfReference_kept : ∀ s, outKept (execLossOfReference s) = some s.kept.2 := by
  intro s
  unfold execLossOfReference
  repeat' first | split | simp | intro _ | rw [State.foldl_kept (fun _ _ => ?_)] | rw [State.each_kept (fun _ _ => ?_)]

@[simp] theorem execRefReturned_kept : ∀ s, outKept (execRefReturned s) = some s.kept.2 := by
  intro s
  unfold execRefReturned
  repeat' first | split | simp | intro _ | rw [State.foldl_kept (fun _ _ => ?_)] | rw [State.each_kept (fun _ _ => ?_)]

@[simp] theorem execReturnEnd_kept : ∀ a0 a1 s, outKept (execReturnEnd a0 a1 s) = some s.kept.2 := by
  intro a0 a1 s
  unfold execReturnEnd
  repeat' first | split | simp | intro _ | rw [State.foldl_kept (fun _ _ => ?_)] | rw [State.each_kept (fun _ _ => ?_)]

@[simp] theorem execRefDeviationMeasure_kept : ∀ a0 s, outKept (execRefDeviationMeasure a0 s) = some s.kept.2 := by
  intro a0 s
  unfold execRefDeviationMeasure
  repeat' first | split | simp | intro _ | rw [State.foldl_kept (fun _ _ => ?_)] | rw [State.each_kept (fun _ _ => ?_)]

@[simp] theorem execClkTbLoRead_kept : ∀ a0 s, outKept (execClkTbLoRead a0 s) = some s.kept.2 := by
  intro a0 s
  unfold execClkTbLoRead
  repeat' first | split | simp | intro _ | rw [State.foldl_kept (fun _ _ => ?_)] | rw [State.each_kept (fun _ _ => ?_)]

@[simp] theorem execTimerTick_kept : ∀ a0 s, outKept (execTimerTick a0 s) = some s.kept.2 := by
  intro a0 s
  unfold execTimerTick
  repeat' first | split | simp | intro _ | rw [State.foldl_kept (fun _ _ => ?_)] | rw [State.each_kept (fun _ _ => ?_)]

end Sys2Proof.Machine
end

