-- ==== Sys2Proof/Laws/KeepsFetch.lean ====
section
/-! SUPPORT. What the operations of Machine/Fetch.lean keep: the order of acceptance, the queue of waiting commands and the
memories (or, where one writes memory, the canonical form); and that a command of it always completes. -/

namespace Sys2Proof.Machine

variable {s t : State}

@[simp] theorem State.updBulk_kept {i g} : (s.updBulk i g).kept = s.kept := State.kept_iff.2 ⟨rfl, rfl, rfl, rfl⟩

@[simp] theorem State.poisonWord_good : ∀ s a1 k, Good k s.kept.2 → Good k (State.poisonWord s a1).kept.2 := by
  intro s a1 k h
  have h' : Good k (s.updMem (fun m => { m with
      poison := insertNat (a1 / 32) m.poison, poisonedCount := sat 65535 (m.poisonedCount + 1) })).kept.2 := by simpa using h
  have hg := State.dramMany_good (a := 32 * (a1 / 32)) (d := List.replicate 32 0) h'
  unfold State.poisonWord
  dsimp only
  split
  · split
    · rw [State.updCtx_kept]; exact hg
    · exact hg
  · exact hg

@[simp] theorem State.poisonFound_kept : ∀ s a1, (State.poisonFound s a1).kept = s.kept := by
  intro s a1
  unfold State.poisonFound
  repeat' first | split | simp | intro _ | rw [State.foldl_kept (fun _ _ => ?_)] | rw [State.each_kept (fun _ _ => ?_)]

@[simp] theorem State.scrubBad_good : ∀ s a1 k, Good k s.kept.2 → Good k (State.scrubBad s a1).kept.2 := by
  intro s a1 k h
  unfold State.scrubBad
  repeat' first | (with_reducible assumption) | split | simp [*] | refine Good.foldl (fun _ _ _ => ?_) ?_ | refine Good.each (fun _ _ _ => ?_) ?_ | intro _

@[simp] theorem State.copyBack_good : ∀ s a1 k, Good k s.kept.2 → Good k (State.copyBack s a1).kept.2 := by
  intro s a1 k h
  unfold State.copyBack
  dsimp only
  rw [State.updMem_kept]
  exact State.dramMany_good h

@[simp] theorem State.access_kept : ∀ s a1 a2, (State.access s a1 a2).kept = s.kept := by
  intro s a1 a2
  unfold State.access
  repeat' first | split | simp | intro _ | rw [State.foldl_kept (fun _ _ => ?_)] | rw [State.each_kept (fun _ _ => ?_)]

@[simp] theorem State.grantTag_kept : ∀ s a1 a2 a3, (State.grantTag s a1 a2 a3).kept = s.kept := by
  intro s a1 a2 a3
  unfold State.grantTag
  repeat' first | split | simp | intro _ | rw [State.foldl_kept (fun _ _ => ?_)] | rw [State.each_kept (fun _ _ => ?_)]

@[simp] theorem State.freeTagNo_kept : ∀ s a1, (State.freeTagNo s a1).kept = s.kept := by
  intro s a1
  unfold State.freeTagNo
  repeat' first | split | simp | intro _ | rw [State.foldl_kept (fun _ _ => ?_)] | rw [State.each_kept (fun _ _ => ?_)]

@[simp] theorem State.issueWrite_kept : ∀ s a1 a2, (State.issueWrite s a1 a2).kept = s.kept := by
  intro s a1 a2
  unfold State.issueWrite
  repeat' first | split | simp | intro _ | rw [State.foldl_kept (fun _ _ => ?_)] | rw [State.each_kept (fun _ _ => ?_)]

@[simp] theorem State.drainUnit_kept : ∀ s a1, (State.drainUnit s a1).kept = s.kept := by
  intro s a1
  unfold State.drainUnit
  repeat' first | split | simp | intro _ | rw [State.foldl_kept (fun _ _ => ?_)] | rw [State.each_kept (fun _ _ => ?_)]

@[simp] theorem State.enqueue_kept : ∀ s a1 a2 a3, (State.enqueue s a1 a2 a3).kept = s.kept := by
  intro s a1 a2 a3
  unfold State.enqueue
  repeat' first | split | simp | intro _ | rw [State.foldl_kept (fun _ _ => ?_)] | rw [State.each_kept (fun _ _ => ?_)]

@[simp] theorem State.enqueueUnit_kept : ∀ s a1 a2, (State.enqueueUnit s a1 a2).kept = s.kept := by
  intro s a1 a2
  unfold State.enqueueUnit
  repeat' first | split | simp | intro _ | rw [State.foldl_kept (fun _ _ => ?_)] | rw [State.each_kept (fun _ _ => ?_)]

@[simp] theorem State.enqueueRange_kept : ∀ s a1 a2 a3 a4, (State.enqueueRange s a1 a2 a3 a4).kept = s.kept := by
  intro s a1 a2 a3 a4
  unfold State.enqueueRange
  repeat' first | split | simp | intro _ | rw [State.foldl_kept (fun _ _ => ?_)] | rw [State.each_kept (fun _ _ => ?_)]

@[simp] theorem State.repairWord_good : ∀ s a1 k, Good k s.kept.2 → Good k (State.repairWord s a1).kept.2 := by
  intro s a1 k h
  unfold State.repairWord
  repeat' first | (with_reducible assumption) | split | simp [*] | refine Good.foldl (fun _ _ _ => ?_) ?_ | refine Good.each (fun _ _ _ => ?_) ?_ | intro _

@[simp] theorem State.writeBacks_kept : ∀ s, (State.writeBacks s).kept = s.kept := by
  intro s
  unfold State.writeBacks
  repeat' first | split | simp | intro _ | rw [State.foldl_kept (fun _ _ => ?_)] | rw [State.each_kept (fun _ _ => ?_)]

@[simp] theorem State.owlAhead_good : ∀ s k, Good k s.kept.2 → Good k (State.owlAhead s).kept.2 := by
  intro s k h
  unfold State.owlAhead
  repeat' first | (with_reducible assumption) | split | simp [*] | refine Good.foldl (fun _ _ _ => ?_) ?_ | refine Good.each (fun _ _ _ => ?_) ?_ | intro _

@[simp] theorem State.addBulk_kept : ∀ s a1 a2 a3 a4 a5 a6, (State.addBulk s a1 a2 a3 a4 a5 a6).kept = s.kept := by
  intro s a1 a2 a3 a4 a5 a6
  unfold State.addBulk
  repeat' first | split | simp | intro _ | rw [State.foldl_kept (fun _ _ => ?_)] | rw [State.each_kept (fun _ _ => ?_)]

@[simp] theorem State.askAgain_kept : ∀ s a1 a2, (State.askAgain s a1 a2).kept = s.kept := by
  intro s a1 a2
  unfold State.askAgain
  repeat' first | split | simp | intro _ | rw [State.foldl_kept (fun _ _ => ?_)] | rw [State.each_kept (fun _ _ => ?_)]

@[simp] theorem State.moveMirror_good : ∀ s a1 a2 a3 k, Good k s.kept.2 → Good k (State.moveMirror s a1 a2 a3).kept.2 := by
  intro s a1 a2 a3 k h
  unfold State.moveMirror
  repeat' first | (with_reducible assumption) | split | simp [*] | refine Good.foldl (fun _ _ _ => ?_) ?_ | refine Good.each (fun _ _ _ => ?_) ?_ | intro _

@[simp] theorem State.moveUnit_good : ∀ s a1 a2 k, Good k s.kept.2 → Good k (State.moveUnit s a1 a2).kept.2 := by
  intro s a1 a2 k h
  unfold State.moveUnit
  repeat' first | (with_reducible assumption) | split | simp [*] | refine Good.foldl (fun _ _ _ => ?_) ?_ | refine Good.each (fun _ _ _ => ?_) ?_ | intro _

@[simp] theorem State.endBulk_kept : ∀ s a1, (State.endBulk s a1).kept = s.kept := by
  intro s a1
  unfold State.endBulk
  repeat' first | split | simp | intro _ | rw [State.foldl_kept (fun _ _ => ?_)] | rw [State.each_kept (fun _ _ => ?_)]

@[simp] theorem State.resumeTimeouts_kept : ∀ s a1, (State.resumeTimeouts s a1).kept = s.kept := by
  intro s a1
  unfold State.resumeTimeouts
  repeat' first | split | simp | intro _ | rw [State.foldl_kept (fun _ _ => ?_)] | rw [State.each_kept (fun _ _ => ?_)]

end Sys2Proof.Machine
end

