-- ==== Sys2Proof/Laws/KeepsContext.lean ====
section
/-! SUPPORT. What the operations of Machine/Context.lean keep: the order of acceptance, the queue of waiting commands and the
memories (or, where one writes memory, the canonical form); and that a command of it always completes. -/

namespace Sys2Proof.Machine

variable {s t : State}

@[simp] theorem allocFail_kept : ∀ a0 a1 a2 s, (allocFail a0 a1 a2 s).kept = s.kept := by
  intro a0 a1 a2 s
  unfold allocFail
  repeat' first | split | simp | intro _ | rw [State.foldl_kept (fun _ _ => ?_)] | rw [State.each_kept (fun _ _ => ?_)]

@[simp] theorem State.openCtx_kept : ∀ s a1 a2, (State.openCtx s a1 a2).kept = s.kept := by
  intro s a1 a2
  unfold State.openCtx
  repeat' first | split | simp | intro _ | rw [State.foldl_kept (fun _ _ => ?_)] | rw [State.each_kept (fun _ _ => ?_)]

@[simp] theorem actCtxOpen_kept : ∀ a0 s, (actCtxOpen a0 s).kept = s.kept := by
  intro a0 s
  unfold actCtxOpen
  repeat' first | split | simp | intro _ | rw [State.foldl_kept (fun _ _ => ?_)] | rw [State.each_kept (fun _ _ => ?_)]

theorem mCtxOpen_keeps : mCtxOpen.Keeps where
  act r s := by
    simp only [mCtxOpen]
    repeat' first | split | simp | intro _ | rw [State.foldl_kept (fun _ _ => ?_)] | rw [State.each_kept (fun _ _ => ?_)]
  fail r st s := by
    simp only [mCtxOpen]
    repeat' first | split | simp | intro _ | rw [State.foldl_kept (fun _ _ => ?_)] | rw [State.each_kept (fun _ _ => ?_)]
  hold r s := by
    simp only [mCtxOpen]
    repeat' first | split | simp | intro _ | rw [State.foldl_kept (fun _ _ => ?_)] | rw [State.each_kept (fun _ _ => ?_)]

@[simp] theorem execCtxOpen_kept : ∀ a0 s, outKept (execCtxOpen a0 s) = some s.kept.2 := by
  intro a0 s
  simp [execCtxOpen, submit_kept mCtxOpen_keeps]

@[simp] theorem State.doReset_kept : ∀ s a1 a2, (State.doReset s a1 a2).kept = s.kept := by
  intro s a1 a2
  unfold State.doReset
  repeat' first | split | simp | intro _ | rw [State.foldl_kept (fun _ _ => ?_)] | rw [State.each_kept (fun _ _ => ?_)]

@[simp] theorem actCtxReset_kept : ∀ a0 s, (actCtxReset a0 s).kept = s.kept := by
  intro a0 s
  unfold actCtxReset
  repeat' first | split | simp | intro _ | rw [State.foldl_kept (fun _ _ => ?_)] | rw [State.each_kept (fun _ _ => ?_)]

theorem mCtxReset_keeps : mCtxReset.Keeps where
  act r s := by
    simp only [mCtxReset]
    repeat' first | split | simp | intro _ | rw [State.foldl_kept (fun _ _ => ?_)] | rw [State.each_kept (fun _ _ => ?_)]
  fail r st s := by
    simp only [mCtxReset]
    repeat' first | split | simp | intro _ | rw [State.foldl_kept (fun _ _ => ?_)] | rw [State.each_kept (fun _ _ => ?_)]
  hold r s := by
    simp only [mCtxReset]
    repeat' first | split | simp | intro _ | rw [State.foldl_kept (fun _ _ => ?_)] | rw [State.each_kept (fun _ _ => ?_)]

@[simp] theorem execCtxReset_kept : ∀ a0 s, outKept (execCtxReset a0 s) = some s.kept.2 := by
  intro a0 s
  simp [execCtxReset, submit_kept mCtxReset_keeps]

@[simp] theorem State.endReset_kept : ∀ s a1 a2, (State.endReset s a1 a2).kept = s.kept := by
  intro s a1 a2
  unfold State.endReset
  repeat' first | split | simp | intro _ | rw [State.foldl_kept (fun _ _ => ?_)] | rw [State.each_kept (fun _ _ => ?_)]

@[simp] theorem execResetComplete_kept : ∀ a0 s, outKept (execResetComplete a0 s) = some s.kept.2 := by
  intro a0 s
  unfold execResetComplete
  repeat' first | split | simp | intro _ | rw [State.foldl_kept (fun _ _ => ?_)] | rw [State.each_kept (fun _ _ => ?_)]

@[simp] theorem execOrphansReclaimed_kept : ∀ a0 s, outKept (execOrphansReclaimed a0 s) = some s.kept.2 := by
  intro a0 s
  unfold execOrphansReclaimed
  repeat' first | split | simp | intro _ | rw [State.foldl_kept (fun _ _ => ?_)] | rw [State.each_kept (fun _ _ => ?_)]

theorem mCtxClose_keeps : mCtxClose.Keeps where
  act r s := by
    simp only [mCtxClose]
    repeat' first | split | simp | intro _ | rw [State.foldl_kept (fun _ _ => ?_)] | rw [State.each_kept (fun _ _ => ?_)]
  fail r st s := by
    simp only [mCtxClose]
    repeat' first | split | simp | intro _ | rw [State.foldl_kept (fun _ _ => ?_)] | rw [State.each_kept (fun _ _ => ?_)]
  hold r s := by
    simp only [mCtxClose]
    repeat' first | split | simp | intro _ | rw [State.foldl_kept (fun _ _ => ?_)] | rw [State.each_kept (fun _ _ => ?_)]

@[simp] theorem execCtxClose_kept : ∀ a0 s, outKept (execCtxClose a0 s) = some s.kept.2 := by
  intro a0 s
  simp [execCtxClose, submit_kept mCtxClose_keeps]

@[simp] theorem State.endClose_kept : ∀ s a1 a2, (State.endClose s a1 a2).kept = s.kept := by
  intro s a1 a2
  unfold State.endClose
  repeat' first | split | simp | intro _ | rw [State.foldl_kept (fun _ _ => ?_)] | rw [State.each_kept (fun _ _ => ?_)]

@[simp] theorem execCloseDrainEnd_kept : ∀ a0 s, outKept (execCloseDrainEnd a0 s) = some s.kept.2 := by
  intro a0 s
  unfold execCloseDrainEnd
  repeat' first | split | simp | intro _ | rw [State.foldl_kept (fun _ _ => ?_)] | rw [State.each_kept (fun _ _ => ?_)]

theorem mCtxBind_keeps : mCtxBind.Keeps where
  act r s := by
    simp only [mCtxBind]
    repeat' first | split | simp | intro _ | rw [State.foldl_kept (fun _ _ => ?_)] | rw [State.each_kept (fun _ _ => ?_)]
  fail r st s := by
    simp only [mCtxBind]
    repeat' first | split | simp | intro _ | rw [State.foldl_kept (fun _ _ => ?_)] | rw [State.each_kept (fun _ _ => ?_)]
  hold r s := by
    simp only [mCtxBind]
    repeat' first | split | simp | intro _ | rw [State.foldl_kept (fun _ _ => ?_)] | rw [State.each_kept (fun _ _ => ?_)]

@[simp] theorem execCtxBind_kept : ∀ a0 s, outKept (execCtxBind a0 s) = some s.kept.2 := by
  intro a0 s
  simp [execCtxBind, submit_kept mCtxBind_keeps]

@[simp] theorem State.grant_kept : ∀ s a1 a2 a3, (State.grant s a1 a2 a3).kept = s.kept := by
  intro s a1 a2 a3
  unfold State.grant
  repeat' first | split | simp | intro _ | rw [State.foldl_kept (fun _ _ => ?_)] | rw [State.each_kept (fun _ _ => ?_)]

theorem mCtxClaim_keeps : mCtxClaim.Keeps where
  act r s := by
    simp only [mCtxClaim]
    repeat' first | split | simp | intro _ | rw [State.foldl_kept (fun _ _ => ?_)] | rw [State.each_kept (fun _ _ => ?_)]
  fail r st s := by
    simp only [mCtxClaim]
    repeat' first | split | simp | intro _ | rw [State.foldl_kept (fun _ _ => ?_)] | rw [State.each_kept (fun _ _ => ?_)]
  hold r s := by
    simp only [mCtxClaim]
    repeat' first | split | simp | intro _ | rw [State.foldl_kept (fun _ _ => ?_)] | rw [State.each_kept (fun _ _ => ?_)]

@[simp] theorem execCtxClaim_kept : ∀ a0 s, outKept (execCtxClaim a0 s) = some s.kept.2 := by
  intro a0 s
  simp [execCtxClaim, submit_kept mCtxClaim_keeps]

@[simp] theorem actCtxRelease_kept : ∀ a0 s, (actCtxRelease a0 s).kept = s.kept := by
  intro a0 s
  unfold actCtxRelease
  repeat' first | split | simp | intro _ | rw [State.foldl_kept (fun _ _ => ?_)] | rw [State.each_kept (fun _ _ => ?_)]

theorem mCtxRelease_keeps : mCtxRelease.Keeps where
  act r s := by
    simp only [mCtxRelease]
    repeat' first | split | simp | intro _ | rw [State.foldl_kept (fun _ _ => ?_)] | rw [State.each_kept (fun _ _ => ?_)]
  fail r st s := by
    simp only [mCtxRelease]
    repeat' first | split | simp | intro _ | rw [State.foldl_kept (fun _ _ => ?_)] | rw [State.each_kept (fun _ _ => ?_)]
  hold r s := by
    simp only [mCtxRelease]
    repeat' first | split | simp | intro _ | rw [State.foldl_kept (fun _ _ => ?_)] | rw [State.each_kept (fun _ _ => ?_)]

@[simp] theorem execCtxRelease_kept : ∀ a0 s, outKept (execCtxRelease a0 s) = some s.kept.2 := by
  intro a0 s
  simp [execCtxRelease, submit_kept mCtxRelease_keeps]

theorem mCtxStatus_keeps : mCtxStatus.Keeps where
  act r s := by
    simp only [mCtxStatus]
    repeat' first | split | simp | intro _ | rw [State.foldl_kept (fun _ _ => ?_)] | rw [State.each_kept (fun _ _ => ?_)]
  fail r st s := by
    simp only [mCtxStatus]
    repeat' first | split | simp | intro _ | rw [State.foldl_kept (fun _ _ => ?_)] | rw [State.each_kept (fun _ _ => ?_)]
  hold r s := by
    simp only [mCtxStatus]
    repeat' first | split | simp | intro _ | rw [State.foldl_kept (fun _ _ => ?_)] | rw [State.each_kept (fun _ _ => ?_)]

@[simp] theorem execCtxStatus_kept : ∀ a0 s, outKept (execCtxStatus a0 s) = some s.kept.2 := by
  intro a0 s
  simp [execCtxStatus, submit_kept mCtxStatus_keeps]

@[simp] theorem execCtxLeadRead_kept : ∀ s, outKept (execCtxLeadRead s) = some s.kept.2 := by
  intro s
  unfold execCtxLeadRead
  repeat' first | split | simp | intro _ | rw [State.foldl_kept (fun _ _ => ?_)] | rw [State.each_kept (fun _ _ => ?_)]

@[simp] theorem execStopDrainEnd_kept : ∀ a0 s, outKept (execStopDrainEnd a0 s) = some s.kept.2 := by
  intro a0 s
  unfold execStopDrainEnd
  repeat' first | split | simp | intro _ | rw [State.foldl_kept (fun _ _ => ?_)] | rw [State.each_kept (fun _ _ => ?_)]

@[simp] theorem State.returnExtents_good : ∀ s a1 a2 k, Good k s.kept.2 → Good k (State.returnExtents s a1 a2).kept.2 := by
  intro s a1 a2 k h
  unfold State.returnExtents
  repeat' first | (with_reducible assumption) | split | simp [*] | refine Good.foldl (fun _ _ _ => ?_) ?_ | refine Good.each (fun _ _ _ => ?_) ?_ | intro _

@[simp] theorem execZeroingComplete_good : ∀ a0 s k, Good k s.kept.2 → outGood k (execZeroingComplete a0 s) := by
  intro a0 s k h
  unfold execZeroingComplete
  repeat' first | (with_reducible assumption) | split | simp [*] | refine Good.foldl (fun _ _ _ => ?_) ?_ | refine Good.each (fun _ _ _ => ?_) ?_ | intro _

end Sys2Proof.Machine
end

