-- ==== Sys2Proof/Laws/KeepsSegment.lean ====
section
/-! SUPPORT. What the operations of Machine/Segment.lean keep: the order of acceptance, the queue of waiting commands and the
memories (or, where one writes memory, the canonical form); and that a command of it always completes. -/

namespace Sys2Proof.Machine

variable {s t : State}

@[simp] theorem actSegAlloc_kept : ∀ a0 s, (actSegAlloc a0 s).kept = s.kept := by
  intro a0 s
  unfold actSegAlloc
  repeat' first | split | simp | intro _ | rw [State.foldl_kept (fun _ _ => ?_)] | rw [State.each_kept (fun _ _ => ?_)]

theorem mSegAlloc_keeps : mSegAlloc.Keeps where
  act r s := by
    simp only [mSegAlloc]
    repeat' first | split | simp | intro _ | rw [State.foldl_kept (fun _ _ => ?_)] | rw [State.each_kept (fun _ _ => ?_)]
  fail r st s := by
    simp only [mSegAlloc]
    repeat' first | split | simp | intro _ | rw [State.foldl_kept (fun _ _ => ?_)] | rw [State.each_kept (fun _ _ => ?_)]
  hold r s := by
    simp only [mSegAlloc]
    repeat' first | split | simp | intro _ | rw [State.foldl_kept (fun _ _ => ?_)] | rw [State.each_kept (fun _ _ => ?_)]

@[simp] theorem execSegAlloc_kept : ∀ a0 s, outKept (execSegAlloc a0 s) = some s.kept.2 := by
  intro a0 s
  simp [execSegAlloc, submit_kept mSegAlloc_keeps]

theorem mSegWrite_keeps : mSegWrite.Keeps where
  act r s := by
    simp only [mSegWrite]
    repeat' first | split | simp | intro _ | rw [State.foldl_kept (fun _ _ => ?_)] | rw [State.each_kept (fun _ _ => ?_)]
  fail r st s := by
    simp only [mSegWrite]
    repeat' first | split | simp | intro _ | rw [State.foldl_kept (fun _ _ => ?_)] | rw [State.each_kept (fun _ _ => ?_)]
  hold r s := by
    simp only [mSegWrite]
    repeat' first | split | simp | intro _ | rw [State.foldl_kept (fun _ _ => ?_)] | rw [State.each_kept (fun _ _ => ?_)]

theorem mSegRead_keeps : mSegRead.Keeps where
  act r s := by
    simp only [mSegRead]
    repeat' first | split | simp | intro _ | rw [State.foldl_kept (fun _ _ => ?_)] | rw [State.each_kept (fun _ _ => ?_)]
  fail r st s := by
    simp only [mSegRead]
    repeat' first | split | simp | intro _ | rw [State.foldl_kept (fun _ _ => ?_)] | rw [State.each_kept (fun _ _ => ?_)]
  hold r s := by
    simp only [mSegRead]
    repeat' first | split | simp | intro _ | rw [State.foldl_kept (fun _ _ => ?_)] | rw [State.each_kept (fun _ _ => ?_)]

@[simp] theorem execSegWrite_kept : ∀ a0 s, outKept (execSegWrite a0 s) = some s.kept.2 := by
  intro a0 s
  simp [execSegWrite, submit_kept mSegWrite_keeps]

@[simp] theorem execSegRead_kept : ∀ a0 s, outKept (execSegRead a0 s) = some s.kept.2 := by
  intro a0 s
  simp [execSegRead, submit_kept mSegRead_keeps]

@[simp] theorem State.clearUnits_kept : ∀ s a1 a2 a3, (State.clearUnits s a1 a2 a3).kept = s.kept := by
  intro s a1 a2 a3
  unfold State.clearUnits
  repeat' first | split | simp | intro _ | rw [State.foldl_kept (fun _ _ => ?_)] | rw [State.each_kept (fun _ _ => ?_)]

@[simp] theorem State.storeSeg_good : ∀ s a1 a2 a3 k, Good k s.kept.2 → Good k (State.storeSeg s a1 a2 a3).kept.2 := by
  intro s a1 a2 a3 k h
  unfold State.storeSeg
  repeat' first | (with_reducible assumption) | split | simp [*] | refine Good.foldl (fun _ _ _ => ?_) ?_ | refine Good.each (fun _ _ _ => ?_) ?_ | intro _

@[simp] theorem takeSegWrite_good : ∀ a0 a1 s k, Good k s.kept.2 → Good k (takeSegWrite a0 a1 s).kept.2 := by
  intro a0 a1 s k h
  unfold takeSegWrite
  repeat' first | (with_reducible assumption) | split | simp [*] | refine Good.foldl (fun _ _ _ => ?_) ?_ | refine Good.each (fun _ _ _ => ?_) ?_ | intro _

@[simp] theorem failSegWrite_good : ∀ a0 a1 s k, Good k s.kept.2 → Good k (failSegWrite a0 a1 s).kept.2 := by
  intro a0 a1 s k h
  unfold failSegWrite
  repeat' first | (with_reducible assumption) | split | simp [*] | refine Good.foldl (fun _ _ _ => ?_) ?_ | refine Good.each (fun _ _ _ => ?_) ?_ | intro _

@[simp] theorem endSegRead_kept : ∀ a0 s, (endSegRead a0 s).kept = s.kept := by
  intro a0 s
  unfold endSegRead
  repeat' first | split | simp | intro _ | rw [State.foldl_kept (fun _ _ => ?_)] | rw [State.each_kept (fun _ _ => ?_)]

theorem mSegFree_keeps : mSegFree.Keeps where
  act r s := by
    simp only [mSegFree]
    repeat' first | split | simp | intro _ | rw [State.foldl_kept (fun _ _ => ?_)] | rw [State.each_kept (fun _ _ => ?_)]
  fail r st s := by
    simp only [mSegFree]
    repeat' first | split | simp | intro _ | rw [State.foldl_kept (fun _ _ => ?_)] | rw [State.each_kept (fun _ _ => ?_)]
  hold r s := by
    simp only [mSegFree]
    repeat' first | split | simp | intro _ | rw [State.foldl_kept (fun _ _ => ?_)] | rw [State.each_kept (fun _ _ => ?_)]

@[simp] theorem execSegFree_kept : ∀ a0 s, outKept (execSegFree a0 s) = some s.kept.2 := by
  intro a0 s
  simp [execSegFree, submit_kept mSegFree_keeps]

@[simp] theorem State.dropPin_kept : ∀ s a1, (State.dropPin s a1).kept = s.kept := by
  intro s a1
  unfold State.dropPin
  repeat' first | split | simp | intro _ | rw [State.foldl_kept (fun _ _ => ?_)] | rw [State.each_kept (fun _ _ => ?_)]

@[simp] theorem actSegPin_kept : ∀ a0 s, (actSegPin a0 s).kept = s.kept := by
  intro a0 s
  unfold actSegPin
  repeat' first | split | simp | intro _ | rw [State.foldl_kept (fun _ _ => ?_)] | rw [State.each_kept (fun _ _ => ?_)]

theorem mSegPin_keeps : mSegPin.Keeps where
  act r s := by
    simp only [mSegPin]
    repeat' first | split | simp | intro _ | rw [State.foldl_kept (fun _ _ => ?_)] | rw [State.each_kept (fun _ _ => ?_)]
  fail r st s := by
    simp only [mSegPin]
    repeat' first | split | simp | intro _ | rw [State.foldl_kept (fun _ _ => ?_)] | rw [State.each_kept (fun _ _ => ?_)]
  hold r s := by
    simp only [mSegPin]
    repeat' first | split | simp | intro _ | rw [State.foldl_kept (fun _ _ => ?_)] | rw [State.each_kept (fun _ _ => ?_)]

@[simp] theorem execSegPin_kept : ∀ a0 s, outKept (execSegPin a0 s) = some s.kept.2 := by
  intro a0 s
  simp [execSegPin, submit_kept mSegPin_keeps]

@[simp] theorem execPinCopyEnd_good : ∀ a0 s k, Good k s.kept.2 → outGood k (execPinCopyEnd a0 s) := by
  intro a0 s k h
  unfold execPinCopyEnd
  repeat' first | (with_reducible assumption) | split | simp [*] | refine Good.foldl (fun _ _ _ => ?_) ?_ | refine Good.each (fun _ _ _ => ?_) ?_ | intro _

theorem mSegMirror_keeps : mSegMirror.Keeps where
  act r s := by
    simp only [mSegMirror]
    repeat' first | split | simp | intro _ | rw [State.foldl_kept (fun _ _ => ?_)] | rw [State.each_kept (fun _ _ => ?_)]
  fail r st s := by
    simp only [mSegMirror]
    repeat' first | split | simp | intro _ | rw [State.foldl_kept (fun _ _ => ?_)] | rw [State.each_kept (fun _ _ => ?_)]
  hold r s := by
    simp only [mSegMirror]
    repeat' first | split | simp | intro _ | rw [State.foldl_kept (fun _ _ => ?_)] | rw [State.each_kept (fun _ _ => ?_)]

@[simp] theorem execSegMirror_kept : ∀ a0 s, outKept (execSegMirror a0 s) = some s.kept.2 := by
  intro a0 s
  simp [execSegMirror, submit_kept mSegMirror_keeps]

@[simp] theorem execMirrorCopyEnd_good : ∀ a0 s k, Good k s.kept.2 → outGood k (execMirrorCopyEnd a0 s) := by
  intro a0 s k h
  unfold execMirrorCopyEnd
  repeat' first | (with_reducible assumption) | split | simp [*] | refine Good.foldl (fun _ _ _ => ?_) ?_ | refine Good.each (fun _ _ _ => ?_) ?_ | intro _

end Sys2Proof.Machine
end

