-- ==== Sys2Proof/Laws/KeepsProgram.lean ====
section
/-! SUPPORT. What the operations of Machine/Program.lean keep: the order of acceptance, the queue of waiting commands and the
memories (or, where one writes memory, the canonical form); and that a command of it always completes. -/

namespace Sys2Proof.Machine

variable {s t : State}

@[simp] theorem State.dropArming_kept : ∀ s a1 a2, (State.dropArming s a1 a2).kept = s.kept := by
  intro s a1 a2
  unfold State.dropArming
  repeat' first | split | simp | intro _ | rw [State.foldl_kept (fun _ _ => ?_)] | rw [State.each_kept (fun _ _ => ?_)]

@[simp] theorem State.unpinSteps_kept : ∀ s a1 a2 a3, (State.unpinSteps s a1 a2 a3).kept = s.kept := by
  intro s a1 a2 a3
  unfold State.unpinSteps
  repeat' first | split | simp | intro _ | rw [State.foldl_kept (fun _ _ => ?_)] | rw [State.each_kept (fun _ _ => ?_)]

theorem State.takePages_kept {c : Nat} : ∀ {l : List Nat} {s t : State}, s.takePages c l = some t → t.kept = s.kept
  | [], s, t, h => by cases h; rfl
  | k :: ks, s, t, h => by
    unfold State.takePages at h
    split at h
    · cases h
    · rw [State.takePages_kept h]; simp

@[simp] theorem actPrgLoad_kept : ∀ a0 s, (actPrgLoad a0 s).kept = s.kept := by
  intro a0 s
  unfold actPrgLoad
  dsimp only
  split
  · simp
  · next h => simp [State.takePages_kept h]

theorem mPrgLoad_keeps : mPrgLoad.Keeps where
  act r s := by
    simp only [mPrgLoad]
    repeat' first | split | simp | intro _ | rw [State.foldl_kept (fun _ _ => ?_)] | rw [State.each_kept (fun _ _ => ?_)]
  fail r st s := by
    simp only [mPrgLoad]
    repeat' first | split | simp | intro _ | rw [State.foldl_kept (fun _ _ => ?_)] | rw [State.each_kept (fun _ _ => ?_)]
  hold r s := by
    simp only [mPrgLoad]
    repeat' first | split | simp | intro _ | rw [State.foldl_kept (fun _ _ => ?_)] | rw [State.each_kept (fun _ _ => ?_)]

@[simp] theorem execPrgLoad_kept : ∀ a0 s, outKept (execPrgLoad a0 s) = some s.kept.2 := by
  intro a0 s
  simp [execPrgLoad, submit_kept mPrgLoad_keeps]

@[simp] theorem State.writeSteps_kept : ∀ s a1 a2 a3, (State.writeSteps s a1 a2 a3).kept = s.kept := by
  intro s a1 a2 a3
  unfold State.writeSteps
  repeat' first | split | simp | intro _ | rw [State.foldl_kept (fun _ _ => ?_)] | rw [State.each_kept (fun _ _ => ?_)]

@[simp] theorem takePrgLoad_kept : ∀ a0 a1 s, (takePrgLoad a0 a1 s).kept = s.kept := by
  intro a0 a1 s
  unfold takePrgLoad
  repeat' first | split | simp | intro _ | rw [State.foldl_kept (fun _ _ => ?_)] | rw [State.each_kept (fun _ _ => ?_)]

@[simp] theorem failPrgLoad_kept : ∀ a0 a1 s, (failPrgLoad a0 a1 s).kept = s.kept := by
  intro a0 a1 s
  unfold failPrgLoad
  repeat' first | split | simp | intro _ | rw [State.foldl_kept (fun _ _ => ?_)] | rw [State.each_kept (fun _ _ => ?_)]

@[simp] theorem State.commitProgram_kept : ∀ s a1, (State.commitProgram s a1).kept = s.kept := by
  intro s a1
  unfold State.commitProgram
  repeat' first | split | simp | intro _ | rw [State.foldl_kept (fun _ _ => ?_)] | rw [State.each_kept (fun _ _ => ?_)]

@[simp] theorem State.noteCheck_kept : (s.noteCheck t).kept = s.kept := State.kept_iff.2 ⟨rfl, rfl, rfl, rfl⟩

theorem mPrgCheck_keeps : mPrgCheck.Keeps where
  act r s := by
    simp only [mPrgCheck]
    repeat' first | split | simp | intro _ | rw [State.foldl_kept (fun _ _ => ?_)] | rw [State.each_kept (fun _ _ => ?_)]
  fail r st s := by
    simp only [mPrgCheck]
    repeat' first | split | simp | intro _ | rw [State.foldl_kept (fun _ _ => ?_)] | rw [State.each_kept (fun _ _ => ?_)]
  hold r s := by
    simp only [mPrgCheck]
    repeat' first | split | simp | intro _ | rw [State.foldl_kept (fun _ _ => ?_)] | rw [State.each_kept (fun _ _ => ?_)]

@[simp] theorem execPrgCheck_kept : ∀ a0 s, outKept (execPrgCheck a0 s) = some s.kept.2 := by
  intro a0 s
  simp [execPrgCheck, submit_kept mPrgCheck_keeps]

@[simp] theorem actPrgArm_kept : ∀ a0 s, (actPrgArm a0 s).kept = s.kept := by
  intro a0 s
  unfold actPrgArm
  repeat' first | split | simp | intro _ | rw [State.foldl_kept (fun _ _ => ?_)] | rw [State.each_kept (fun _ _ => ?_)]

theorem mPrgArm_keeps : mPrgArm.Keeps where
  act r s := by
    simp only [mPrgArm]
    repeat' first | split | simp | intro _ | rw [State.foldl_kept (fun _ _ => ?_)] | rw [State.each_kept (fun _ _ => ?_)]
  fail r st s := by
    simp only [mPrgArm]
    repeat' first | split | simp | intro _ | rw [State.foldl_kept (fun _ _ => ?_)] | rw [State.each_kept (fun _ _ => ?_)]
  hold r s := by
    simp only [mPrgArm]
    repeat' first | split | simp | intro _ | rw [State.foldl_kept (fun _ _ => ?_)] | rw [State.each_kept (fun _ _ => ?_)]

@[simp] theorem execPrgArm_kept : ∀ a0 s, outKept (execPrgArm a0 s) = some s.kept.2 := by
  intro a0 s
  simp [execPrgArm, submit_kept mPrgArm_keeps]

@[simp] theorem State.beginPreRun_kept : ∀ s a1 a2, (State.beginPreRun s a1 a2).kept = s.kept := by
  intro s a1 a2
  unfold State.beginPreRun
  repeat' first | split | simp | intro _ | rw [State.foldl_kept (fun _ _ => ?_)] | rw [State.each_kept (fun _ _ => ?_)]

@[simp] theorem State.takeStart_kept : ∀ s a1, (State.takeStart s a1).kept = s.kept := by
  intro s a1
  unfold State.takeStart
  repeat' first | split | simp | intro _ | rw [State.foldl_kept (fun _ _ => ?_)] | rw [State.each_kept (fun _ _ => ?_)]

@[simp] theorem actPrgStart_kept : ∀ a0 s, (actPrgStart a0 s).kept = s.kept := by
  intro a0 s
  unfold actPrgStart
  repeat' first | split | simp | intro _ | rw [State.foldl_kept (fun _ _ => ?_)] | rw [State.each_kept (fun _ _ => ?_)]

theorem mPrgStart_keeps : mPrgStart.Keeps where
  act r s := by
    simp only [mPrgStart]
    repeat' first | split | simp | intro _ | rw [State.foldl_kept (fun _ _ => ?_)] | rw [State.each_kept (fun _ _ => ?_)]
  fail r st s := by
    simp only [mPrgStart]
    repeat' first | split | simp | intro _ | rw [State.foldl_kept (fun _ _ => ?_)] | rw [State.each_kept (fun _ _ => ?_)]
  hold r s := by
    simp only [mPrgStart]
    repeat' first | split | simp | intro _ | rw [State.foldl_kept (fun _ _ => ?_)] | rw [State.each_kept (fun _ _ => ?_)]

@[simp] theorem execPrgStart_kept : ∀ a0 s, outKept (execPrgStart a0 s) = some s.kept.2 := by
  intro a0 s
  simp [execPrgStart, submit_kept mPrgStart_keeps]

@[simp] theorem actPrgStop_kept : ∀ a0 s, (actPrgStop a0 s).kept = s.kept := by
  intro a0 s
  unfold actPrgStop
  repeat' first | split | simp | intro _ | rw [State.foldl_kept (fun _ _ => ?_)] | rw [State.each_kept (fun _ _ => ?_)]

theorem mPrgStop_keeps : mPrgStop.Keeps where
  act r s := by
    simp only [mPrgStop]
    repeat' first | split | simp | intro _ | rw [State.foldl_kept (fun _ _ => ?_)] | rw [State.each_kept (fun _ _ => ?_)]
  fail r st s := by
    simp only [mPrgStop]
    repeat' first | split | simp | intro _ | rw [State.foldl_kept (fun _ _ => ?_)] | rw [State.each_kept (fun _ _ => ?_)]
  hold r s := by
    simp only [mPrgStop]
    repeat' first | split | simp | intro _ | rw [State.foldl_kept (fun _ _ => ?_)] | rw [State.each_kept (fun _ _ => ?_)]

@[simp] theorem execPrgStop_kept : ∀ a0 s, outKept (execPrgStop a0 s) = some s.kept.2 := by
  intro a0 s
  simp [execPrgStop, submit_kept mPrgStop_keeps]

@[simp] theorem State.pinSteps_kept : ∀ s a1, (State.pinSteps s a1).kept = s.kept := by
  intro s a1
  unfold State.pinSteps
  repeat' first | split | simp | intro _ | rw [State.foldl_kept (fun _ _ => ?_)] | rw [State.each_kept (fun _ _ => ?_)]

@[simp] theorem actJmpArm_kept : ∀ a0 s, (actJmpArm a0 s).kept = s.kept := by
  intro a0 s
  unfold actJmpArm
  repeat' first | split | simp | intro _ | rw [State.foldl_kept (fun _ _ => ?_)] | rw [State.each_kept (fun _ _ => ?_)]

theorem mJmpArm_keeps : mJmpArm.Keeps where
  act r s := by
    simp only [mJmpArm]
    repeat' first | split | simp | intro _ | rw [State.foldl_kept (fun _ _ => ?_)] | rw [State.each_kept (fun _ _ => ?_)]
  fail r st s := by
    simp only [mJmpArm]
    repeat' first | split | simp | intro _ | rw [State.foldl_kept (fun _ _ => ?_)] | rw [State.each_kept (fun _ _ => ?_)]
  hold r s := by
    simp only [mJmpArm]
    repeat' first | split | simp | intro _ | rw [State.foldl_kept (fun _ _ => ?_)] | rw [State.each_kept (fun _ _ => ?_)]

@[simp] theorem execJmpArm_kept : ∀ a0 s, outKept (execJmpArm a0 s) = some s.kept.2 := by
  intro a0 s
  simp [execJmpArm, submit_kept mJmpArm_keeps]

@[simp] theorem execJmpArmCopyEnd_good : ∀ a0 a1 s k, Good k s.kept.2 → outGood k (execJmpArmCopyEnd a0 a1 s) := by
  intro a0 a1 s k h
  unfold execJmpArmCopyEnd
  repeat' first | (with_reducible assumption) | split | simp [*] | refine Good.foldl (fun _ _ _ => ?_) ?_ | refine Good.each (fun _ _ _ => ?_) ?_ | intro _

@[simp] theorem State.setCtr_kept : ∀ s a1 a2 a3, (State.setCtr s a1 a2 a3).kept = s.kept := by
  intro s a1 a2 a3
  unfold State.setCtr
  repeat' first | split | simp | intro _ | rw [State.foldl_kept (fun _ _ => ?_)] | rw [State.each_kept (fun _ _ => ?_)]

theorem mCtrSet_keeps : mCtrSet.Keeps where
  act r s := by
    simp only [mCtrSet]
    repeat' first | split | simp | intro _ | rw [State.foldl_kept (fun _ _ => ?_)] | rw [State.each_kept (fun _ _ => ?_)]
  fail r st s := by
    simp only [mCtrSet]
    repeat' first | split | simp | intro _ | rw [State.foldl_kept (fun _ _ => ?_)] | rw [State.each_kept (fun _ _ => ?_)]
  hold r s := by
    simp only [mCtrSet]
    repeat' first | split | simp | intro _ | rw [State.foldl_kept (fun _ _ => ?_)] | rw [State.each_kept (fun _ _ => ?_)]

@[simp] theorem execCtrSet_kept : ∀ a0 s, outKept (execCtrSet a0 s) = some s.kept.2 := by
  intro a0 s
  simp [execCtrSet, submit_kept mCtrSet_keeps]

end Sys2Proof.Machine
end

