-- ==== Sys2Proof/Laws/KeepsScene.lean ====
section
/-! SUPPORT. What the operations of Machine/Scene.lean keep: the order of acceptance, the queue of waiting commands and the
memories (or, where one writes memory, the canonical form); and that a command of it always completes. -/

namespace Sys2Proof.Machine

variable {s t : State}

theorem mScnDefine_keeps : mScnDefine.Keeps where
  act r s := by
    simp only [mScnDefine]
    repeat' first | split | simp | intro _ | rw [State.foldl_kept (fun _ _ => ?_)] | rw [State.each_kept (fun _ _ => ?_)]
  fail r st s := by
    simp only [mScnDefine]
    repeat' first | split | simp | intro _ | rw [State.foldl_kept (fun _ _ => ?_)] | rw [State.each_kept (fun _ _ => ?_)]
  hold r s := by
    simp only [mScnDefine]
    repeat' first | split | simp | intro _ | rw [State.foldl_kept (fun _ _ => ?_)] | rw [State.each_kept (fun _ _ => ?_)]

@[simp] theorem execScnDefine_kept : ∀ a0 s, outKept (execScnDefine a0 s) = some s.kept.2 := by
  intro a0 s
  simp [execScnDefine, submit_kept mScnDefine_keeps]

@[simp] theorem actScnStartAt_kept : ∀ a0 s, (actScnStartAt a0 s).kept = s.kept := by
  intro a0 s
  unfold actScnStartAt
  repeat' first | split | simp | intro _ | rw [State.foldl_kept (fun _ _ => ?_)] | rw [State.each_kept (fun _ _ => ?_)]

@[simp] theorem failScnStartAt_kept : ∀ a0 a1 s, (failScnStartAt a0 a1 s).kept = s.kept := by
  intro a0 a1 s
  unfold failScnStartAt
  repeat' first | split | simp | intro _ | rw [State.foldl_kept (fun _ _ => ?_)] | rw [State.each_kept (fun _ _ => ?_)]

theorem mScnStartAt_keeps : mScnStartAt.Keeps where
  act r s := by
    simp only [mScnStartAt]
    repeat' first | split | simp | intro _ | rw [State.foldl_kept (fun _ _ => ?_)] | rw [State.each_kept (fun _ _ => ?_)]
  fail r st s := by
    simp only [mScnStartAt]
    repeat' first | split | simp | intro _ | rw [State.foldl_kept (fun _ _ => ?_)] | rw [State.each_kept (fun _ _ => ?_)]
  hold r s := by
    simp only [mScnStartAt]
    repeat' first | split | simp | intro _ | rw [State.foldl_kept (fun _ _ => ?_)] | rw [State.each_kept (fun _ _ => ?_)]

@[simp] theorem execScnStartAt_kept : ∀ a0 s, outKept (execScnStartAt a0 s) = some s.kept.2 := by
  intro a0 s
  simp [execScnStartAt, submit_kept mScnStartAt_keeps]

@[simp] theorem State.cancelScene_kept : ∀ s a1, (State.cancelScene s a1).kept = s.kept := by
  intro s a1
  unfold State.cancelScene
  repeat' first | split | simp | intro _ | rw [State.foldl_kept (fun _ _ => ?_)] | rw [State.each_kept (fun _ _ => ?_)]

theorem mScnAbort_keeps : mScnAbort.Keeps where
  act r s := by
    simp only [mScnAbort]
    repeat' first | split | simp | intro _ | rw [State.foldl_kept (fun _ _ => ?_)] | rw [State.each_kept (fun _ _ => ?_)]
  fail r st s := by
    simp only [mScnAbort]
    repeat' first | split | simp | intro _ | rw [State.foldl_kept (fun _ _ => ?_)] | rw [State.each_kept (fun _ _ => ?_)]
  hold r s := by
    simp only [mScnAbort]
    repeat' first | split | simp | intro _ | rw [State.foldl_kept (fun _ _ => ?_)] | rw [State.each_kept (fun _ _ => ?_)]

@[simp] theorem execScnAbort_kept : ∀ a0 s, outKept (execScnAbort a0 s) = some s.kept.2 := by
  intro a0 s
  simp [execScnAbort, submit_kept mScnAbort_keeps]

theorem mScnDelete_keeps : mScnDelete.Keeps where
  act r s := by
    simp only [mScnDelete]
    repeat' first | split | simp | intro _ | rw [State.foldl_kept (fun _ _ => ?_)] | rw [State.each_kept (fun _ _ => ?_)]
  fail r st s := by
    simp only [mScnDelete]
    repeat' first | split | simp | intro _ | rw [State.foldl_kept (fun _ _ => ?_)] | rw [State.each_kept (fun _ _ => ?_)]
  hold r s := by
    simp only [mScnDelete]
    repeat' first | split | simp | intro _ | rw [State.foldl_kept (fun _ _ => ?_)] | rw [State.each_kept (fun _ _ => ?_)]

@[simp] theorem execScnDelete_kept : ∀ a0 s, outKept (execScnDelete a0 s) = some s.kept.2 := by
  intro a0 s
  simp [execScnDelete, submit_kept mScnDelete_keeps]

end Sys2Proof.Machine
end

