-- ==== Sys2Proof/Laws/KeepsFastCh.lean ====
section
/-! SUPPORT. What the operations of Machine/FastCh.lean keep: the order of acceptance, the queue of waiting commands and the
memories (or, where one writes memory, the canonical form); and that a command of it always completes. -/

namespace Sys2Proof.Machine

variable {s t : State}

@[simp] theorem State.startFch_kept : ∀ s a1 a2, (State.startFch s a1 a2).kept = s.kept := by
  intro s a1 a2
  unfold State.startFch
  repeat' first | split | simp | intro _ | rw [State.foldl_kept (fun _ _ => ?_)] | rw [State.each_kept (fun _ _ => ?_)]

@[simp] theorem actFchConfig_kept : ∀ a0 s, (actFchConfig a0 s).kept = s.kept := by
  intro a0 s
  unfold actFchConfig
  repeat' first | split | simp | intro _ | rw [State.foldl_kept (fun _ _ => ?_)] | rw [State.each_kept (fun _ _ => ?_)]

@[simp] theorem failFchConfig_kept : ∀ a0 a1 s, (failFchConfig a0 a1 s).kept = s.kept := by
  intro a0 a1 s
  unfold failFchConfig
  repeat' first | split | simp | intro _ | rw [State.foldl_kept (fun _ _ => ?_)] | rw [State.each_kept (fun _ _ => ?_)]

theorem mFchConfig_keeps : mFchConfig.Keeps where
  act r s := by
    simp only [mFchConfig]
    repeat' first | split | simp | intro _ | rw [State.foldl_kept (fun _ _ => ?_)] | rw [State.each_kept (fun _ _ => ?_)]
  fail r st s := by
    simp only [mFchConfig]
    repeat' first | split | simp | intro _ | rw [State.foldl_kept (fun _ _ => ?_)] | rw [State.each_kept (fun _ _ => ?_)]
  hold r s := by
    simp only [mFchConfig]
    repeat' first | split | simp | intro _ | rw [State.foldl_kept (fun _ _ => ?_)] | rw [State.each_kept (fun _ _ => ?_)]

@[simp] theorem execFchConfig_kept : ∀ a0 s, outKept (execFchConfig a0 s) = some s.kept.2 := by
  intro a0 s
  simp [execFchConfig, submit_kept mFchConfig_keeps]

theorem mFchMode_keeps : mFchMode.Keeps where
  act r s := by
    simp only [mFchMode]
    repeat' first | split | simp | intro _ | rw [State.foldl_kept (fun _ _ => ?_)] | rw [State.each_kept (fun _ _ => ?_)]
  fail r st s := by
    simp only [mFchMode]
    repeat' first | split | simp | intro _ | rw [State.foldl_kept (fun _ _ => ?_)] | rw [State.each_kept (fun _ _ => ?_)]
  hold r s := by
    simp only [mFchMode]
    repeat' first | split | simp | intro _ | rw [State.foldl_kept (fun _ _ => ?_)] | rw [State.each_kept (fun _ _ => ?_)]

@[simp] theorem execFchMode_kept : ∀ a0 s, outKept (execFchMode a0 s) = some s.kept.2 := by
  intro a0 s
  simp [execFchMode, submit_kept mFchMode_keeps]

@[simp] theorem State.zeroModulator_kept : ∀ s a1, (State.zeroModulator s a1).kept = s.kept := by
  intro s a1
  unfold State.zeroModulator
  repeat' first | split | simp | intro _ | rw [State.foldl_kept (fun _ _ => ?_)] | rw [State.each_kept (fun _ _ => ?_)]

@[simp] theorem execStartBoundary_kept : ∀ a0 s, outKept (execStartBoundary a0 s) = some s.kept.2 := by
  intro a0 s
  unfold execStartBoundary
  repeat' first | split | simp | intro _ | rw [State.foldl_kept (fun _ _ => ?_)] | rw [State.each_kept (fun _ _ => ?_)]

@[simp] theorem execStopRampEnd_kept : ∀ a0 s, outKept (execStopRampEnd a0 s) = some s.kept.2 := by
  intro a0 s
  unfold execStopRampEnd
  repeat' first | split | simp | intro _ | rw [State.foldl_kept (fun _ _ => ?_)] | rw [State.each_kept (fun _ _ => ?_)]

@[simp] theorem execSampleLinkLoss_kept : ∀ a0 s, outKept (execSampleLinkLoss a0 s) = some s.kept.2 := by
  intro a0 s
  unfold execSampleLinkLoss
  repeat' first | split | simp | intro _ | rw [State.foldl_kept (fun _ _ => ?_)] | rw [State.each_kept (fun _ _ => ?_)]

@[simp] theorem execSampleLinkReturn_kept : ∀ a0 s, outKept (execSampleLinkReturn a0 s) = some s.kept.2 := by
  intro a0 s
  unfold execSampleLinkReturn
  repeat' first | split | simp | intro _ | rw [State.foldl_kept (fun _ _ => ?_)] | rw [State.each_kept (fun _ _ => ?_)]

@[simp] theorem State.verdict_kept : ∀ s a1 a2, (State.verdict s a1 a2).kept = s.kept := by
  intro s a1 a2
  unfold State.verdict
  repeat' first | split | simp | intro _ | rw [State.foldl_kept (fun _ _ => ?_)] | rw [State.each_kept (fun _ _ => ?_)]

@[simp] theorem execDriverCurrentLimit_kept : ∀ a0 s, outKept (execDriverCurrentLimit a0 s) = some s.kept.2 := by
  intro a0 s
  unfold execDriverCurrentLimit
  repeat' first | split | simp | intro _ | rw [State.foldl_kept (fun _ _ => ?_)] | rw [State.each_kept (fun _ _ => ?_)]

@[simp] theorem State.setTrim_kept : ∀ s a1 a2, (State.setTrim s a1 a2).kept = s.kept := by
  intro s a1 a2
  unfold State.setTrim
  repeat' first | split | simp | intro _ | rw [State.foldl_kept (fun _ _ => ?_)] | rw [State.each_kept (fun _ _ => ?_)]

@[simp] theorem State.setShadow_kept : ∀ s a1 a2, (State.setShadow s a1 a2).kept = s.kept := by
  intro s a1 a2
  unfold State.setShadow
  repeat' first | split | simp | intro _ | rw [State.foldl_kept (fun _ _ => ?_)] | rw [State.each_kept (fun _ _ => ?_)]

@[simp] theorem State.noteCal_kept : ∀ s a1, (State.noteCal s a1).kept = s.kept := by
  intro s a1
  unfold State.noteCal
  repeat' first | split | simp | intro _ | rw [State.foldl_kept (fun _ _ => ?_)] | rw [State.each_kept (fun _ _ => ?_)]

@[simp] theorem execElementSwap_kept : ∀ a0 a1 a2 s, outKept (execElementSwap a0 a1 a2 s) = some s.kept.2 := by
  intro a0 a1 a2 s
  unfold execElementSwap
  repeat' first | split | simp | intro _ | rw [State.foldl_kept (fun _ _ => ?_)] | rw [State.each_kept (fun _ _ => ?_)]

@[simp] theorem State.retireElement_kept : ∀ s a1 a2, (State.retireElement s a1 a2).kept = s.kept := by
  intro s a1 a2
  unfold State.retireElement
  repeat' first | split | simp | intro _ | rw [State.foldl_kept (fun _ _ => ?_)] | rw [State.each_kept (fun _ _ => ?_)]

@[simp] theorem execElementMeasurementEnd_kept : ∀ a0 a1 a2 a3 s, outKept (execElementMeasurementEnd a0 a1 a2 a3 s) = some s.kept.2 := by
  intro a0 a1 a2 a3 s
  unfold execElementMeasurementEnd
  repeat' first | split | simp | intro _ | rw [State.foldl_kept (fun _ _ => ?_)] | rw [State.each_kept (fun _ _ => ?_)]

end Sys2Proof.Machine
end

