-- ==== Sys2Proof/Laws/KeepsPrecCh.lean ====
section
/-! SUPPORT. What the operations of Machine/PrecCh.lean keep: the order of acceptance, the queue of waiting commands and the
memories (or, where one writes memory, the canonical form); and that a command of it always completes. -/

namespace Sys2Proof.Machine

variable {s t : State}

@[simp] theorem State.beginSwitch_kept : ∀ s a1 a2, (State.beginSwitch s a1 a2).kept = s.kept := by
  intro s a1 a2
  unfold State.beginSwitch
  repeat' first | split | simp | intro _ | rw [State.foldl_kept (fun _ _ => ?_)] | rw [State.each_kept (fun _ _ => ?_)]

@[simp] theorem actPchConfig_kept : ∀ a0 s, (actPchConfig a0 s).kept = s.kept := by
  intro a0 s
  unfold actPchConfig
  repeat' first | split | simp | intro _ | rw [State.foldl_kept (fun _ _ => ?_)] | rw [State.each_kept (fun _ _ => ?_)]

theorem mPchConfig_keeps : mPchConfig.Keeps where
  act r s := by
    simp only [mPchConfig]
    repeat' first | split | simp | intro _ | rw [State.foldl_kept (fun _ _ => ?_)] | rw [State.each_kept (fun _ _ => ?_)]
  fail r st s := by
    simp only [mPchConfig]
    repeat' first | split | simp | intro _ | rw [State.foldl_kept (fun _ _ => ?_)] | rw [State.each_kept (fun _ _ => ?_)]
  hold r s := by
    simp only [mPchConfig]
    repeat' first | split | simp | intro _ | rw [State.foldl_kept (fun _ _ => ?_)] | rw [State.each_kept (fun _ _ => ?_)]

@[simp] theorem execPchConfig_kept : ∀ a0 s, outKept (execPchConfig a0 s) = some s.kept.2 := by
  intro a0 s
  simp [execPchConfig, submit_kept mPchConfig_keeps]

@[simp] theorem State.donePch_kept : ∀ s a1, (State.donePch s a1).kept = s.kept := by
  intro s a1
  unfold State.donePch
  repeat' first | split | simp | intro _ | rw [State.foldl_kept (fun _ _ => ?_)] | rw [State.each_kept (fun _ _ => ?_)]

@[simp] theorem execDisableRampEnd_kept : ∀ a0 s, outKept (execDisableRampEnd a0 s) = some s.kept.2 := by
  intro a0 s
  unfold execDisableRampEnd
  repeat' first | split | simp | intro _ | rw [State.foldl_kept (fun _ _ => ?_)] | rw [State.each_kept (fun _ _ => ?_)]

@[simp] theorem execPchSwitchHold_kept : ∀ a0 s, outKept (execPchSwitchHold a0 s) = some s.kept.2 := by
  intro a0 s
  unfold execPchSwitchHold
  repeat' first | split | simp | intro _ | rw [State.foldl_kept (fun _ _ => ?_)] | rw [State.each_kept (fun _ _ => ?_)]

@[simp] theorem execPchSwitchRelease_kept : ∀ a0 s, outKept (execPchSwitchRelease a0 s) = some s.kept.2 := by
  intro a0 s
  unfold execPchSwitchRelease
  repeat' first | split | simp | intro _ | rw [State.foldl_kept (fun _ _ => ?_)] | rw [State.each_kept (fun _ _ => ?_)]

@[simp] theorem execPchSwitchEnd_kept : ∀ a0 s, outKept (execPchSwitchEnd a0 s) = some s.kept.2 := by
  intro a0 s
  unfold execPchSwitchEnd
  repeat' first | split | simp | intro _ | rw [State.foldl_kept (fun _ _ => ?_)] | rw [State.each_kept (fun _ _ => ?_)]

@[simp] theorem State.loadHold_kept : ∀ s a1 a2, (State.loadHold s a1 a2).kept = s.kept := by
  intro s a1 a2
  unfold State.loadHold
  repeat' first | split | simp | intro _ | rw [State.foldl_kept (fun _ _ => ?_)] | rw [State.each_kept (fun _ _ => ?_)]

theorem mPchLoad_keeps : mPchLoad.Keeps where
  act r s := by
    simp only [mPchLoad]
    repeat' first | split | simp | intro _ | rw [State.foldl_kept (fun _ _ => ?_)] | rw [State.each_kept (fun _ _ => ?_)]
  fail r st s := by
    simp only [mPchLoad]
    repeat' first | split | simp | intro _ | rw [State.foldl_kept (fun _ _ => ?_)] | rw [State.each_kept (fun _ _ => ?_)]
  hold r s := by
    simp only [mPchLoad]
    repeat' first | split | simp | intro _ | rw [State.foldl_kept (fun _ _ => ?_)] | rw [State.each_kept (fun _ _ => ?_)]

@[simp] theorem execPchLoad_kept : ∀ a0 s, outKept (execPchLoad a0 s) = some s.kept.2 := by
  intro a0 s
  simp [execPchLoad, submit_kept mPchLoad_keeps]

@[simp] theorem State.ignoreStrobe_kept : ∀ s a1, (State.ignoreStrobe s a1).kept = s.kept := by
  intro s a1
  unfold State.ignoreStrobe
  repeat' first | split | simp | intro _ | rw [State.foldl_kept (fun _ _ => ?_)] | rw [State.each_kept (fun _ _ => ?_)]

@[simp] theorem State.strobeLate_kept : ∀ s a1 a2, (State.strobeLate s a1 a2).kept = s.kept := by
  intro s a1 a2
  unfold State.strobeLate
  repeat' first | split | simp | intro _ | rw [State.foldl_kept (fun _ _ => ?_)] | rw [State.each_kept (fun _ _ => ?_)]

@[simp] theorem State.deferAfter_kept : ∀ s a1 a2 a3, (State.deferAfter s a1 a2 a3).kept = s.kept := by
  intro s a1 a2 a3
  unfold State.deferAfter
  repeat' first | split | simp | intro _ | rw [State.foldl_kept (fun _ _ => ?_)] | rw [State.each_kept (fun _ _ => ?_)]

@[simp] theorem State.placeStrobe_kept : ∀ s a1 a2, (State.placeStrobe s a1 a2).kept = s.kept := by
  intro s a1 a2
  unfold State.placeStrobe
  repeat' first | split | simp | intro _ | rw [State.foldl_kept (fun _ _ => ?_)] | rw [State.each_kept (fun _ _ => ?_)]

@[simp] theorem State.strobe_kept : ∀ s a1 a2, (State.strobe s a1 a2).kept = s.kept := by
  intro s a1 a2
  unfold State.strobe
  repeat' first | split | simp | intro _ | rw [State.foldl_kept (fun _ _ => ?_)] | rw [State.each_kept (fun _ _ => ?_)]

@[simp] theorem actPchStrobe_kept : ∀ a0 s, (actPchStrobe a0 s).kept = s.kept := by
  intro a0 s
  unfold actPchStrobe
  repeat' first | split | simp | intro _ | rw [State.foldl_kept (fun _ _ => ?_)] | rw [State.each_kept (fun _ _ => ?_)]

theorem mPchStrobe_keeps : mPchStrobe.Keeps where
  act r s := by
    simp only [mPchStrobe]
    repeat' first | split | simp | intro _ | rw [State.foldl_kept (fun _ _ => ?_)] | rw [State.each_kept (fun _ _ => ?_)]
  fail r st s := by
    simp only [mPchStrobe]
    repeat' first | split | simp | intro _ | rw [State.foldl_kept (fun _ _ => ?_)] | rw [State.each_kept (fun _ _ => ?_)]
  hold r s := by
    simp only [mPchStrobe]
    repeat' first | split | simp | intro _ | rw [State.foldl_kept (fun _ _ => ?_)] | rw [State.each_kept (fun _ _ => ?_)]

@[simp] theorem execPchStrobe_kept : ∀ a0 s, outKept (execPchStrobe a0 s) = some s.kept.2 := by
  intro a0 s
  simp [execPchStrobe, submit_kept mPchStrobe_keeps]

@[simp] theorem execLdstbRise_kept : ∀ a0 s, outKept (execLdstbRise a0 s) = some s.kept.2 := by
  intro a0 s
  unfold execLdstbRise
  repeat' first | split | simp | intro _ | rw [State.foldl_kept (fun _ _ => ?_)] | rw [State.each_kept (fun _ _ => ?_)]

@[simp] theorem State.transferTo_kept : ∀ s a1 a2, (State.transferTo s a1 a2).kept = s.kept := by
  intro s a1 a2
  unfold State.transferTo
  repeat' first | split | simp | intro _ | rw [State.foldl_kept (fun _ _ => ?_)] | rw [State.each_kept (fun _ _ => ?_)]

@[simp] theorem State.transfer_kept : ∀ s a1 a2, (State.transfer s a1 a2).kept = s.kept := by
  intro s a1 a2
  unfold State.transfer
  repeat' first | split | simp | intro _ | rw [State.foldl_kept (fun _ _ => ?_)] | rw [State.each_kept (fun _ _ => ?_)]

@[simp] theorem execStrobeTransfer_kept : ∀ a0 s, outKept (execStrobeTransfer a0 s) = some s.kept.2 := by
  intro a0 s
  unfold execStrobeTransfer
  repeat' first | split | simp | intro _ | rw [State.foldl_kept (fun _ _ => ?_)] | rw [State.each_kept (fun _ _ => ?_)]

theorem mPchQueue_keeps : mPchQueue.Keeps where
  act r s := by
    simp only [mPchQueue]
    repeat' first | split | simp | intro _ | rw [State.foldl_kept (fun _ _ => ?_)] | rw [State.each_kept (fun _ _ => ?_)]
  fail r st s := by
    simp only [mPchQueue]
    repeat' first | split | simp | intro _ | rw [State.foldl_kept (fun _ _ => ?_)] | rw [State.each_kept (fun _ _ => ?_)]
  hold r s := by
    simp only [mPchQueue]
    repeat' first | split | simp | intro _ | rw [State.foldl_kept (fun _ _ => ?_)] | rw [State.each_kept (fun _ _ => ?_)]

@[simp] theorem execPchQueue_kept : ∀ a0 s, outKept (execPchQueue a0 s) = some s.kept.2 := by
  intro a0 s
  simp [execPchQueue, submit_kept mPchQueue_keeps]

@[simp] theorem takePchQueue_kept : ∀ a0 a1 s, (takePchQueue a0 a1 s).kept = s.kept := by
  intro a0 a1 s
  unfold takePchQueue
  repeat' first | split | simp | intro _ | rw [State.foldl_kept (fun _ _ => ?_)] | rw [State.each_kept (fun _ _ => ?_)]

@[simp] theorem failPchQueue_kept : ∀ a0 a1 s, (failPchQueue a0 a1 s).kept = s.kept := by
  intro a0 a1 s
  unfold failPchQueue
  repeat' first | split | simp | intro _ | rw [State.foldl_kept (fun _ _ => ?_)] | rw [State.each_kept (fun _ _ => ?_)]

@[simp] theorem State.missTick_kept : ∀ s a1, (State.missTick s a1).kept = s.kept := by
  intro s a1
  unfold State.missTick
  repeat' first | split | simp | intro _ | rw [State.foldl_kept (fun _ _ => ?_)] | rw [State.each_kept (fun _ _ => ?_)]

@[simp] theorem execQueueTick_kept : ∀ a0 s, outKept (execQueueTick a0 s) = some s.kept.2 := by
  intro a0 s
  unfold execQueueTick
  repeat' first | split | simp | intro _ | rw [State.foldl_kept (fun _ _ => ?_)] | rw [State.each_kept (fun _ _ => ?_)]

@[simp] theorem execSettleHoldTake_kept : ∀ a0 s, outKept (execSettleHoldTake a0 s) = some s.kept.2 := by
  intro a0 s
  unfold execSettleHoldTake
  repeat' first | split | simp | intro _ | rw [State.foldl_kept (fun _ _ => ?_)] | rw [State.each_kept (fun _ _ => ?_)]

@[simp] theorem execSettleHoldRelease_kept : ∀ a0 s, outKept (execSettleHoldRelease a0 s) = some s.kept.2 := by
  intro a0 s
  unfold execSettleHoldRelease
  repeat' first | split | simp | intro _ | rw [State.foldl_kept (fun _ _ => ?_)] | rw [State.each_kept (fun _ _ => ?_)]

@[simp] theorem execHoldForced_kept : ∀ a0 s, outKept (execHoldForced a0 s) = some s.kept.2 := by
  intro a0 s
  unfold execHoldForced
  repeat' first | split | simp | intro _ | rw [State.foldl_kept (fun _ _ => ?_)] | rw [State.each_kept (fun _ _ => ?_)]

@[simp] theorem State.turnEnables_kept : ∀ s a1, (State.turnEnables s a1).kept = s.kept := by
  intro s a1
  unfold State.turnEnables
  repeat' first | split | simp | intro _ | rw [State.foldl_kept (fun _ _ => ?_)] | rw [State.each_kept (fun _ _ => ?_)]

@[simp] theorem State.clearFch_kept : ∀ s a1, (State.clearFch s a1).kept = s.kept := by
  intro s a1
  unfold State.clearFch
  repeat' first | split | simp | intro _ | rw [State.foldl_kept (fun _ _ => ?_)] | rw [State.each_kept (fun _ _ => ?_)]

@[simp] theorem State.dropSwitch_kept : ∀ s a1, (State.dropSwitch s a1).kept = s.kept := by
  intro s a1
  unfold State.dropSwitch
  repeat' first | split | simp | intro _ | rw [State.foldl_kept (fun _ _ => ?_)] | rw [State.each_kept (fun _ _ => ?_)]

@[simp] theorem State.clearPch_kept : ∀ s a1 a2, (State.clearPch s a1 a2).kept = s.kept := by
  intro s a1 a2
  unfold State.clearPch
  repeat' first | split | simp | intro _ | rw [State.foldl_kept (fun _ _ => ?_)] | rw [State.each_kept (fun _ _ => ?_)]

@[simp] theorem clearOne_kept : ∀ a0 s, (clearOne a0 s).kept = s.kept := by
  intro a0 s
  unfold clearOne
  repeat' first | split | simp | intro _ | rw [State.foldl_kept (fun _ _ => ?_)] | rw [State.each_kept (fun _ _ => ?_)]

@[simp] theorem execClrnFall_kept : ∀ s, outKept (execClrnFall s) = some s.kept.2 := by
  intro s
  unfold execClrnFall
  repeat' first | split | simp | intro _ | rw [State.foldl_kept (fun _ _ => ?_)] | rw [State.each_kept (fun _ _ => ?_)]

@[simp] theorem State.leaveClear_kept : ∀ s a1, (State.leaveClear s a1).kept = s.kept := by
  intro s a1
  unfold State.leaveClear
  repeat' first | split | simp | intro _ | rw [State.foldl_kept (fun _ _ => ?_)] | rw [State.each_kept (fun _ _ => ?_)]

@[simp] theorem execClrnRise_kept : ∀ s, outKept (execClrnRise s) = some s.kept.2 := by
  intro s
  unfold execClrnRise
  repeat' first | split | simp | intro _ | rw [State.foldl_kept (fun _ _ => ?_)] | rw [State.each_kept (fun _ _ => ?_)]

@[simp] theorem execClearHoldRefresh_kept : ∀ s, outKept (execClearHoldRefresh s) = some s.kept.2 := by
  intro s
  unfold execClearHoldRefresh
  repeat' first | split | simp | intro _ | rw [State.foldl_kept (fun _ _ => ?_)] | rw [State.each_kept (fun _ _ => ?_)]

@[simp] theorem State.tripPch_kept : ∀ s a1, (State.tripPch s a1).kept = s.kept := by
  intro s a1
  unfold State.tripPch
  repeat' first | split | simp | intro _ | rw [State.foldl_kept (fun _ _ => ?_)] | rw [State.each_kept (fun _ _ => ?_)]

@[simp] theorem execComplianceTrip_kept : ∀ a0 s, outKept (execComplianceTrip a0 s) = some s.kept.2 := by
  intro a0 s
  unfold execComplianceTrip
  repeat' first | split | simp | intro _ | rw [State.foldl_kept (fun _ _ => ?_)] | rw [State.each_kept (fun _ _ => ?_)]

@[simp] theorem State.failPch_kept : ∀ s a1, (State.failPch s a1).kept = s.kept := by
  intro s a1
  unfold State.failPch
  repeat' first | split | simp | intro _ | rw [State.foldl_kept (fun _ _ => ?_)] | rw [State.each_kept (fun _ _ => ?_)]

@[simp] theorem execOutputStageFault_kept : ∀ a0 s, outKept (execOutputStageFault a0 s) = some s.kept.2 := by
  intro a0 s
  unfold execOutputStageFault
  repeat' first | split | simp | intro _ | rw [State.foldl_kept (fun _ _ => ?_)] | rw [State.each_kept (fun _ _ => ?_)]

@[simp] theorem execPrecLinkLoss_kept : ∀ s, outKept (execPrecLinkLoss s) = some s.kept.2 := by
  intro s
  unfold execPrecLinkLoss
  repeat' first | split | simp | intro _ | rw [State.foldl_kept (fun _ _ => ?_)] | rw [State.each_kept (fun _ _ => ?_)]

@[simp] theorem State.resumeStrobe_kept : ∀ s a1, (State.resumeStrobe s a1).kept = s.kept := by
  intro s a1
  unfold State.resumeStrobe
  repeat' first | split | simp | intro _ | rw [State.foldl_kept (fun _ _ => ?_)] | rw [State.each_kept (fun _ _ => ?_)]

@[simp] theorem execPrecLinkReturn_kept : ∀ s, outKept (execPrecLinkReturn s) = some s.kept.2 := by
  intro s
  unfold execPrecLinkReturn
  repeat' first | split | simp | intro _ | rw [State.foldl_kept (fun _ _ => ?_)] | rw [State.each_kept (fun _ _ => ?_)]

end Sys2Proof.Machine
end

