-- ==== Sys2Proof/Laws/KeepsVoiceCh.lean ====
section
/-! SUPPORT. What the operations of Machine/VoiceCh.lean keep: the order of acceptance, the queue of waiting commands and the
memories (or, where one writes memory, the canonical form); and that a command of it always completes. -/

namespace Sys2Proof.Machine

variable {s t : State}

@[simp] theorem State.vocHop_kept : ∀ s a1 a2, (State.vocHop s a1 a2).kept = s.kept := by
  intro s a1 a2
  unfold State.vocHop
  repeat' first | split | simp | intro _ | rw [State.foldl_kept (fun _ _ => ?_)] | rw [State.each_kept (fun _ _ => ?_)]

@[simp] theorem actVocConfig_kept : ∀ a0 s, (actVocConfig a0 s).kept = s.kept := by
  intro a0 s
  unfold actVocConfig
  repeat' first | split | simp | intro _ | rw [State.foldl_kept (fun _ _ => ?_)] | rw [State.each_kept (fun _ _ => ?_)]

theorem mVocConfig_keeps : mVocConfig.Keeps where
  act r s := by
    simp only [mVocConfig]
    repeat' first | split | simp | intro _ | rw [State.foldl_kept (fun _ _ => ?_)] | rw [State.each_kept (fun _ _ => ?_)]
  fail r st s := by
    simp only [mVocConfig]
    repeat' first | split | simp | intro _ | rw [State.foldl_kept (fun _ _ => ?_)] | rw [State.each_kept (fun _ _ => ?_)]
  hold r s := by
    simp only [mVocConfig]
    repeat' first | split | simp | intro _ | rw [State.foldl_kept (fun _ _ => ?_)] | rw [State.each_kept (fun _ _ => ?_)]

@[simp] theorem execVocConfig_kept : ∀ a0 s, outKept (execVocConfig a0 s) = some s.kept.2 := by
  intro a0 s
  simp [execVocConfig, submit_kept mVocConfig_keeps]

@[simp] theorem State.follow_kept : ∀ s a1 a2, (State.follow s a1 a2).kept = s.kept := by
  intro s a1 a2
  unfold State.follow
  repeat' first | split | simp | intro _ | rw [State.foldl_kept (fun _ _ => ?_)] | rw [State.each_kept (fun _ _ => ?_)]

@[simp] theorem execFollowUpdate_kept : ∀ a0 s, outKept (execFollowUpdate a0 s) = some s.kept.2 := by
  intro a0 s
  unfold execFollowUpdate
  repeat' first | split | simp | intro _ | rw [State.foldl_kept (fun _ _ => ?_)] | rw [State.each_kept (fun _ _ => ?_)]

@[simp] theorem State.startAction_kept : ∀ s a1 a2, (State.startAction s a1 a2).kept = s.kept := by
  intro s a1 a2
  unfold State.startAction
  repeat' first | split | simp | intro _ | rw [State.foldl_kept (fun _ _ => ?_)] | rw [State.each_kept (fun _ _ => ?_)]

@[simp] theorem State.idleVoice_kept : ∀ s a1 a2, (State.idleVoice s a1 a2).kept = s.kept := by
  intro s a1 a2
  unfold State.idleVoice
  repeat' first | split | simp | intro _ | rw [State.foldl_kept (fun _ _ => ?_)] | rw [State.each_kept (fun _ _ => ?_)]

@[simp] theorem State.beginAction_kept : ∀ s a1 a2, (State.beginAction s a1 a2).kept = s.kept := by
  intro s a1 a2
  unfold State.beginAction
  repeat' first | split | simp | intro _ | rw [State.foldl_kept (fun _ _ => ?_)] | rw [State.each_kept (fun _ _ => ?_)]

@[simp] theorem State.lateFill_kept : ∀ s a1 a2, (State.lateFill s a1 a2).kept = s.kept := by
  intro s a1 a2
  unfold State.lateFill
  repeat' first | split | simp | intro _ | rw [State.foldl_kept (fun _ _ => ?_)] | rw [State.each_kept (fun _ _ => ?_)]

@[simp] theorem execVoiceActionStart_kept : ∀ a0 s, outKept (execVoiceActionStart a0 s) = some s.kept.2 := by
  intro a0 s
  unfold execVoiceActionStart
  repeat' first | split | simp | intro _ | rw [State.foldl_kept (fun _ _ => ?_)] | rw [State.each_kept (fun _ _ => ?_)]

@[simp] theorem execVoiceActionEnd_kept : ∀ a0 s, outKept (execVoiceActionEnd a0 s) = some s.kept.2 := by
  intro a0 s
  unfold execVoiceActionEnd
  repeat' first | split | simp | intro _ | rw [State.foldl_kept (fun _ _ => ?_)] | rw [State.each_kept (fun _ _ => ?_)]

@[simp] theorem execActionLate_kept : ∀ a0 a1 s, outKept (execActionLate a0 a1 s) = some s.kept.2 := by
  intro a0 a1 s
  unfold execActionLate
  repeat' first | split | simp | intro _ | rw [State.foldl_kept (fun _ _ => ?_)] | rw [State.each_kept (fun _ _ => ?_)]

@[simp] theorem State.beginFill_kept : ∀ s a1 a2 a3 a4, (State.beginFill s a1 a2 a3 a4).kept = s.kept := by
  intro s a1 a2 a3 a4
  unfold State.beginFill
  repeat' first | split | simp | intro _ | rw [State.foldl_kept (fun _ _ => ?_)] | rw [State.each_kept (fun _ _ => ?_)]

@[simp] theorem State.overFill_kept : ∀ s a1 a2 a3 a4, (State.overFill s a1 a2 a3 a4).kept = s.kept := by
  intro s a1 a2 a3 a4
  unfold State.overFill
  repeat' first | split | simp | intro _ | rw [State.foldl_kept (fun _ _ => ?_)] | rw [State.each_kept (fun _ _ => ?_)]

@[simp] theorem execVoiceUnderrun_kept : ∀ a0 a1 a2 a3 s, outKept (execVoiceUnderrun a0 a1 a2 a3 s) = some s.kept.2 := by
  intro a0 a1 a2 a3 s
  unfold execVoiceUnderrun
  repeat' first | split | simp | intro _ | rw [State.foldl_kept (fun _ _ => ?_)] | rw [State.each_kept (fun _ _ => ?_)]

@[simp] theorem execVoiceRampEnd_kept : ∀ a0 s, outKept (execVoiceRampEnd a0 s) = some s.kept.2 := by
  intro a0 s
  unfold execVoiceRampEnd
  repeat' first | split | simp | intro _ | rw [State.foldl_kept (fun _ _ => ?_)] | rw [State.each_kept (fun _ _ => ?_)]

end Sys2Proof.Machine
end

