-- ==== Sys2Proof/Laws/KeepsTmu.lean ====
section
/-! SUPPORT. What the operations of Machine/Tmu.lean keep: the order of acceptance, the queue of waiting commands and the
memories (or, where one writes memory, the canonical form); and that a command of it always completes. -/

namespace Sys2Proof.Machine

variable {s t : State}

@[simp] theorem State.feedSlot_kept : ∀ s a1 a2 a3, (State.feedSlot s a1 a2 a3).kept = s.kept := by
  intro s a1 a2 a3
  unfold State.feedSlot
  repeat' first | split | simp | intro _ | rw [State.foldl_kept (fun _ _ => ?_)] | rw [State.each_kept (fun _ _ => ?_)]

@[simp] theorem State.feedAll_kept : ∀ s a1 a2, (State.feedAll s a1 a2).kept = s.kept := by
  intro s a1 a2
  unfold State.feedAll
  repeat' first | split | simp | intro _ | rw [State.foldl_kept (fun _ _ => ?_)] | rw [State.each_kept (fun _ _ => ?_)]

@[simp] theorem State.feedChannel_kept : ∀ s a1 a2, (State.feedChannel s a1 a2).kept = s.kept := by
  intro s a1 a2
  unfold State.feedChannel
  repeat' first | split | simp | intro _ | rw [State.foldl_kept (fun _ _ => ?_)] | rw [State.each_kept (fun _ _ => ?_)]

theorem mTmuConfig_keeps : mTmuConfig.Keeps where
  act r s := by
    simp only [mTmuConfig]
    repeat' first | split | simp | intro _ | rw [State.foldl_kept (fun _ _ => ?_)] | rw [State.each_kept (fun _ _ => ?_)]
  fail r st s := by
    simp only [mTmuConfig]
    repeat' first | split | simp | intro _ | rw [State.foldl_kept (fun _ _ => ?_)] | rw [State.each_kept (fun _ _ => ?_)]
  hold r s := by
    simp only [mTmuConfig]
    repeat' first | split | simp | intro _ | rw [State.foldl_kept (fun _ _ => ?_)] | rw [State.each_kept (fun _ _ => ?_)]

@[simp] theorem execTmuConfig_kept : ∀ a0 s, outKept (execTmuConfig a0 s) = some s.kept.2 := by
  intro a0 s
  simp [execTmuConfig, submit_kept mTmuConfig_keeps]

@[simp] theorem execTmuSettled_kept : ∀ a0 s, outKept (execTmuSettled a0 s) = some s.kept.2 := by
  intro a0 s
  unfold execTmuSettled
  repeat' first | split | simp | intro _ | rw [State.foldl_kept (fun _ _ => ?_)] | rw [State.each_kept (fun _ _ => ?_)]

@[simp] theorem execTdcCalibration_kept : ∀ a0 s, outKept (execTdcCalibration a0 s) = some s.kept.2 := by
  intro a0 s
  unfold execTdcCalibration
  repeat' first | split | simp | intro _ | rw [State.foldl_kept (fun _ _ => ?_)] | rw [State.each_kept (fun _ _ => ?_)]

@[simp] theorem State.overrunJmp_kept : ∀ s a1 a2, (State.overrunJmp s a1 a2).kept = s.kept := by
  intro s a1 a2
  unfold State.overrunJmp
  repeat' first | split | simp | intro _ | rw [State.foldl_kept (fun _ _ => ?_)] | rw [State.each_kept (fun _ _ => ?_)]

@[simp] theorem State.jumpEvent_kept : ∀ s a1 a2 a3 a4, (State.jumpEvent s a1 a2 a3 a4).kept = s.kept := by
  intro s a1 a2 a3 a4
  unfold State.jumpEvent
  repeat' first | split | simp | intro _ | rw [State.foldl_kept (fun _ _ => ?_)] | rw [State.each_kept (fun _ _ => ?_)]

@[simp] theorem State.inputEvent_kept : ∀ s a1 a2 a3 a4 a5, (State.inputEvent s a1 a2 a3 a4 a5).kept = s.kept := by
  intro s a1 a2 a3 a4 a5
  unfold State.inputEvent
  repeat' first | split | simp | intro _ | rw [State.foldl_kept (fun _ _ => ?_)] | rw [State.each_kept (fun _ _ => ?_)]

@[simp] theorem execInputEdge_kept : ∀ a0 a1 a2 s, outKept (execInputEdge a0 a1 a2 s) = some s.kept.2 := by
  intro a0 a1 a2 s
  unfold execInputEdge
  repeat' first | split | simp | intro _ | rw [State.foldl_kept (fun _ _ => ?_)] | rw [State.each_kept (fun _ _ => ?_)]

@[simp] theorem execHoldOffEnd_kept : ∀ a0 a1 s, outKept (execHoldOffEnd a0 a1 s) = some s.kept.2 := by
  intro a0 a1 s
  unfold execHoldOffEnd
  repeat' first | split | simp | intro _ | rw [State.foldl_kept (fun _ _ => ?_)] | rw [State.each_kept (fun _ _ => ?_)]

@[simp] theorem State.takePositions_kept : ∀ s a1, (State.takePositions s a1).kept = s.kept := by
  intro s a1
  unfold State.takePositions
  repeat' first | split | simp | intro _ | rw [State.foldl_kept (fun _ _ => ?_)] | rw [State.each_kept (fun _ _ => ?_)]

@[simp] theorem actTmuRun_kept : ∀ a0 s, (actTmuRun a0 s).kept = s.kept := by
  intro a0 s
  unfold actTmuRun
  repeat' first | split | simp | intro _ | rw [State.foldl_kept (fun _ _ => ?_)] | rw [State.each_kept (fun _ _ => ?_)]

theorem mTmuRun_keeps : mTmuRun.Keeps where
  act r s := by
    simp only [mTmuRun]
    repeat' first | split | simp | intro _ | rw [State.foldl_kept (fun _ _ => ?_)] | rw [State.each_kept (fun _ _ => ?_)]
  fail r st s := by
    simp only [mTmuRun]
    repeat' first | split | simp | intro _ | rw [State.foldl_kept (fun _ _ => ?_)] | rw [State.each_kept (fun _ _ => ?_)]
  hold r s := by
    simp only [mTmuRun]
    repeat' first | split | simp | intro _ | rw [State.foldl_kept (fun _ _ => ?_)] | rw [State.each_kept (fun _ _ => ?_)]

@[simp] theorem execTmuRun_kept : ∀ a0 s, outKept (execTmuRun a0 s) = some s.kept.2 := by
  intro a0 s
  simp [execTmuRun, submit_kept mTmuRun_keeps]

@[simp] theorem State.registerBlock_kept : ∀ s a1 a2 a3 a4, (State.registerBlock s a1 a2 a3 a4).kept = s.kept := by
  intro s a1 a2 a3 a4
  unfold State.registerBlock
  repeat' first | split | simp | intro _ | rw [State.foldl_kept (fun _ _ => ?_)] | rw [State.each_kept (fun _ _ => ?_)]

@[simp] theorem State.nextBlock_kept : ∀ s a1 a2 a3 a4 a5, (State.nextBlock s a1 a2 a3 a4 a5).kept = s.kept := by
  intro s a1 a2 a3 a4 a5
  unfold State.nextBlock
  repeat' first | split | simp | intro _ | rw [State.foldl_kept (fun _ _ => ?_)] | rw [State.each_kept (fun _ _ => ?_)]

@[simp] theorem execTmuResult_kept : ∀ a0 s, outKept (execTmuResult a0 s) = some s.kept.2 := by
  intro a0 s
  unfold execTmuResult
  repeat' first | split | simp | intro _ | rw [State.foldl_kept (fun _ _ => ?_)] | rw [State.each_kept (fun _ _ => ?_)]

@[simp] theorem State.timeoutTmu_kept : ∀ s a1, (State.timeoutTmu s a1).kept = s.kept := by
  intro s a1
  unfold State.timeoutTmu
  repeat' first | split | simp | intro _ | rw [State.foldl_kept (fun _ _ => ?_)] | rw [State.each_kept (fun _ _ => ?_)]

@[simp] theorem execTmuBlockTimeout_kept : ∀ a0 s, outKept (execTmuBlockTimeout a0 s) = some s.kept.2 := by
  intro a0 s
  unfold execTmuBlockTimeout
  repeat' first | split | simp | intro _ | rw [State.foldl_kept (fun _ _ => ?_)] | rw [State.each_kept (fun _ _ => ?_)]

theorem mTmuRead_keeps : mTmuRead.Keeps where
  act r s := by
    simp only [mTmuRead]
    repeat' first | split | simp | intro _ | rw [State.foldl_kept (fun _ _ => ?_)] | rw [State.each_kept (fun _ _ => ?_)]
  fail r st s := by
    simp only [mTmuRead]
    repeat' first | split | simp | intro _ | rw [State.foldl_kept (fun _ _ => ?_)] | rw [State.each_kept (fun _ _ => ?_)]
  hold r s := by
    simp only [mTmuRead]
    repeat' first | split | simp | intro _ | rw [State.foldl_kept (fun _ _ => ?_)] | rw [State.each_kept (fun _ _ => ?_)]

@[simp] theorem execTmuRead_kept : ∀ a0 s, outKept (execTmuRead a0 s) = some s.kept.2 := by
  intro a0 s
  simp [execTmuRead, submit_kept mTmuRead_keeps]

end Sys2Proof.Machine
end

