-- ==== Sys2Proof/Laws/KeepsEvent.lean ====
section
/-! SUPPORT. What the operations of Machine/Event.lean keep: the order of acceptance, the queue of waiting commands and the
memories (or, where one writes memory, the canonical form); and that a command of it always completes. -/

namespace Sys2Proof.Machine

variable {s t : State}

@[simp] theorem State.snapRegs_kept : ∀ s a1, (State.snapRegs s a1).kept = s.kept := by
  intro s a1
  unfold State.snapRegs
  repeat' first | split | simp | intro _ | rw [State.foldl_kept (fun _ _ => ?_)] | rw [State.each_kept (fun _ _ => ?_)]

@[simp] theorem actEvtRoute_kept : ∀ a0 s, (actEvtRoute a0 s).kept = s.kept := by
  intro a0 s
  unfold actEvtRoute
  repeat' first | split | simp | intro _ | rw [State.foldl_kept (fun _ _ => ?_)] | rw [State.each_kept (fun _ _ => ?_)]

theorem mEvtRoute_keeps : mEvtRoute.Keeps where
  act r s := by
    simp only [mEvtRoute]
    repeat' first | split | simp | intro _ | rw [State.foldl_kept (fun _ _ => ?_)] | rw [State.each_kept (fun _ _ => ?_)]
  fail r st s := by
    simp only [mEvtRoute]
    repeat' first | split | simp | intro _ | rw [State.foldl_kept (fun _ _ => ?_)] | rw [State.each_kept (fun _ _ => ?_)]
  hold r s := by
    simp only [mEvtRoute]
    repeat' first | split | simp | intro _ | rw [State.foldl_kept (fun _ _ => ?_)] | rw [State.each_kept (fun _ _ => ?_)]

@[simp] theorem execEvtRoute_kept : ∀ a0 s, outKept (execEvtRoute a0 s) = some s.kept.2 := by
  intro a0 s
  simp [execEvtRoute, submit_kept mEvtRoute_keeps]

@[simp] theorem actEvtLut_kept : ∀ a0 s, (actEvtLut a0 s).kept = s.kept := by
  intro a0 s
  unfold actEvtLut
  repeat' first | split | simp | intro _ | rw [State.foldl_kept (fun _ _ => ?_)] | rw [State.each_kept (fun _ _ => ?_)]

theorem mEvtLut_keeps : mEvtLut.Keeps where
  act r s := by
    simp only [mEvtLut]
    repeat' first | split | simp | intro _ | rw [State.foldl_kept (fun _ _ => ?_)] | rw [State.each_kept (fun _ _ => ?_)]
  fail r st s := by
    simp only [mEvtLut]
    repeat' first | split | simp | intro _ | rw [State.foldl_kept (fun _ _ => ?_)] | rw [State.each_kept (fun _ _ => ?_)]
  hold r s := by
    simp only [mEvtLut]
    repeat' first | split | simp | intro _ | rw [State.foldl_kept (fun _ _ => ?_)] | rw [State.each_kept (fun _ _ => ?_)]

@[simp] theorem execEvtLut_kept : ∀ a0 s, outKept (execEvtLut a0 s) = some s.kept.2 := by
  intro a0 s
  simp [execEvtLut, submit_kept mEvtLut_keeps]

@[simp] theorem execLutCellFire_kept : ∀ a0 s, outKept (execLutCellFire a0 s) = some s.kept.2 := by
  intro a0 s
  unfold execLutCellFire
  repeat' first | split | simp | intro _ | rw [State.foldl_kept (fun _ _ => ?_)] | rw [State.each_kept (fun _ _ => ?_)]

@[simp] theorem State.fireReject_kept : ∀ s a1, (State.fireReject s a1).kept = s.kept := by
  intro s a1
  unfold State.fireReject
  repeat' first | split | simp | intro _ | rw [State.foldl_kept (fun _ _ => ?_)] | rw [State.each_kept (fun _ _ => ?_)]

theorem mEvtFire_keeps : mEvtFire.Keeps where
  act r s := by
    simp only [mEvtFire]
    repeat' first | split | simp | intro _ | rw [State.foldl_kept (fun _ _ => ?_)] | rw [State.each_kept (fun _ _ => ?_)]
  fail r st s := by
    simp only [mEvtFire]
    repeat' first | split | simp | intro _ | rw [State.foldl_kept (fun _ _ => ?_)] | rw [State.each_kept (fun _ _ => ?_)]
  hold r s := by
    simp only [mEvtFire]
    repeat' first | split | simp | intro _ | rw [State.foldl_kept (fun _ _ => ?_)] | rw [State.each_kept (fun _ _ => ?_)]

@[simp] theorem execEvtFire_kept : ∀ a0 s, outKept (execEvtFire a0 s) = some s.kept.2 := by
  intro a0 s
  simp [execEvtFire, submit_kept mEvtFire_keeps]

@[simp] theorem State.fnFire_kept : ∀ s a1 a2, (State.fnFire s a1 a2).kept = s.kept := by
  intro s a1 a2
  unfold State.fnFire
  repeat' first | split | simp | intro _ | rw [State.foldl_kept (fun _ _ => ?_)] | rw [State.each_kept (fun _ _ => ?_)]

@[simp] theorem execSysFnFire_kept : ∀ a0 a1 s, outKept (execSysFnFire a0 a1 s) = some s.kept.2 := by
  intro a0 a1 s
  unfold execSysFnFire
  repeat' first | split | simp | intro _ | rw [State.foldl_kept (fun _ _ => ?_)] | rw [State.each_kept (fun _ _ => ?_)]

@[simp] theorem State.fnStrobe_kept : ∀ s a1 a2, (State.fnStrobe s a1 a2).kept = s.kept := by
  intro s a1 a2
  unfold State.fnStrobe
  repeat' first | split | simp | intro _ | rw [State.foldl_kept (fun _ _ => ?_)] | rw [State.each_kept (fun _ _ => ?_)]

@[simp] theorem execSysFnStrobe_kept : ∀ a0 a1 s, outKept (execSysFnStrobe a0 a1 s) = some s.kept.2 := by
  intro a0 a1 s
  unfold execSysFnStrobe
  repeat' first | split | simp | intro _ | rw [State.foldl_kept (fun _ _ => ?_)] | rw [State.each_kept (fun _ _ => ?_)]

@[simp] theorem State.eoEvent_kept : ∀ s a1 a2, (State.eoEvent s a1 a2).kept = s.kept := by
  intro s a1 a2
  unfold State.eoEvent
  repeat' first | split | simp | intro _ | rw [State.foldl_kept (fun _ _ => ?_)] | rw [State.each_kept (fun _ _ => ?_)]

@[simp] theorem execEoPulseStart_kept : ∀ a0 s, outKept (execEoPulseStart a0 s) = some s.kept.2 := by
  intro a0 s
  unfold execEoPulseStart
  repeat' first | split | simp | intro _ | rw [State.foldl_kept (fun _ _ => ?_)] | rw [State.each_kept (fun _ _ => ?_)]

@[simp] theorem execEoPulseEnd_kept : ∀ a0 s, outKept (execEoPulseEnd a0 s) = some s.kept.2 := by
  intro a0 s
  unfold execEoPulseEnd
  repeat' first | split | simp | intro _ | rw [State.foldl_kept (fun _ _ => ?_)] | rw [State.each_kept (fun _ _ => ?_)]

end Sys2Proof.Machine
end

