-- ==== Sys2Proof/Laws/KeepsCalib.lean ====
section
/-! SUPPORT. What the operations of Machine/Calib.lean keep: the order of acceptance, the queue of waiting commands and the
memories (or, where one writes memory, the canonical form); and that a command of it always completes. -/

namespace Sys2Proof.Machine

variable {s t : State}

@[simp] theorem State.readPch_kept : ∀ s a1 a2, (State.readPch s a1 a2).kept = s.kept := by
  intro s a1 a2
  unfold State.readPch
  repeat' first | split | simp | intro _ | rw [State.foldl_kept (fun _ _ => ?_)] | rw [State.each_kept (fun _ _ => ?_)]

@[simp] theorem State.readSensor_kept : ∀ s a1 a2, (State.readSensor s a1 a2).kept = s.kept := by
  intro s a1 a2
  unfold State.readSensor
  repeat' first | split | simp | intro _ | rw [State.foldl_kept (fun _ _ => ?_)] | rw [State.each_kept (fun _ _ => ?_)]

@[simp] theorem State.ageItem_kept : ∀ s a1 a2 a3, (State.ageItem s a1 a2 a3).kept = s.kept := by
  intro s a1 a2 a3
  unfold State.ageItem
  repeat' first | split | simp | intro _ | rw [State.foldl_kept (fun _ _ => ?_)] | rw [State.each_kept (fun _ _ => ?_)]

@[simp] theorem readAll_kept : ∀ a0 a1 s, (readAll a0 a1 s).kept = s.kept := by
  intro a0 a1 s
  induction a1 generalizing a0 s with
  | nil => rfl
  | cons r rs ih => rw [readAll, ih]; simp

@[simp] theorem execMonitorFrame_kept : ∀ a0 a1 s, outKept (execMonitorFrame a0 a1 s) = some s.kept.2 := by
  intro a0 a1 s
  unfold execMonitorFrame
  repeat' first | split | simp | intro _ | rw [State.foldl_kept (fun _ _ => ?_)] | rw [State.each_kept (fun _ _ => ?_)]

@[simp] theorem execMonitorWindowEnd_kept : ∀ a0 a1 a2 a3 a4 s, outKept (execMonitorWindowEnd a0 a1 a2 a3 a4 s) = some s.kept.2 := by
  intro a0 a1 a2 a3 a4 s
  unfold execMonitorWindowEnd
  repeat' first | split | simp | intro _ | rw [State.foldl_kept (fun _ _ => ?_)] | rw [State.each_kept (fun _ _ => ?_)]

@[simp] theorem execAdaptationUpdate_kept : ∀ a0 a1 a2 a3 a4 s, outKept (execAdaptationUpdate a0 a1 a2 a3 a4 s) = some s.kept.2 := by
  intro a0 a1 a2 a3 a4 s
  unfold execAdaptationUpdate
  repeat' first | split | simp | intro _ | rw [State.foldl_kept (fun _ _ => ?_)] | rw [State.each_kept (fun _ _ => ?_)]

@[simp] theorem execAutoCommit_kept : ∀ a0 s, outKept (execAutoCommit a0 s) = some s.kept.2 := by
  intro a0 s
  unfold execAutoCommit
  repeat' first | split | simp | intro _ | rw [State.foldl_kept (fun _ _ => ?_)] | rw [State.each_kept (fun _ _ => ?_)]

@[simp] theorem actAocCtrl_kept : ∀ a0 s, (actAocCtrl a0 s).kept = s.kept := by
  intro a0 s
  unfold actAocCtrl
  repeat' first | split | simp | intro _ | rw [State.foldl_kept (fun _ _ => ?_)] | rw [State.each_kept (fun _ _ => ?_)]

theorem mAocCtrl_keeps : mAocCtrl.Keeps where
  act r s := by
    simp only [mAocCtrl]
    repeat' first | split | simp | intro _ | rw [State.foldl_kept (fun _ _ => ?_)] | rw [State.each_kept (fun _ _ => ?_)]
  fail r st s := by
    simp only [mAocCtrl]
    repeat' first | split | simp | intro _ | rw [State.foldl_kept (fun _ _ => ?_)] | rw [State.each_kept (fun _ _ => ?_)]
  hold r s := by
    simp only [mAocCtrl]
    repeat' first | split | simp | intro _ | rw [State.foldl_kept (fun _ _ => ?_)] | rw [State.each_kept (fun _ _ => ?_)]

@[simp] theorem execAocCtrl_kept : ∀ a0 s, outKept (execAocCtrl a0 s) = some s.kept.2 := by
  intro a0 s
  simp [execAocCtrl, submit_kept mAocCtrl_keeps]

@[simp] theorem State.startSelf_kept : ∀ s, (State.startSelf s).kept = s.kept := by
  intro s
  unfold State.startSelf
  repeat' first | split | simp | intro _ | rw [State.foldl_kept (fun _ _ => ?_)] | rw [State.each_kept (fun _ _ => ?_)]

@[simp] theorem actCalRun_kept : ∀ a0 s, (actCalRun a0 s).kept = s.kept := by
  intro a0 s
  unfold actCalRun
  repeat' first | split | simp | intro _ | rw [State.foldl_kept (fun _ _ => ?_)] | rw [State.each_kept (fun _ _ => ?_)]

theorem mCalRun_keeps : mCalRun.Keeps where
  act r s := by
    simp only [mCalRun]
    repeat' first | split | simp | intro _ | rw [State.foldl_kept (fun _ _ => ?_)] | rw [State.each_kept (fun _ _ => ?_)]
  fail r st s := by
    simp only [mCalRun]
    repeat' first | split | simp | intro _ | rw [State.foldl_kept (fun _ _ => ?_)] | rw [State.each_kept (fun _ _ => ?_)]
  hold r s := by
    simp only [mCalRun]
    repeat' first | split | simp | intro _ | rw [State.foldl_kept (fun _ _ => ?_)] | rw [State.each_kept (fun _ _ => ?_)]

@[simp] theorem execCalRun_kept : ∀ a0 s, outKept (execCalRun a0 s) = some s.kept.2 := by
  intro a0 s
  simp [execCalRun, submit_kept mCalRun_keeps]

theorem mCalSave_keeps : mCalSave.Keeps where
  act r s := by
    simp only [mCalSave]
    repeat' first | split | simp | intro _ | rw [State.foldl_kept (fun _ _ => ?_)] | rw [State.each_kept (fun _ _ => ?_)]
  fail r st s := by
    simp only [mCalSave]
    repeat' first | split | simp | intro _ | rw [State.foldl_kept (fun _ _ => ?_)] | rw [State.each_kept (fun _ _ => ?_)]
  hold r s := by
    simp only [mCalSave]
    repeat' first | split | simp | intro _ | rw [State.foldl_kept (fun _ _ => ?_)] | rw [State.each_kept (fun _ _ => ?_)]

@[simp] theorem execCalSave_kept : ∀ a0 s, outKept (execCalSave a0 s) = some s.kept.2 := by
  intro a0 s
  simp [execCalSave, submit_kept mCalSave_keeps]

@[simp] theorem endCalSave_kept : ∀ a0 s, (endCalSave a0 s).kept = s.kept := by
  intro a0 s
  unfold endCalSave
  repeat' first | split | simp | intro _ | rw [State.foldl_kept (fun _ _ => ?_)] | rw [State.each_kept (fun _ _ => ?_)]

theorem mCalRestore_keeps : mCalRestore.Keeps where
  act r s := by
    simp only [mCalRestore]
    repeat' first | split | simp | intro _ | rw [State.foldl_kept (fun _ _ => ?_)] | rw [State.each_kept (fun _ _ => ?_)]
  fail r st s := by
    simp only [mCalRestore]
    repeat' first | split | simp | intro _ | rw [State.foldl_kept (fun _ _ => ?_)] | rw [State.each_kept (fun _ _ => ?_)]
  hold r s := by
    simp only [mCalRestore]
    repeat' first | split | simp | intro _ | rw [State.foldl_kept (fun _ _ => ?_)] | rw [State.each_kept (fun _ _ => ?_)]

@[simp] theorem execCalRestore_kept : ∀ a0 s, outKept (execCalRestore a0 s) = some s.kept.2 := by
  intro a0 s
  simp [execCalRestore, submit_kept mCalRestore_keeps]

@[simp] theorem takeCalRestore_kept : ∀ a0 a1 s, (takeCalRestore a0 a1 s).kept = s.kept := by
  intro a0 a1 s
  unfold takeCalRestore
  repeat' first | split | simp | intro _ | rw [State.foldl_kept (fun _ _ => ?_)] | rw [State.each_kept (fun _ _ => ?_)]

@[simp] theorem State.dropBatch_kept : ∀ s a1 a2, (State.dropBatch s a1 a2).kept = s.kept := by
  intro s a1 a2
  unfold State.dropBatch
  repeat' first | split | simp | intro _ | rw [State.foldl_kept (fun _ _ => ?_)] | rw [State.each_kept (fun _ _ => ?_)]

@[simp] theorem State.setVal_kept : ∀ s a1 a2, (State.setVal s a1 a2).kept = s.kept := by
  intro s a1 a2
  unfold State.setVal
  repeat' first | split | simp | intro _ | rw [State.foldl_kept (fun _ _ => ?_)] | rw [State.each_kept (fun _ _ => ?_)]

@[simp] theorem State.failEngine_kept : ∀ s a1, (State.failEngine s a1).kept = s.kept := by
  intro s a1
  unfold State.failEngine
  repeat' first | split | simp | intro _ | rw [State.foldl_kept (fun _ _ => ?_)] | rw [State.each_kept (fun _ _ => ?_)]

@[simp] theorem State.badSpare_kept : ∀ s a1 a2 a3, (State.badSpare s a1 a2 a3).kept = s.kept := by
  intro s a1 a2 a3
  unfold State.badSpare
  repeat' first | split | simp | intro _ | rw [State.foldl_kept (fun _ _ => ?_)] | rw [State.each_kept (fun _ _ => ?_)]

@[simp] theorem State.selfTests_kept : ∀ s a1 a2, (State.selfTests s a1 a2).kept = s.kept := by
  intro s a1 a2
  unfold State.selfTests
  repeat' first | split | simp | intro _ | rw [State.foldl_kept (fun _ _ => ?_)] | rw [State.each_kept (fun _ _ => ?_)]

@[simp] theorem execCalBatchEnd_kept : ∀ a0 s, outKept (execCalBatchEnd a0 s) = some s.kept.2 := by
  intro a0 s
  unfold execCalBatchEnd
  repeat' first | split | simp | intro _ | rw [State.foldl_kept (fun _ _ => ?_)] | rw [State.each_kept (fun _ _ => ?_)]

@[simp] theorem State.loadTable_kept : ∀ s a1, (State.loadTable s a1).kept = s.kept := by
  intro s a1
  unfold State.loadTable
  repeat' first | split | simp | intro _ | rw [State.foldl_kept (fun _ _ => ?_)] | rw [State.each_kept (fun _ _ => ?_)]

@[simp] theorem execCalCommit_kept : ∀ s, outKept (execCalCommit s) = some s.kept.2 := by
  intro s
  unfold execCalCommit
  repeat' first | split | simp | intro _ | rw [State.foldl_kept (fun _ _ => ?_)] | rw [State.each_kept (fun _ _ => ?_)]

end Sys2Proof.Machine
end

