-- ==== Sys2Proof/Laws/KeepsBanks.lean ====
section
/-! SUPPORT. What the operations of Machine/Banks.lean keep: the order of acceptance, the queue of waiting commands and the
memories (or, where one writes memory, the canonical form); and that a command of it always completes. -/

namespace Sys2Proof.Machine

variable {s t : State}

@[simp] theorem actBnkPower_kept : ∀ a0 s, (actBnkPower a0 s).kept = s.kept := by
  intro a0 s
  unfold actBnkPower
  repeat' first | split | simp | intro _ | rw [State.foldl_kept (fun _ _ => ?_)] | rw [State.each_kept (fun _ _ => ?_)]

theorem mBnkPower_keeps : mBnkPower.Keeps where
  act r s := by
    simp only [mBnkPower]
    repeat' first | split | simp | intro _ | rw [State.foldl_kept (fun _ _ => ?_)] | rw [State.each_kept (fun _ _ => ?_)]
  fail r st s := by
    simp only [mBnkPower]
    repeat' first | split | simp | intro _ | rw [State.foldl_kept (fun _ _ => ?_)] | rw [State.each_kept (fun _ _ => ?_)]
  hold r s := by
    simp only [mBnkPower]
    repeat' first | split | simp | intro _ | rw [State.foldl_kept (fun _ _ => ?_)] | rw [State.each_kept (fun _ _ => ?_)]

@[simp] theorem execBnkPower_kept : ∀ a0 s, outKept (execBnkPower a0 s) = some s.kept.2 := by
  intro a0 s
  simp [execBnkPower, submit_kept mBnkPower_keeps]

@[simp] theorem State.bankContent_good : ∀ s a1 a2 a3 a4 k, Good k s.kept.2 → Good k (State.bankContent s a1 a2 a3 a4).kept.2 := by
  intro s a1 a2 a3 a4 k h
  unfold State.bankContent
  split
  · exact State.zeroBank_good h
  · split
    · exact State.zeroBank_good h
    · rw [State.bumpBy_kept]; exact State.writeBank_good h
  · exact State.zeroBank_good h
  · exact h

@[simp] theorem State.nextTransition_kept : ∀ s a1, (State.nextTransition s a1).kept = s.kept := by
  intro s a1
  unfold State.nextTransition
  repeat' first | split | simp | intro _ | rw [State.foldl_kept (fun _ _ => ?_)] | rw [State.each_kept (fun _ _ => ?_)]

@[simp] theorem execBankTransitionEnd_good : ∀ a0 s k, Good k s.kept.2 → outGood k (execBankTransitionEnd a0 s) := by
  intro a0 s k h
  unfold execBankTransitionEnd
  repeat' first | (with_reducible assumption) | split | simp [*] | refine Good.foldl (fun _ _ _ => ?_) ?_ | refine Good.each (fun _ _ _ => ?_) ?_ | intro _

@[simp] theorem actBnkHandover_kept : ∀ a0 s, (actBnkHandover a0 s).kept = s.kept := by
  intro a0 s
  unfold actBnkHandover
  repeat' first | split | simp | intro _ | rw [State.foldl_kept (fun _ _ => ?_)] | rw [State.each_kept (fun _ _ => ?_)]

theorem mBnkHandover_keeps : mBnkHandover.Keeps where
  act r s := by
    simp only [mBnkHandover]
    repeat' first | split | simp | intro _ | rw [State.foldl_kept (fun _ _ => ?_)] | rw [State.each_kept (fun _ _ => ?_)]
  fail r st s := by
    simp only [mBnkHandover]
    repeat' first | split | simp | intro _ | rw [State.foldl_kept (fun _ _ => ?_)] | rw [State.each_kept (fun _ _ => ?_)]
  hold r s := by
    simp only [mBnkHandover]
    repeat' first | split | simp | intro _ | rw [State.foldl_kept (fun _ _ => ?_)] | rw [State.each_kept (fun _ _ => ?_)]

@[simp] theorem execBnkHandover_kept : ∀ a0 s, outKept (execBnkHandover a0 s) = some s.kept.2 := by
  intro a0 s
  simp [execBnkHandover, submit_kept mBnkHandover_keeps]

@[simp] theorem State.bankNext_kept : ∀ s a1 a2, (State.bankNext s a1 a2).kept = s.kept := by
  intro s a1 a2
  unfold State.bankNext
  repeat' first | split | simp | intro _ | rw [State.foldl_kept (fun _ _ => ?_)] | rw [State.each_kept (fun _ _ => ?_)]

@[simp] theorem execBnkOwnerNextWrite_kept : ∀ a0 a1 s, outKept (execBnkOwnerNextWrite a0 a1 s) = some s.kept.2 := by
  intro a0 a1 s
  unfold execBnkOwnerNextWrite
  repeat' first | split | simp | intro _ | rw [State.foldl_kept (fun _ _ => ?_)] | rw [State.each_kept (fun _ _ => ?_)]

@[simp] theorem execHandoverTake_kept : ∀ a0 s, outKept (execHandoverTake a0 s) = some s.kept.2 := by
  intro a0 s
  unfold execHandoverTake
  repeat' first | split | simp | intro _ | rw [State.foldl_kept (fun _ _ => ?_)] | rw [State.each_kept (fun _ _ => ?_)]

@[simp] theorem execHandoverTimeout_kept : ∀ a0 s, outKept (execHandoverTimeout a0 s) = some s.kept.2 := by
  intro a0 s
  unfold execHandoverTimeout
  repeat' first | split | simp | intro _ | rw [State.foldl_kept (fun _ _ => ?_)] | rw [State.each_kept (fun _ _ => ?_)]

end Sys2Proof.Machine
end

