-- ==== Sys2Proof/Laws/KeepsSystem.lean ====
section
/-! SUPPORT. What the operations of Machine/System.lean keep: the order of acceptance, the queue of waiting commands and the
memories (or, where one writes memory, the canonical form); and that a command of it always completes. -/

namespace Sys2Proof.Machine

variable {s t : State}

theorem mNop_keeps : mNop.Keeps where
  act r s := by
    simp only [mNop]
    repeat' first | split | simp | intro _ | rw [State.foldl_kept (fun _ _ => ?_)] | rw [State.each_kept (fun _ _ => ?_)]
  fail r st s := by
    simp only [mNop]
    repeat' first | split | simp | intro _ | rw [State.foldl_kept (fun _ _ => ?_)] | rw [State.each_kept (fun _ _ => ?_)]
  hold r s := by
    simp only [mNop]
    repeat' first | split | simp | intro _ | rw [State.foldl_kept (fun _ _ => ?_)] | rw [State.each_kept (fun _ _ => ?_)]

@[simp] theorem execNop_kept : ∀ a0 s, outKept (execNop a0 s) = some s.kept.2 := by
  intro a0 s
  simp [execNop, submit_kept mNop_keeps]

theorem mPing_keeps : mPing.Keeps where
  act r s := by
    simp only [mPing]
    repeat' first | split | simp | intro _ | rw [State.foldl_kept (fun _ _ => ?_)] | rw [State.each_kept (fun _ _ => ?_)]
  fail r st s := by
    simp only [mPing]
    repeat' first | split | simp | intro _ | rw [State.foldl_kept (fun _ _ => ?_)] | rw [State.each_kept (fun _ _ => ?_)]
  hold r s := by
    simp only [mPing]
    repeat' first | split | simp | intro _ | rw [State.foldl_kept (fun _ _ => ?_)] | rw [State.each_kept (fun _ _ => ?_)]

@[simp] theorem execPing_kept : ∀ a0 s, outKept (execPing a0 s) = some s.kept.2 := by
  intro a0 s
  simp [execPing, submit_kept mPing_keeps]

theorem mUnknown_keeps : mUnknown.Keeps where
  act r s := by
    simp only [mUnknown]
    repeat' first | split | simp | intro _ | rw [State.foldl_kept (fun _ _ => ?_)] | rw [State.each_kept (fun _ _ => ?_)]
  fail r st s := by
    simp only [mUnknown]
    repeat' first | split | simp | intro _ | rw [State.foldl_kept (fun _ _ => ?_)] | rw [State.each_kept (fun _ _ => ?_)]
  hold r s := by
    simp only [mUnknown]
    repeat' first | split | simp | intro _ | rw [State.foldl_kept (fun _ _ => ?_)] | rw [State.each_kept (fun _ _ => ?_)]


@[simp] theorem execUnknownOpcode_kept : ∀ a0 a1 s, outKept (execUnknownOpcode a0 a1 s) = some s.kept.2 := by
  intro a0 a1 s
  simp [execUnknownOpcode, submit_kept mUnknown_keeps]

theorem mGetInfo_keeps : mGetInfo.Keeps where
  act r s := by
    simp only [mGetInfo]
    repeat' first | split | simp | intro _ | rw [State.foldl_kept (fun _ _ => ?_)] | rw [State.each_kept (fun _ _ => ?_)]
  fail r st s := by
    simp only [mGetInfo]
    repeat' first | split | simp | intro _ | rw [State.foldl_kept (fun _ _ => ?_)] | rw [State.each_kept (fun _ _ => ?_)]
  hold r s := by
    simp only [mGetInfo]
    repeat' first | split | simp | intro _ | rw [State.foldl_kept (fun _ _ => ?_)] | rw [State.each_kept (fun _ _ => ?_)]

@[simp] theorem execGetInfo_kept : ∀ a0 s, outKept (execGetInfo a0 s) = some s.kept.2 := by
  intro a0 s
  simp [execGetInfo, submit_kept mGetInfo_keeps]

@[simp] theorem endGetInfo_kept : ∀ a0 s, (endGetInfo a0 s).kept = s.kept := by
  intro a0 s
  unfold endGetInfo
  repeat' first | split | simp | intro _ | rw [State.foldl_kept (fun _ _ => ?_)] | rw [State.each_kept (fun _ _ => ?_)]

@[simp] theorem State.undoTimed_kept : ∀ s a1, (State.undoTimed s a1).kept = s.kept := by
  intro s a1
  unfold State.undoTimed
  repeat' first | split | simp | intro _ | rw [State.foldl_kept (fun _ _ => ?_)] | rw [State.each_kept (fun _ _ => ?_)]

@[simp] theorem actSchedCancel_kept : ∀ a0 s, (actSchedCancel a0 s).kept = s.kept := by
  intro a0 s
  unfold actSchedCancel
  repeat' first | split | simp | intro _ | rw [State.foldl_kept (fun _ _ => ?_)] | rw [State.each_kept (fun _ _ => ?_)]

theorem mSchedCancel_keeps : mSchedCancel.Keeps where
  act r s := by
    simp only [mSchedCancel]
    repeat' first | split | simp | intro _ | rw [State.foldl_kept (fun _ _ => ?_)] | rw [State.each_kept (fun _ _ => ?_)]
  fail r st s := by
    simp only [mSchedCancel]
    repeat' first | split | simp | intro _ | rw [State.foldl_kept (fun _ _ => ?_)] | rw [State.each_kept (fun _ _ => ?_)]
  hold r s := by
    simp only [mSchedCancel]
    repeat' first | split | simp | intro _ | rw [State.foldl_kept (fun _ _ => ?_)] | rw [State.each_kept (fun _ _ => ?_)]

@[simp] theorem execSchedCancel_kept : ∀ a0 s, outKept (execSchedCancel a0 s) = some s.kept.2 := by
  intro a0 s
  simp [execSchedCancel, submit_kept mSchedCancel_keeps]

end Sys2Proof.Machine
end

