-- ==== Sys2Proof/Laws/KeepsSteps.lean ====
section
/-! SUPPORT. What the operations of Machine/Steps.lean keep: the order of acceptance, the queue of waiting commands and the
memories (or, where one writes memory, the canonical form); and that a command of it always completes. -/

namespace Sys2Proof.Machine

variable {s t : State}

@[simp] theorem State.requestStep_kept : ∀ s a1 a2, (State.requestStep s a1 a2).kept = s.kept := by
  intro s a1 a2
  unfold State.requestStep
  repeat' first | split | simp | intro _ | rw [State.foldl_kept (fun _ _ => ?_)] | rw [State.each_kept (fun _ _ => ?_)]

@[simp] theorem State.missStep_kept : ∀ s a1, (State.missStep s a1).kept = s.kept := by
  intro s a1
  unfold State.missStep
  repeat' first | split | simp | intro _ | rw [State.foldl_kept (fun _ _ => ?_)] | rw [State.each_kept (fun _ _ => ?_)]

theorem issue_kept {op c f} (h : ∀ c w s, (f c w s).kept = s.kept) : (issue op f c s).kept = s.kept := by
  unfold issue
  repeat' first | split | simp [h]

@[simp] theorem State.goTo_kept : ∀ s a1 a2, (State.goTo s a1 a2).kept = s.kept := by
  intro s a1 a2
  unfold State.goTo
  repeat' first | split | simp | intro _ | rw [State.foldl_kept (fun _ _ => ?_)] | rw [State.each_kept (fun _ _ => ?_)]

@[simp] theorem State.next_kept : ∀ s a1, (State.next s a1).kept = s.kept := by
  intro s a1
  unfold State.next
  repeat' first | split | simp | intro _ | rw [State.foldl_kept (fun _ _ => ?_)] | rw [State.each_kept (fun _ _ => ?_)]

@[simp] theorem State.placeEdge_kept : ∀ s a1 a2 a3 a4 a5 a6, (State.placeEdge s a1 a2 a3 a4 a5 a6).kept = s.kept := by
  intro s a1 a2 a3 a4 a5 a6
  unfold State.placeEdge
  repeat' first | split | simp | intro _ | rw [State.foldl_kept (fun _ _ => ?_)] | rw [State.each_kept (fun _ _ => ?_)]

@[simp] theorem State.placeEdges_kept : ∀ s a1 a2 a3 a4 a5 a6 a7, (State.placeEdges s a1 a2 a3 a4 a5 a6 a7).kept = s.kept := by
  intro s a1 a2 a3 a4 a5 a6 a7
  unfold State.placeEdges
  repeat' first | split | simp | intro _ | rw [State.foldl_kept (fun _ _ => ?_)] | rw [State.each_kept (fun _ _ => ?_)]

@[simp] theorem State.queueAction_kept : ∀ s a1 a2 a3, (State.queueAction s a1 a2 a3).kept = s.kept := by
  intro s a1 a2 a3
  unfold State.queueAction
  repeat' first | split | simp | intro _ | rw [State.foldl_kept (fun _ _ => ?_)] | rw [State.each_kept (fun _ _ => ?_)]

@[simp] theorem doPlay_kept : ∀ a0 a1 s, (doPlay a0 a1 s).kept = s.kept := by
  intro a0 a1 s
  unfold doPlay
  repeat' first | split | simp | intro _ | rw [State.foldl_kept (fun _ _ => ?_)] | rw [State.each_kept (fun _ _ => ?_)]

@[simp] theorem execPlay_kept : ∀ a0 s, outKept (execPlay a0 s) = some s.kept.2 := by
  intro a0 s
  simp [execPlay, issue_kept doPlay_kept]

@[simp] theorem doHop_kept : ∀ a0 a1 s, (doHop a0 a1 s).kept = s.kept := by
  intro a0 a1 s
  unfold doHop
  repeat' first | split | simp | intro _ | rw [State.foldl_kept (fun _ _ => ?_)] | rw [State.each_kept (fun _ _ => ?_)]

@[simp] theorem execHop_kept : ∀ a0 s, outKept (execHop a0 s) = some s.kept.2 := by
  intro a0 s
  simp [execHop, issue_kept doHop_kept]

@[simp] theorem doMark_kept : ∀ a0 a1 s, (doMark a0 a1 s).kept = s.kept := by
  intro a0 a1 s
  unfold doMark
  repeat' first | split | simp | intro _ | rw [State.foldl_kept (fun _ _ => ?_)] | rw [State.each_kept (fun _ _ => ?_)]

@[simp] theorem execMark_kept : ∀ a0 s, outKept (execMark a0 s) = some s.kept.2 := by
  intro a0 s
  simp [execMark, issue_kept doMark_kept]

@[simp] theorem doWait_kept : ∀ a0 a1 s, (doWait a0 a1 s).kept = s.kept := by
  intro a0 a1 s
  unfold doWait
  repeat' first | split | simp | intro _ | rw [State.foldl_kept (fun _ _ => ?_)] | rw [State.each_kept (fun _ _ => ?_)]

@[simp] theorem execWait_kept : ∀ a0 s, outKept (execWait a0 s) = some s.kept.2 := by
  intro a0 s
  simp [execWait, issue_kept doWait_kept]

@[simp] theorem State.takeHead_kept : ∀ s a1 a2 a3, (State.takeHead s a1 a2 a3).kept = s.kept := by
  intro s a1 a2 a3
  unfold State.takeHead
  repeat' first | split | simp | intro _ | rw [State.foldl_kept (fun _ _ => ?_)] | rw [State.each_kept (fun _ _ => ?_)]

@[simp] theorem State.clearPending_kept : ∀ s a1, (State.clearPending s a1).kept = s.kept := by
  intro s a1
  unfold State.clearPending
  repeat' first | split | simp | intro _ | rw [State.foldl_kept (fun _ _ => ?_)] | rw [State.each_kept (fun _ _ => ?_)]

@[simp] theorem State.takePending_kept : ∀ s a1, (State.takePending s a1).kept = s.kept := by
  intro s a1
  unfold State.takePending
  repeat' first | split | simp | intro _ | rw [State.foldl_kept (fun _ _ => ?_)] | rw [State.each_kept (fun _ _ => ?_)]

@[simp] theorem State.reach_kept {c t} : (s.reach c t).1.kept = s.kept := by unfold State.reach; split <;> simp

@[simp] theorem State.resumeAt_kept : ∀ s a1 a2 a3, (State.resumeAt s a1 a2 a3).kept = s.kept := by
  intro s a1 a2 a3
  unfold State.resumeAt
  repeat' first | split | simp | intro _ | rw [State.foldl_kept (fun _ _ => ?_)] | rw [State.each_kept (fun _ _ => ?_)]

@[simp] theorem State.cutPast_kept : ∀ s a1 a2, (State.cutPast s a1 a2).kept = s.kept := by
  intro s a1 a2
  unfold State.cutPast
  repeat' first | split | simp | intro _ | rw [State.foldl_kept (fun _ _ => ?_)] | rw [State.each_kept (fun _ _ => ?_)]

@[simp] theorem State.runInstance_kept : ∀ s a1 a2 a3, (State.runInstance s a1 a2 a3).kept = s.kept := by
  intro s a1 a2 a3
  unfold State.runInstance
  repeat' first | split | simp | intro _ | rw [State.foldl_kept (fun _ _ => ?_)] | rw [State.each_kept (fun _ _ => ?_)]

@[simp] theorem State.restartCut_kept : ∀ s a1 a2, (State.restartCut s a1 a2).kept = s.kept := by
  intro s a1 a2
  unfold State.restartCut
  repeat' first | split | simp | intro _ | rw [State.foldl_kept (fun _ _ => ?_)] | rw [State.each_kept (fun _ _ => ?_)]

@[simp] theorem State.trigger_kept : ∀ s a1 a2 a3 a4 a5, (State.trigger s a1 a2 a3 a4 a5).kept = s.kept := by
  intro s a1 a2 a3 a4 a5
  unfold State.trigger
  repeat' first | split | simp | intro _ | rw [State.foldl_kept (fun _ _ => ?_)] | rw [State.each_kept (fun _ _ => ?_)]

@[simp] theorem State.decideWait_kept : ∀ s a1, (State.decideWait s a1).kept = s.kept := by
  intro s a1
  unfold State.decideWait
  repeat' first | split | simp | intro _ | rw [State.foldl_kept (fun _ _ => ?_)] | rw [State.each_kept (fun _ _ => ?_)]

@[simp] theorem State.beginWait_kept : ∀ s a1 a2 a3 a4, (State.beginWait s a1 a2 a3 a4).kept = s.kept := by
  intro s a1 a2 a3 a4
  unfold State.beginWait
  repeat' first | split | simp | intro _ | rw [State.foldl_kept (fun _ _ => ?_)] | rw [State.each_kept (fun _ _ => ?_)]

@[simp] theorem doWaitEvt_kept : ∀ a0 a1 s, (doWaitEvt a0 a1 s).kept = s.kept := by
  intro a0 a1 s
  unfold doWaitEvt
  repeat' first | split | simp | intro _ | rw [State.foldl_kept (fun _ _ => ?_)] | rw [State.each_kept (fun _ _ => ?_)]

@[simp] theorem execWaitEvt_kept : ∀ a0 s, outKept (execWaitEvt a0 s) = some s.kept.2 := by
  intro a0 s
  simp [execWaitEvt, issue_kept doWaitEvt_kept]

@[simp] theorem doTrig_kept : ∀ a0 a1 s, (doTrig a0 a1 s).kept = s.kept := by
  intro a0 a1 s
  unfold doTrig
  repeat' first | split | simp | intro _ | rw [State.foldl_kept (fun _ _ => ?_)] | rw [State.each_kept (fun _ _ => ?_)]

@[simp] theorem execTrig_kept : ∀ a0 s, outKept (execTrig a0 s) = some s.kept.2 := by
  intro a0 s
  simp [execTrig, issue_kept doTrig_kept]

@[simp] theorem doBranchEvt_kept : ∀ a0 a1 s, (doBranchEvt a0 a1 s).kept = s.kept := by
  intro a0 a1 s
  unfold doBranchEvt
  repeat' first | split | simp | intro _ | rw [State.foldl_kept (fun _ _ => ?_)] | rw [State.each_kept (fun _ _ => ?_)]

@[simp] theorem execBranchEvt_kept : ∀ a0 s, outKept (execBranchEvt a0 s) = some s.kept.2 := by
  intro a0 s
  simp [execBranchEvt, issue_kept doBranchEvt_kept]

@[simp] theorem doBranch_kept : ∀ a0 a1 s, (doBranch a0 a1 s).kept = s.kept := by
  intro a0 a1 s
  unfold doBranch
  repeat' first | split | simp | intro _ | rw [State.foldl_kept (fun _ _ => ?_)] | rw [State.each_kept (fun _ _ => ?_)]

@[simp] theorem execBranch_kept : ∀ a0 s, outKept (execBranch a0 s) = some s.kept.2 := by
  intro a0 s
  simp [execBranch, issue_kept doBranch_kept]

@[simp] theorem State.stepCtr_kept : ∀ s a1 a2 a3, (State.stepCtr s a1 a2 a3).kept = s.kept := by
  intro s a1 a2 a3
  unfold State.stepCtr
  repeat' first | split | simp | intro _ | rw [State.foldl_kept (fun _ _ => ?_)] | rw [State.each_kept (fun _ _ => ?_)]

@[simp] theorem doLoop_kept : ∀ a0 a1 s, (doLoop a0 a1 s).kept = s.kept := by
  intro a0 a1 s
  unfold doLoop
  repeat' first | split | simp | intro _ | rw [State.foldl_kept (fun _ _ => ?_)] | rw [State.each_kept (fun _ _ => ?_)]

@[simp] theorem execLoop_kept : ∀ a0 s, outKept (execLoop a0 s) = some s.kept.2 := by
  intro a0 s
  simp [execLoop, issue_kept doLoop_kept]

@[simp] theorem doCtr_kept : ∀ a0 a1 s, (doCtr a0 a1 s).kept = s.kept := by
  intro a0 a1 s
  unfold doCtr
  repeat' first | split | simp | intro _ | rw [State.foldl_kept (fun _ _ => ?_)] | rw [State.each_kept (fun _ _ => ?_)]

@[simp] theorem execCtr_kept : ∀ a0 s, outKept (execCtr a0 s) = some s.kept.2 := by
  intro a0 s
  simp [execCtr, issue_kept doCtr_kept]

@[simp] theorem doCall_kept : ∀ a0 a1 s, (doCall a0 a1 s).kept = s.kept := by
  intro a0 a1 s
  unfold doCall
  repeat' first | split | simp | intro _ | rw [State.foldl_kept (fun _ _ => ?_)] | rw [State.each_kept (fun _ _ => ?_)]

@[simp] theorem execCall_kept : ∀ a0 s, outKept (execCall a0 s) = some s.kept.2 := by
  intro a0 s
  simp [execCall, issue_kept doCall_kept]

@[simp] theorem doReturn_kept : ∀ a0 a1 s, (doReturn a0 a1 s).kept = s.kept := by
  intro a0 a1 s
  unfold doReturn
  repeat' first | split | simp | intro _ | rw [State.foldl_kept (fun _ _ => ?_)] | rw [State.each_kept (fun _ _ => ?_)]

@[simp] theorem execRet_kept : ∀ a0 s, outKept (execRet a0 s) = some s.kept.2 := by
  intro a0 s
  simp [execRet, issue_kept doReturn_kept]

@[simp] theorem doJmpen_kept : ∀ a0 a1 s, (doJmpen a0 a1 s).kept = s.kept := by
  intro a0 a1 s
  unfold doJmpen
  repeat' first | split | simp | intro _ | rw [State.foldl_kept (fun _ _ => ?_)] | rw [State.each_kept (fun _ _ => ?_)]

@[simp] theorem execJmpen_kept : ∀ a0 s, outKept (execJmpen a0 s) = some s.kept.2 := by
  intro a0 s
  simp [execJmpen, issue_kept doJmpen_kept]

@[simp] theorem doEnd_kept : ∀ a0 a1 s, (doEnd a0 a1 s).kept = s.kept := by
  intro a0 a1 s
  unfold doEnd
  repeat' first | split | simp | intro _ | rw [State.foldl_kept (fun _ _ => ?_)] | rw [State.each_kept (fun _ _ => ?_)]

@[simp] theorem execEndStep_kept : ∀ a0 s, outKept (execEndStep a0 s) = some s.kept.2 := by
  intro a0 s
  simp [execEndStep, issue_kept doEnd_kept]

end Sys2Proof.Machine
end

