-- ==== Sys2Proof/Laws/KeepsEngineEv.lean ====
section
/-! SUPPORT. What the operations of Machine/EngineEv.lean keep: the order of acceptance, the queue of waiting commands and the
memories (or, where one writes memory, the canonical form); and that a command of it always completes. -/

namespace Sys2Proof.Machine

variable {s t : State}

@[simp] theorem execEndReached_kept : ∀ a0 s, outKept (execEndReached a0 s) = some s.kept.2 := by
  intro a0 s
  unfold execEndReached
  repeat' first | split | simp | intro _ | rw [State.foldl_kept (fun _ _ => ?_)] | rw [State.each_kept (fun _ _ => ?_)]

@[simp] theorem execEventStepTimeout_kept : ∀ a0 s, outKept (execEventStepTimeout a0 s) = some s.kept.2 := by
  intro a0 s
  unfold execEventStepTimeout
  repeat' first | split | simp | intro _ | rw [State.foldl_kept (fun _ _ => ?_)] | rw [State.each_kept (fun _ _ => ?_)]

@[simp] theorem State.deliverCon_kept : ∀ s a1 a2, (State.deliverCon s a1 a2).kept = s.kept := by
  intro s a1 a2
  unfold State.deliverCon
  repeat' first | split | simp | intro _ | rw [State.foldl_kept (fun _ _ => ?_)] | rw [State.each_kept (fun _ _ => ?_)]

@[simp] theorem State.deliver_kept : ∀ s a1 a2, (State.deliver s a1 a2).kept = s.kept := by
  intro s a1 a2
  unfold State.deliver
  repeat' first | split | simp | intro _ | rw [State.foldl_kept (fun _ _ => ?_)] | rw [State.each_kept (fun _ _ => ?_)]

@[simp] theorem State.deliverCell_kept : ∀ s a1 a2, (State.deliverCell s a1 a2).kept = s.kept := by
  intro s a1 a2
  unfold State.deliverCell
  repeat' first | split | simp | intro _ | rw [State.foldl_kept (fun _ _ => ?_)] | rw [State.each_kept (fun _ _ => ?_)]

@[simp] theorem execEventDelivery_kept : ∀ a0 s, outKept (execEventDelivery a0 s) = some s.kept.2 := by
  intro a0 s
  unfold execEventDelivery
  repeat' first | split | simp | intro _ | rw [State.foldl_kept (fun _ _ => ?_)] | rw [State.each_kept (fun _ _ => ?_)]

@[simp] theorem State.cutAll_kept : ∀ s a1 a2, (State.cutAll s a1 a2).kept = s.kept := by
  intro s a1 a2
  unfold State.cutAll
  repeat' first | split | simp | intro _ | rw [State.foldl_kept (fun _ _ => ?_)] | rw [State.each_kept (fun _ _ => ?_)]

@[simp] theorem State.leaveStep_kept : ∀ s a1, (State.leaveStep s a1).kept = s.kept := by
  intro s a1
  unfold State.leaveStep
  repeat' first | split | simp | intro _ | rw [State.foldl_kept (fun _ _ => ?_)] | rw [State.each_kept (fun _ _ => ?_)]

@[simp] theorem State.enterSlot_kept : ∀ s a1 a2 a3 a4, (State.enterSlot s a1 a2 a3 a4).kept = s.kept := by
  intro s a1 a2 a3 a4
  unfold State.enterSlot
  repeat' first | split | simp | intro _ | rw [State.foldl_kept (fun _ _ => ?_)] | rw [State.each_kept (fun _ _ => ?_)]

@[simp] theorem State.foxJump_kept : ∀ s a1 a2 a3 a4, (State.foxJump s a1 a2 a3 a4).kept = s.kept := by
  intro s a1 a2 a3 a4
  unfold State.foxJump
  repeat' first | split | simp | intro _ | rw [State.foldl_kept (fun _ _ => ?_)] | rw [State.each_kept (fun _ _ => ?_)]

@[simp] theorem execFoxJump_kept : ∀ a0 a1 a2 s, outKept (execFoxJump a0 a1 a2 s) = some s.kept.2 := by
  intro a0 a1 a2 s
  unfold execFoxJump
  repeat' first | split | simp | intro _ | rw [State.foldl_kept (fun _ _ => ?_)] | rw [State.each_kept (fun _ _ => ?_)]

@[simp] theorem execPreRunStart_kept : ∀ a0 s, outKept (execPreRunStart a0 s) = some s.kept.2 := by
  intro a0 s
  unfold execPreRunStart
  repeat' first | split | simp | intro _ | rw [State.foldl_kept (fun _ _ => ?_)] | rw [State.each_kept (fun _ _ => ?_)]

@[simp] theorem execStartInstant_kept : ∀ a0 s, outKept (execStartInstant a0 s) = some s.kept.2 := by
  intro a0 s
  unfold execStartInstant
  repeat' first | split | simp | intro _ | rw [State.foldl_kept (fun _ _ => ?_)] | rw [State.each_kept (fun _ _ => ?_)]

@[simp] theorem execStepSpin_kept : ∀ a0 s, outKept (execStepSpin a0 s) = some s.kept.2 := by
  intro a0 s
  unfold execStepSpin
  repeat' first | split | simp | intro _ | rw [State.foldl_kept (fun _ _ => ?_)] | rw [State.each_kept (fun _ _ => ?_)]

@[simp] theorem State.tellEngine_kept : ∀ s a1 a2 a3 a4 a5, (State.tellEngine s a1 a2 a3 a4 a5).kept = s.kept := by
  intro s a1 a2 a3 a4 a5
  unfold State.tellEngine
  repeat' first | split | simp | intro _ | rw [State.foldl_kept (fun _ _ => ?_)] | rw [State.each_kept (fun _ _ => ?_)]

@[simp] theorem State.retireEngine_kept : ∀ s a1, (State.retireEngine s a1).kept = s.kept := by
  intro s a1
  unfold State.retireEngine
  repeat' first | split | simp | intro _ | rw [State.foldl_kept (fun _ _ => ?_)] | rw [State.each_kept (fun _ _ => ?_)]

@[simp] theorem State.migrate_kept : ∀ s a1, (State.migrate s a1).kept = s.kept := by
  intro s a1
  unfold State.migrate
  repeat' first | split | simp | intro _ | rw [State.foldl_kept (fun _ _ => ?_)] | rw [State.each_kept (fun _ _ => ?_)]

@[simp] theorem execStepStall_kept : ∀ a0 s, outKept (execStepStall a0 s) = some s.kept.2 := by
  intro a0 s
  unfold execStepStall
  repeat' first | split | simp | intro _ | rw [State.foldl_kept (fun _ _ => ?_)] | rw [State.each_kept (fun _ _ => ?_)]

@[simp] theorem execEngineSelfCheckError_kept : ∀ a0 s, outKept (execEngineSelfCheckError a0 s) = some s.kept.2 := by
  intro a0 s
  unfold execEngineSelfCheckError
  repeat' first | split | simp | intro _ | rw [State.foldl_kept (fun _ _ => ?_)] | rw [State.each_kept (fun _ _ => ?_)]

@[simp] theorem State.refetch_kept : ∀ s a1, (State.refetch s a1).kept = s.kept := by
  intro s a1
  unfold State.refetch
  repeat' first | split | simp | intro _ | rw [State.foldl_kept (fun _ _ => ?_)] | rw [State.each_kept (fun _ _ => ?_)]

@[simp] theorem execMigrationComplete_kept : ∀ a0 s, outKept (execMigrationComplete a0 s) = some s.kept.2 := by
  intro a0 s
  unfold execMigrationComplete
  repeat' first | split | simp | intro _ | rw [State.foldl_kept (fun _ _ => ?_)] | rw [State.each_kept (fun _ _ => ?_)]

@[simp] theorem State.setMarker_kept : ∀ s a1 a2 a3, (State.setMarker s a1 a2 a3).kept = s.kept := by
  intro s a1 a2 a3
  unfold State.setMarker
  repeat' first | split | simp | intro _ | rw [State.foldl_kept (fun _ _ => ?_)] | rw [State.each_kept (fun _ _ => ?_)]

@[simp] theorem State.clash_kept : ∀ s a1, (State.clash s a1).kept = s.kept := by
  intro s a1
  unfold State.clash
  repeat' first | split | simp | intro _ | rw [State.foldl_kept (fun _ _ => ?_)] | rw [State.each_kept (fun _ _ => ?_)]

@[simp] theorem State.nextEdge_kept : ∀ s a1 a2 a3, (State.nextEdge s a1 a2 a3).kept = s.kept := by
  intro s a1 a2 a3
  unfold State.nextEdge
  repeat' first | split | simp | intro _ | rw [State.foldl_kept (fun _ _ => ?_)] | rw [State.each_kept (fun _ _ => ?_)]

@[simp] theorem State.nextMode_kept : ∀ s a1 a2 a3 a4, (State.nextMode s a1 a2 a3 a4).kept = s.kept := by
  intro s a1 a2 a3 a4
  unfold State.nextMode
  repeat' first | split | simp | intro _ | rw [State.foldl_kept (fun _ _ => ?_)] | rw [State.each_kept (fun _ _ => ?_)]

@[simp] theorem State.toggleMarker_kept : ∀ s a1 a2, (State.toggleMarker s a1 a2).kept = s.kept := by
  intro s a1 a2
  unfold State.toggleMarker
  repeat' first | split | simp | intro _ | rw [State.foldl_kept (fun _ _ => ?_)] | rw [State.each_kept (fun _ _ => ?_)]

@[simp] theorem execMarkerTransition_kept : ∀ a0 s, outKept (execMarkerTransition a0 s) = some s.kept.2 := by
  intro a0 s
  unfold execMarkerTransition
  repeat' first | split | simp | intro _ | rw [State.foldl_kept (fun _ _ => ?_)] | rw [State.each_kept (fun _ _ => ?_)]

end Sys2Proof.Machine
end

