-- ==== Sys2Proof/Laws/KeepsMemoryEv.lean ====
section
/-! SUPPORT. What the operations of Machine/MemoryEv.lean keep: the order of acceptance, the queue of waiting commands and the
memories (or, where one writes memory, the canonical form); and that a command of it always completes. -/

namespace Sys2Proof.Machine

variable {s t : State}

@[simp] theorem execMirrorRepair_good : ∀ a0 s k, Good k s.kept.2 → outGood k (execMirrorRepair a0 s) := by
  intro a0 s k h
  unfold execMirrorRepair
  repeat' first | (with_reducible assumption) | split | simp [*] | refine Good.foldl (fun _ _ _ => ?_) ?_ | refine Good.each (fun _ _ _ => ?_) ?_ | intro _

@[simp] theorem execPerBankRefresh_kept : ∀ a0 a1 s, outKept (execPerBankRefresh a0 a1 s) = some s.kept.2 := by
  intro a0 a1 s
  unfold execPerBankRefresh
  repeat' first | split | simp | intro _ | rw [State.foldl_kept (fun _ _ => ?_)] | rw [State.each_kept (fun _ _ => ?_)]

@[simp] theorem execAllBankRefresh_kept : ∀ a0 s, outKept (execAllBankRefresh a0 s) = some s.kept.2 := by
  intro a0 s
  unfold execAllBankRefresh
  repeat' first | split | simp | intro _ | rw [State.foldl_kept (fun _ _ => ?_)] | rw [State.each_kept (fun _ _ => ?_)]

@[simp] theorem execRowIdleClose_kept : ∀ a0 a1 s, outKept (execRowIdleClose a0 a1 s) = some s.kept.2 := by
  intro a0 a1 s
  unfold execRowIdleClose
  repeat' first | split | simp | intro _ | rw [State.foldl_kept (fun _ _ => ?_)] | rw [State.each_kept (fun _ _ => ?_)]

@[simp] theorem execStackTempRead_kept : ∀ a0 a1 s, outKept (execStackTempRead a0 a1 s) = some s.kept.2 := by
  intro a0 a1 s
  unfold execStackTempRead
  repeat' first | split | simp | intro _ | rw [State.foldl_kept (fun _ _ => ?_)] | rw [State.each_kept (fun _ _ => ?_)]

@[simp] theorem execRowCounterWindow_kept : ∀ a0 a1 s, outKept (execRowCounterWindow a0 a1 s) = some s.kept.2 := by
  intro a0 a1 s
  unfold execRowCounterWindow
  repeat' first | split | simp | intro _ | rw [State.foldl_kept (fun _ _ => ?_)] | rw [State.each_kept (fun _ _ => ?_)]

@[simp] theorem execNeighbourRefresh_kept : ∀ a0 a1 a2 s, outKept (execNeighbourRefresh a0 a1 a2 s) = some s.kept.2 := by
  intro a0 a1 a2 s
  unfold execNeighbourRefresh
  repeat' first | split | simp | intro _ | rw [State.foldl_kept (fun _ _ => ?_)] | rw [State.each_kept (fun _ _ => ?_)]

@[simp] theorem State.tookUnit_kept : ∀ s a1, (State.tookUnit s a1).kept = s.kept := by
  intro s a1
  unfold State.tookUnit
  repeat' first | split | simp | intro _ | rw [State.foldl_kept (fun _ _ => ?_)] | rw [State.each_kept (fun _ _ => ?_)]

@[simp] theorem State.noteLead_kept : ∀ s a1, (State.noteLead s a1).kept = s.kept := by
  intro s a1
  unfold State.noteLead
  repeat' first | split | simp | intro _ | rw [State.foldl_kept (fun _ _ => ?_)] | rw [State.each_kept (fun _ _ => ?_)]

@[simp] theorem State.landSteps_kept : ∀ s a1, (State.landSteps s a1).kept = s.kept := by
  intro s a1
  unfold State.landSteps
  repeat' first | split | simp | intro _ | rw [State.foldl_kept (fun _ _ => ?_)] | rw [State.each_kept (fun _ _ => ?_)]

@[simp] theorem State.readFailed_good : ∀ s a1 a2 a3 k, Good k s.kept.2 → Good k (State.readFailed s a1 a2 a3).kept.2 := by
  intro s a1 a2 a3 k h
  unfold State.readFailed
  repeat' first | (with_reducible assumption) | split | simp [*] | refine Good.foldl (fun _ _ _ => ?_) ?_ | refine Good.each (fun _ _ _ => ?_) ?_ | intro _

@[simp] theorem State.issueAs_good : ∀ s a1 a2 a3 k, Good k s.kept.2 → Good k (State.issueAs s a1 a2 a3).kept.2 := by
  intro s a1 a2 a3 k h
  unfold State.issueAs
  repeat' first | (with_reducible assumption) | split | simp [*] | refine Good.foldl (fun _ _ _ => ?_) ?_ | refine Good.each (fun _ _ _ => ?_) ?_ | intro _

@[simp] theorem State.issueTurn_kept : ∀ s a1, (State.issueTurn s a1).kept = s.kept := by
  intro s a1
  unfold State.issueTurn
  repeat' first | split | simp | intro _ | rw [State.foldl_kept (fun _ _ => ?_)] | rw [State.each_kept (fun _ _ => ?_)]

@[simp] theorem State.streamIssue_good : ∀ s k, Good k s.kept.2 → Good k (State.streamIssue s).kept.2 := by
  intro s k h
  unfold State.streamIssue
  repeat' first | (with_reducible assumption) | split | simp [*] | refine Good.foldl (fun _ _ _ => ?_) ?_ | refine Good.each (fun _ _ _ => ?_) ?_ | intro _

@[simp] theorem execStreamFetchIssue_good : ∀ s k, Good k s.kept.2 → outGood k (execStreamFetchIssue s) := by
  intro s k h
  unfold execStreamFetchIssue
  repeat' first | (with_reducible assumption) | split | simp [*] | refine Good.foldl (fun _ _ _ => ?_) ?_ | refine Good.each (fun _ _ _ => ?_) ?_ | intro _

@[simp] theorem State.noteWait_kept : ∀ s a1, (State.noteWait s a1).kept = s.kept := by
  intro s a1
  unfold State.noteWait
  repeat' first | split | simp | intro _ | rw [State.foldl_kept (fun _ _ => ?_)] | rw [State.each_kept (fun _ _ => ?_)]

@[simp] theorem State.tookUrgent_kept : ∀ s a1, (State.tookUrgent s a1).kept = s.kept := by
  intro s a1
  unfold State.tookUrgent
  repeat' first | split | simp | intro _ | rw [State.foldl_kept (fun _ _ => ?_)] | rw [State.each_kept (fun _ _ => ?_)]

@[simp] theorem execUrgentFetchIssue_good : ∀ s k, Good k s.kept.2 → outGood k (execUrgentFetchIssue s) := by
  intro s k h
  unfold execUrgentFetchIssue
  repeat' first | (with_reducible assumption) | split | simp [*] | refine Good.foldl (fun _ _ _ => ?_) ?_ | refine Good.each (fun _ _ _ => ?_) ?_ | intro _

@[simp] theorem promoteWrite_kept : ∀ a0 a1 s, (promoteWrite a0 a1 s).kept = s.kept := by
  intro a0 a1 s
  unfold promoteWrite
  repeat' first | split | simp | intro _ | rw [State.foldl_kept (fun _ _ => ?_)] | rw [State.each_kept (fun _ _ => ?_)]

@[simp] theorem promoteRead_kept : ∀ a0 s, (promoteRead a0 s).kept = s.kept := by
  intro a0 s
  unfold promoteRead
  repeat' first | split | simp | intro _ | rw [State.foldl_kept (fun _ _ => ?_)] | rw [State.each_kept (fun _ _ => ?_)]

@[simp] theorem execRequestPromotion_kept : ∀ a0 s, outKept (execRequestPromotion a0 s) = some s.kept.2 := by
  intro a0 s
  unfold execRequestPromotion
  repeat' first | split | simp | intro _ | rw [State.foldl_kept (fun _ _ => ?_)] | rw [State.each_kept (fun _ _ => ?_)]

@[simp] theorem State.capture_kept : ∀ s a1 a2 a3 a4 a5, (State.capture s a1 a2 a3 a4 a5).kept = s.kept := by
  intro s a1 a2 a3 a4 a5
  unfold State.capture
  repeat' first | split | simp | intro _ | rw [State.foldl_kept (fun _ _ => ?_)] | rw [State.each_kept (fun _ _ => ?_)]

@[simp] theorem State.freezePc_kept : ∀ s a1, (State.freezePc s a1).kept = s.kept := by
  intro s a1
  unfold State.freezePc
  repeat' first | split | simp | intro _ | rw [State.foldl_kept (fun _ _ => ?_)] | rw [State.each_kept (fun _ _ => ?_)]

@[simp] theorem State.badWord_good : ∀ s a1 a2 a3 a4 a5 k, Good k s.kept.2 → Good k (State.badWord s a1 a2 a3 a4 a5).kept.2 := by
  intro s a1 a2 a3 a4 a5 k h
  unfold State.badWord
  repeat' first | (with_reducible assumption) | split | simp [*] | refine Good.foldl (fun _ _ _ => ?_) ?_ | refine Good.each (fun _ _ _ => ?_) ?_ | intro _

@[simp] theorem State.startRetire_kept : ∀ s a1 a2 a3, (State.startRetire s a1 a2 a3).kept = s.kept := by
  intro s a1 a2 a3
  unfold State.startRetire
  repeat' first | split | simp | intro _ | rw [State.foldl_kept (fun _ _ => ?_)] | rw [State.each_kept (fun _ _ => ?_)]

@[simp] theorem State.issueWrites_kept : ∀ s a1, (State.issueWrites s a1).kept = s.kept := by
  intro s a1
  unfold State.issueWrites
  repeat' first | split | simp | intro _ | rw [State.foldl_kept (fun _ _ => ?_)] | rw [State.each_kept (fun _ _ => ?_)]

@[simp] theorem State.recoverPc_kept : ∀ s a1, (State.recoverPc s a1).kept = s.kept := by
  intro s a1
  unfold State.recoverPc
  repeat' first | split | simp | intro _ | rw [State.foldl_kept (fun _ _ => ?_)] | rw [State.each_kept (fun _ _ => ?_)]

@[simp] theorem State.startRetrains_kept : ∀ s, (State.startRetrains s).kept = s.kept := by
  intro s
  unfold State.startRetrains
  repeat' first | split | simp | intro _ | rw [State.foldl_kept (fun _ _ => ?_)] | rw [State.each_kept (fun _ _ => ?_)]

@[simp] theorem State.tellOut_kept : ∀ s a1, (State.tellOut s a1).kept = s.kept := by
  intro s a1
  unfold State.tellOut
  repeat' first | split | simp | intro _ | rw [State.foldl_kept (fun _ _ => ?_)] | rw [State.each_kept (fun _ _ => ?_)]

@[simp] theorem State.backInService_kept : ∀ s a1, (State.backInService s a1).kept = s.kept := by
  intro s a1
  unfold State.backInService
  repeat' first | split | simp | intro _ | rw [State.foldl_kept (fun _ _ => ?_)] | rw [State.each_kept (fun _ _ => ?_)]

@[simp] theorem State.unfreezePc_good : ∀ s a1 a2 k, Good k s.kept.2 → Good k (State.unfreezePc s a1 a2).kept.2 := by
  intro s a1 a2 k h
  unfold State.unfreezePc
  repeat' first | (with_reducible assumption) | split | simp [*] | refine Good.foldl (fun _ _ _ => ?_) ?_ | refine Good.each (fun _ _ _ => ?_) ?_ | intro _

@[simp] theorem State.retireCaptured_good : ∀ s a1 a2 k, Good k s.kept.2 → Good k (State.retireCaptured s a1 a2).kept.2 := by
  intro s a1 a2 k h
  unfold State.retireCaptured
  repeat' first | (with_reducible assumption) | split | simp [*] | refine Good.foldl (fun _ _ _ => ?_) ?_ | refine Good.each (fun _ _ _ => ?_) ?_ | intro _

@[simp] theorem State.freezeOver_good : ∀ s a1 a2 k, Good k s.kept.2 → Good k (State.freezeOver s a1 a2).kept.2 := by
  intro s a1 a2 k h
  unfold State.freezeOver
  repeat' first | (with_reducible assumption) | split | simp [*] | refine Good.foldl (fun _ _ _ => ?_) ?_ | refine Good.each (fun _ _ _ => ?_) ?_ | intro _

@[simp] theorem execFreezeTimeout_good : ∀ a0 s k, Good k s.kept.2 → outGood k (execFreezeTimeout a0 s) := by
  intro a0 s k h
  unfold execFreezeTimeout
  repeat' first | (with_reducible assumption) | split | simp [*] | refine Good.foldl (fun _ _ _ => ?_) ?_ | refine Good.each (fun _ _ _ => ?_) ?_ | intro _

@[simp] theorem State.endDiag_kept : ∀ s a1 a2, (State.endDiag s a1 a2).kept = s.kept := by
  intro s a1 a2
  unfold State.endDiag
  repeat' first | split | simp | intro _ | rw [State.foldl_kept (fun _ _ => ?_)] | rw [State.each_kept (fun _ _ => ?_)]

@[simp] theorem actMemDiag_good : ∀ a0 s k, Good k s.kept.2 → Good k (actMemDiag a0 s).kept.2 := by
  intro a0 s k h
  unfold actMemDiag
  repeat' first | (with_reducible assumption) | split | simp [*] | refine Good.foldl (fun _ _ _ => ?_) ?_ | refine Good.each (fun _ _ _ => ?_) ?_ | intro _

theorem mMemDiag_good : mMemDiag.Good where
  act := by
    intro r s k h
    simp only [mMemDiag]
    repeat' first | (with_reducible assumption) | split | simp [*] | refine Good.foldl (fun _ _ _ => ?_) ?_ | refine Good.each (fun _ _ _ => ?_) ?_ | intro _
  fail := by
    intro r st s k h
    simp only [mMemDiag]
    repeat' first | (with_reducible assumption) | split | simp [*] | refine Good.foldl (fun _ _ _ => ?_) ?_ | refine Good.each (fun _ _ _ => ?_) ?_ | intro _
  hold := by
    intro r s k h
    simp only [mMemDiag]
    repeat' first | (with_reducible assumption) | split | simp [*] | refine Good.foldl (fun _ _ _ => ?_) ?_ | refine Good.each (fun _ _ _ => ?_) ?_ | intro _


theorem execMemDiag_good : ∀ a0 s k, Good k s.kept.2 → outGood k (execMemDiag a0 s) := by
  intro a0 s k h
  simp [execMemDiag, submit_good mMemDiag_good h]

@[simp] theorem execRowRetireCopyEnd_good : ∀ a0 s k, Good k s.kept.2 → outGood k (execRowRetireCopyEnd a0 s) := by
  intro a0 s k h
  unfold execRowRetireCopyEnd
  repeat' first | (with_reducible assumption) | split | simp [*] | refine Good.foldl (fun _ _ _ => ?_) ?_ | refine Good.each (fun _ _ _ => ?_) ?_ | intro _

@[simp] theorem State.endCatchup_kept : ∀ s a1, (State.endCatchup s a1).kept = s.kept := by
  intro s a1
  unfold State.endCatchup
  repeat' first | split | simp | intro _ | rw [State.foldl_kept (fun _ _ => ?_)] | rw [State.each_kept (fun _ _ => ?_)]

@[simp] theorem State.resumeFill_kept : ∀ s a1, (State.resumeFill s a1).kept = s.kept := by
  intro s a1
  unfold State.resumeFill
  repeat' first | split | simp | intro _ | rw [State.foldl_kept (fun _ _ => ?_)] | rw [State.each_kept (fun _ _ => ?_)]

@[simp] theorem State.landBulk_good : ∀ s a1 a2 k, Good k s.kept.2 → Good k (State.landBulk s a1 a2).kept.2 := by
  intro s a1 a2 k h
  unfold State.landBulk
  repeat' first | (with_reducible assumption) | split | simp [*] | refine Good.foldl (fun _ _ _ => ?_) ?_ | refine Good.each (fun _ _ _ => ?_) ?_ | intro _

@[simp] theorem State.land_good : ∀ s a1 a2 k, Good k s.kept.2 → Good k (State.land s a1 a2).kept.2 := by
  intro s a1 a2 k h
  unfold State.land
  repeat' first | (with_reducible assumption) | split | simp [*] | refine Good.foldl (fun _ _ _ => ?_) ?_ | refine Good.each (fun _ _ _ => ?_) ?_ | intro _

@[simp] theorem State.eccRead_good : ∀ s a1 a2 a3 k, Good k s.kept.2 → Good k (State.eccRead s a1 a2 a3).kept.2 := by
  intro s a1 a2 a3 k h
  unfold State.eccRead
  repeat' first | (with_reducible assumption) | split | simp [*] | refine Good.foldl (fun _ _ _ => ?_) ?_ | refine Good.each (fun _ _ _ => ?_) ?_ | intro _

@[simp] theorem execFetchLanded_good : ∀ a0 a1 a2 s k, Good k s.kept.2 → outGood k (execFetchLanded a0 a1 a2 s) := by
  intro a0 a1 a2 s k h
  unfold execFetchLanded
  repeat' first | (with_reducible assumption) | split | simp [*] | refine Good.foldl (fun _ _ _ => ?_) ?_ | refine Good.each (fun _ _ _ => ?_) ?_ | intro _

@[simp] theorem execFetchTimeout_kept : ∀ a0 s, outKept (execFetchTimeout a0 s) = some s.kept.2 := by
  intro a0 s
  unfold execFetchTimeout
  repeat' first | split | simp | intro _ | rw [State.foldl_kept (fun _ _ => ?_)] | rw [State.each_kept (fun _ _ => ?_)]

@[simp] theorem execWriteEnqueue_kept : ∀ a0 a1 a2 s, outKept (execWriteEnqueue a0 a1 a2 s) = some s.kept.2 := by
  intro a0 a1 a2 s
  unfold execWriteEnqueue
  repeat' first | split | simp | intro _ | rw [State.foldl_kept (fun _ _ => ?_)] | rw [State.each_kept (fun _ _ => ?_)]

@[simp] theorem State.zeroFirst_good : ∀ s k, Good k s.kept.2 → Good k (State.zeroFirst s).kept.2 := by
  intro s k h
  unfold State.zeroFirst
  repeat' first | (with_reducible assumption) | split | simp [*] | refine Good.foldl (fun _ _ _ => ?_) ?_ | refine Good.each (fun _ _ _ => ?_) ?_ | intro _

@[simp] theorem execScrubRead_good : ∀ a0 s k, Good k s.kept.2 → outGood k (execScrubRead a0 s) := by
  intro a0 s k h
  unfold execScrubRead
  extract_lets s1 g d q s2 s3
  have h1 : Good k s1.kept.2 := State.zeroFirst_good _ _ (State.owlAhead_good _ _ h)
  have h2 : Good k s2.kept.2 := by simpa [s2] using h1
  have h3 : Good k s3.kept.2 := by simpa [s3] using h2
  split
  · simpa using h2
  · split <;> simp [h3]

@[simp] theorem State.checkDrift_kept : ∀ s a1 a2, (State.checkDrift s a1 a2).kept = s.kept := by
  intro s a1 a2
  unfold State.checkDrift
  repeat' first | split | simp | intro _ | rw [State.foldl_kept (fun _ _ => ?_)] | rw [State.each_kept (fun _ _ => ?_)]

@[simp] theorem execReadDelayTrack_kept : ∀ a0 a1 a2 a3 s, outKept (execReadDelayTrack a0 a1 a2 a3 s) = some s.kept.2 := by
  intro a0 a1 a2 a3 s
  unfold execReadDelayTrack
  repeat' first | split | simp | intro _ | rw [State.foldl_kept (fun _ _ => ?_)] | rw [State.each_kept (fun _ _ => ?_)]

@[simp] theorem execWriteDelayCheck_kept : ∀ a0 a1 a2 a3 s, outKept (execWriteDelayCheck a0 a1 a2 a3 s) = some s.kept.2 := by
  intro a0 a1 a2 a3 s
  unfold execWriteDelayCheck
  repeat' first | split | simp | intro _ | rw [State.foldl_kept (fun _ _ => ?_)] | rw [State.each_kept (fun _ _ => ?_)]

@[simp] theorem State.retrained_kept : ∀ s a1, (State.retrained s a1).kept = s.kept := by
  intro s a1
  unfold State.retrained
  repeat' first | split | simp | intro _ | rw [State.foldl_kept (fun _ _ => ?_)] | rw [State.each_kept (fun _ _ => ?_)]

@[simp] theorem State.failPc_kept : ∀ s a1, (State.failPc s a1).kept = s.kept := by
  intro s a1
  unfold State.failPc
  repeat' first | split | simp | intro _ | rw [State.foldl_kept (fun _ _ => ?_)] | rw [State.each_kept (fun _ _ => ?_)]

@[simp] theorem State.countRetrain_kept : ∀ s a1, (State.countRetrain s a1).kept = s.kept := by
  intro s a1
  unfold State.countRetrain
  repeat' first | split | simp | intro _ | rw [State.foldl_kept (fun _ _ => ?_)] | rw [State.each_kept (fun _ _ => ?_)]

@[simp] theorem execPcRetrainEnd_kept : ∀ a0 a1 s, outKept (execPcRetrainEnd a0 a1 s) = some s.kept.2 := by
  intro a0 a1 s
  unfold execPcRetrainEnd
  repeat' first | split | simp | intro _ | rw [State.foldl_kept (fun _ _ => ?_)] | rw [State.each_kept (fun _ _ => ?_)]

@[simp] theorem State.requestMaint_kept : ∀ s a1, (State.requestMaint s a1).kept = s.kept := by
  intro s a1
  unfold State.requestMaint
  repeat' first | split | simp | intro _ | rw [State.foldl_kept (fun _ _ => ?_)] | rw [State.each_kept (fun _ _ => ?_)]

@[simp] theorem execMemMaintRequest_kept : ∀ a0 s, outKept (execMemMaintRequest a0 s) = some s.kept.2 := by
  intro a0 s
  unfold execMemMaintRequest
  repeat' first | split | simp | intro _ | rw [State.foldl_kept (fun _ _ => ?_)] | rw [State.each_kept (fun _ _ => ?_)]

@[simp] theorem execMaintWindowClose_kept : ∀ s, outKept (execMaintWindowClose s) = some s.kept.2 := by
  intro s
  unfold execMaintWindowClose
  repeat' first | split | simp | intro _ | rw [State.foldl_kept (fun _ _ => ?_)] | rw [State.each_kept (fun _ _ => ?_)]

@[simp] theorem execPhySelfCheckFail_kept : ∀ a0 s, outKept (execPhySelfCheckFail a0 s) = some s.kept.2 := by
  intro a0 s
  unfold execPhySelfCheckFail
  repeat' first | split | simp | intro _ | rw [State.foldl_kept (fun _ _ => ?_)] | rw [State.each_kept (fun _ _ => ?_)]

@[simp] theorem execPcRecoveryEnd_kept : ∀ a0 a1 a2 s, outKept (execPcRecoveryEnd a0 a1 a2 s) = some s.kept.2 := by
  intro a0 a1 a2 s
  unfold execPcRecoveryEnd
  repeat' first | split | simp | intro _ | rw [State.foldl_kept (fun _ _ => ?_)] | rw [State.each_kept (fun _ _ => ?_)]

@[simp] theorem execSqlLeadRead_kept : ∀ s, outKept (execSqlLeadRead s) = some s.kept.2 := by
  intro s
  unfold execSqlLeadRead
  repeat' first | split | simp | intro _ | rw [State.foldl_kept (fun _ _ => ?_)] | rw [State.each_kept (fun _ _ => ?_)]

@[simp] theorem execSqlUrgMaxRead_kept : ∀ s, outKept (execSqlUrgMaxRead s) = some s.kept.2 := by
  intro s
  unfold execSqlUrgMaxRead
  repeat' first | split | simp | intro _ | rw [State.foldl_kept (fun _ _ => ?_)] | rw [State.each_kept (fun _ _ => ?_)]

@[simp] theorem execSqlPortLatRead_kept : ∀ a0 s, outKept (execSqlPortLatRead a0 s) = some s.kept.2 := by
  intro a0 s
  unfold execSqlPortLatRead
  repeat' first | split | simp | intro _ | rw [State.foldl_kept (fun _ _ => ?_)] | rw [State.each_kept (fun _ _ => ?_)]

end Sys2Proof.Machine
end

