-- ==== Sys2Proof/Laws/KeepsFirmware.lean ====
section
/-! SUPPORT. What the operations of Machine/Firmware.lean keep: the order of acceptance, the queue of waiting commands and the
memories (or, where one writes memory, the canonical form); and that a command of it always completes. -/

namespace Sys2Proof.Machine

variable {s t : State}

@[simp] theorem State.emptySlot_kept : ∀ s a1, (State.emptySlot s a1).kept = s.kept := by
  intro s a1
  unfold State.emptySlot
  repeat' first | split | simp | intro _ | rw [State.foldl_kept (fun _ _ => ?_)] | rw [State.each_kept (fun _ _ => ?_)]

@[simp] theorem State.fillSlot_kept : ∀ s a1 a2, (State.fillSlot s a1 a2).kept = s.kept := by
  intro s a1 a2
  unfold State.fillSlot
  repeat' first | split | simp | intro _ | rw [State.foldl_kept (fun _ _ => ?_)] | rw [State.each_kept (fun _ _ => ?_)]

@[simp] theorem State.writeSlot_kept : ∀ s a1 a2 a3 a4, (State.writeSlot s a1 a2 a3 a4).kept = s.kept := by
  intro s a1 a2 a3 a4
  unfold State.writeSlot
  repeat' first | split | simp | intro _ | rw [State.foldl_kept (fun _ _ => ?_)] | rw [State.each_kept (fun _ _ => ?_)]

theorem mFwStage_keeps : mFwStage.Keeps where
  act r s := by
    simp only [mFwStage]
    repeat' first | split | simp | intro _ | rw [State.foldl_kept (fun _ _ => ?_)] | rw [State.each_kept (fun _ _ => ?_)]
  fail r st s := by
    simp only [mFwStage]
    repeat' first | split | simp | intro _ | rw [State.foldl_kept (fun _ _ => ?_)] | rw [State.each_kept (fun _ _ => ?_)]
  hold r s := by
    simp only [mFwStage]
    repeat' first | split | simp | intro _ | rw [State.foldl_kept (fun _ _ => ?_)] | rw [State.each_kept (fun _ _ => ?_)]

@[simp] theorem execFwStage_kept : ∀ a0 s, outKept (execFwStage a0 s) = some s.kept.2 := by
  intro a0 s
  simp [execFwStage, submit_kept mFwStage_keeps]

@[simp] theorem takeFwStage_kept : ∀ a0 a1 s, (takeFwStage a0 a1 s).kept = s.kept := by
  intro a0 a1 s
  unfold takeFwStage
  repeat' first | split | simp | intro _ | rw [State.foldl_kept (fun _ _ => ?_)] | rw [State.each_kept (fun _ _ => ?_)]

@[simp] theorem State.unschedule_kept : ∀ s, (State.unschedule s).kept = s.kept := by
  intro s
  unfold State.unschedule
  repeat' first | split | simp | intro _ | rw [State.foldl_kept (fun _ _ => ?_)] | rw [State.each_kept (fun _ _ => ?_)]

theorem mFwSchedule_keeps : mFwSchedule.Keeps where
  act r s := by
    simp only [mFwSchedule]
    repeat' first | split | simp | intro _ | rw [State.foldl_kept (fun _ _ => ?_)] | rw [State.each_kept (fun _ _ => ?_)]
  fail r st s := by
    simp only [mFwSchedule]
    repeat' first | split | simp | intro _ | rw [State.foldl_kept (fun _ _ => ?_)] | rw [State.each_kept (fun _ _ => ?_)]
  hold r s := by
    simp only [mFwSchedule]
    repeat' first | split | simp | intro _ | rw [State.foldl_kept (fun _ _ => ?_)] | rw [State.each_kept (fun _ _ => ?_)]

@[simp] theorem execFwSchedule_kept : ∀ a0 s, outKept (execFwSchedule a0 s) = some s.kept.2 := by
  intro a0 s
  simp [execFwSchedule, submit_kept mFwSchedule_keeps]

theorem mFwStatus_keeps : mFwStatus.Keeps where
  act r s := by
    simp only [mFwStatus]
    repeat' first | split | simp | intro _ | rw [State.foldl_kept (fun _ _ => ?_)] | rw [State.each_kept (fun _ _ => ?_)]
  fail r st s := by
    simp only [mFwStatus]
    repeat' first | split | simp | intro _ | rw [State.foldl_kept (fun _ _ => ?_)] | rw [State.each_kept (fun _ _ => ?_)]
  hold r s := by
    simp only [mFwStatus]
    repeat' first | split | simp | intro _ | rw [State.foldl_kept (fun _ _ => ?_)] | rw [State.each_kept (fun _ _ => ?_)]

@[simp] theorem execFwStatus_kept : ∀ a0 s, outKept (execFwStatus a0 s) = some s.kept.2 := by
  intro a0 s
  simp [execFwStatus, submit_kept mFwStatus_keeps]

@[simp] theorem actFwCancel_kept : ∀ a0 s, (actFwCancel a0 s).kept = s.kept := by
  intro a0 s
  unfold actFwCancel
  repeat' first | split | simp | intro _ | rw [State.foldl_kept (fun _ _ => ?_)] | rw [State.each_kept (fun _ _ => ?_)]

theorem mFwCancel_keeps : mFwCancel.Keeps where
  act r s := by
    simp only [mFwCancel]
    repeat' first | split | simp | intro _ | rw [State.foldl_kept (fun _ _ => ?_)] | rw [State.each_kept (fun _ _ => ?_)]
  fail r st s := by
    simp only [mFwCancel]
    repeat' first | split | simp | intro _ | rw [State.foldl_kept (fun _ _ => ?_)] | rw [State.each_kept (fun _ _ => ?_)]
  hold r s := by
    simp only [mFwCancel]
    repeat' first | split | simp | intro _ | rw [State.foldl_kept (fun _ _ => ?_)] | rw [State.each_kept (fun _ _ => ?_)]

@[simp] theorem execFwCancel_kept : ∀ a0 s, outKept (execFwCancel a0 s) = some s.kept.2 := by
  intro a0 s
  simp [execFwCancel, submit_kept mFwCancel_keeps]

@[simp] theorem execFwQuietCheck_kept : ∀ s, outKept (execFwQuietCheck s) = some s.kept.2 := by
  intro s
  unfold execFwQuietCheck
  repeat' first | split | simp | intro _ | rw [State.foldl_kept (fun _ _ => ?_)] | rw [State.each_kept (fun _ _ => ?_)]

end Sys2Proof.Machine
end

