-- ==== Sys2Proof/Laws/KeepsLogDiag.lean ====
section
/-! SUPPORT. What the operations of Machine/LogDiag.lean keep: the order of acceptance, the queue of waiting commands and the
memories (or, where one writes memory, the canonical form); and that a command of it always completes. -/

namespace Sys2Proof.Machine

variable {s t : State}

theorem mLogRead_keeps : mLogRead.Keeps where
  act r s := by
    simp only [mLogRead]
    repeat' first | split | simp | intro _ | rw [State.foldl_kept (fun _ _ => ?_)] | rw [State.each_kept (fun _ _ => ?_)]
  fail r st s := by
    simp only [mLogRead]
    repeat' first | split | simp | intro _ | rw [State.foldl_kept (fun _ _ => ?_)] | rw [State.each_kept (fun _ _ => ?_)]
  hold r s := by
    simp only [mLogRead]
    repeat' first | split | simp | intro _ | rw [State.foldl_kept (fun _ _ => ?_)] | rw [State.each_kept (fun _ _ => ?_)]

@[simp] theorem execLogRead_kept : ∀ a0 s, outKept (execLogRead a0 s) = some s.kept.2 := by
  intro a0 s
  simp [execLogRead, submit_kept mLogRead_keeps]

@[simp] theorem endLogRead_kept : ∀ a0 s, (endLogRead a0 s).kept = s.kept := by
  intro a0 s
  unfold endLogRead
  repeat' first | split | simp | intro _ | rw [State.foldl_kept (fun _ _ => ?_)] | rw [State.each_kept (fun _ _ => ?_)]

@[simp] theorem State.ackRec_kept : ∀ s a1, (State.ackRec s a1).kept = s.kept := by
  intro s a1
  unfold State.ackRec
  repeat' first | split | simp | intro _ | rw [State.foldl_kept (fun _ _ => ?_)] | rw [State.each_kept (fun _ _ => ?_)]

@[simp] theorem State.fixFaulted_kept : ∀ s a1, (State.fixFaulted s a1).kept = s.kept := by
  intro s a1
  unfold State.fixFaulted
  repeat' first | split | simp | intro _ | rw [State.foldl_kept (fun _ _ => ?_)] | rw [State.each_kept (fun _ _ => ?_)]

@[simp] theorem actFaultAck_kept : ∀ a0 s, (actFaultAck a0 s).kept = s.kept := by
  intro a0 s
  unfold actFaultAck
  repeat' first | split | simp | intro _ | rw [State.foldl_kept (fun _ _ => ?_)] | rw [State.each_kept (fun _ _ => ?_)]

theorem mFaultAck_keeps : mFaultAck.Keeps where
  act r s := by
    simp only [mFaultAck]
    repeat' first | split | simp | intro _ | rw [State.foldl_kept (fun _ _ => ?_)] | rw [State.each_kept (fun _ _ => ?_)]
  fail r st s := by
    simp only [mFaultAck]
    repeat' first | split | simp | intro _ | rw [State.foldl_kept (fun _ _ => ?_)] | rw [State.each_kept (fun _ _ => ?_)]
  hold r s := by
    simp only [mFaultAck]
    repeat' first | split | simp | intro _ | rw [State.foldl_kept (fun _ _ => ?_)] | rw [State.each_kept (fun _ _ => ?_)]

@[simp] theorem execFaultAck_kept : ∀ a0 s, outKept (execFaultAck a0 s) = some s.kept.2 := by
  intro a0 s
  simp [execFaultAck, submit_kept mFaultAck_keeps]

end Sys2Proof.Machine
end

