-- ==== Sys2Proof/Laws/KeepsRings.lean ====
section
/-! SUPPORT. What the operations of Machine/Rings.lean keep: the order of acceptance, the queue of waiting commands and the
memories (or, where one writes memory, the canonical form); and that a command of it always completes. -/

namespace Sys2Proof.Machine

variable {s t : State}

@[simp] theorem State.ringWrite_kept : ∀ s a1 a2 a3, (State.ringWrite s a1 a2 a3).kept = s.kept := by
  intro s a1 a2 a3
  unfold State.ringWrite
  repeat' first | split | simp | intro _ | rw [State.foldl_kept (fun _ _ => ?_)] | rw [State.each_kept (fun _ _ => ?_)]

@[simp] theorem State.ringReg_kept : ∀ s a1 a2 a3, (State.ringReg s a1 a2 a3).kept = s.kept := by
  intro s a1 a2 a3
  unfold State.ringReg
  repeat' first | split | simp | intro _ | rw [State.foldl_kept (fun _ _ => ?_)] | rw [State.each_kept (fun _ _ => ?_)]

@[simp] theorem State.applyHeld_kept : ∀ s, (State.applyHeld s).kept = s.kept := by
  intro s
  unfold State.applyHeld
  repeat' first | split | simp | intro _ | rw [State.foldl_kept (fun _ _ => ?_)] | rw [State.each_kept (fun _ _ => ?_)]

@[simp] theorem execSysCrCtrlWrite_kept : ∀ a0 a1 a2 s, outKept (execSysCrCtrlWrite a0 a1 a2 s) = some s.kept.2 := by
  intro a0 a1 a2 s
  unfold execSysCrCtrlWrite
  repeat' first | split | simp | intro _ | rw [State.foldl_kept (fun _ _ => ?_)] | rw [State.each_kept (fun _ _ => ?_)]

@[simp] theorem execSysCrTailDoorbell_kept : ∀ a0 a1 a2 s, outKept (execSysCrTailDoorbell a0 a1 a2 s) = some s.kept.2 := by
  intro a0 a1 a2 s
  unfold execSysCrTailDoorbell
  repeat' first | split | simp | intro _ | rw [State.foldl_kept (fun _ _ => ?_)] | rw [State.each_kept (fun _ _ => ?_)]

@[simp] theorem execSysCqCtrlWrite_kept : ∀ a0 a1 a2 s, outKept (execSysCqCtrlWrite a0 a1 a2 s) = some s.kept.2 := by
  intro a0 a1 a2 s
  unfold execSysCqCtrlWrite
  repeat' first | split | simp | intro _ | rw [State.foldl_kept (fun _ _ => ?_)] | rw [State.each_kept (fun _ _ => ?_)]

@[simp] theorem execSysCqHeadDoorbell_kept : ∀ a0 a1 a2 s, outKept (execSysCqHeadDoorbell a0 a1 a2 s) = some s.kept.2 := by
  intro a0 a1 a2 s
  unfold execSysCqHeadDoorbell
  repeat' first | split | simp | intro _ | rw [State.foldl_kept (fun _ _ => ?_)] | rw [State.each_kept (fun _ _ => ?_)]

@[simp] theorem State.commitSys_kept : ∀ s a1, (State.commitSys s a1).kept = s.kept := by
  intro s a1
  unfold State.commitSys
  repeat' first | split | simp | intro _ | rw [State.foldl_kept (fun _ _ => ?_)] | rw [State.each_kept (fun _ _ => ?_)]

@[simp] theorem execSysCommitIrq_kept : ∀ a0 s, outKept (execSysCommitIrq a0 s) = some s.kept.2 := by
  intro a0 s
  unfold execSysCommitIrq
  repeat' first | split | simp | intro _ | rw [State.foldl_kept (fun _ _ => ?_)] | rw [State.each_kept (fun _ _ => ?_)]

@[simp] theorem State.postEntry_kept : ∀ s a1 a2 a3 a4 a5, (State.postEntry s a1 a2 a3 a4 a5).kept = s.kept := by
  intro s a1 a2 a3 a4 a5
  unfold State.postEntry
  repeat' first | split | simp | intro _ | rw [State.foldl_kept (fun _ _ => ?_)] | rw [State.each_kept (fun _ _ => ?_)]

@[simp] theorem execFaultNotice_kept : ∀ a0 s, outKept (execFaultNotice a0 s) = some s.kept.2 := by
  intro a0 s
  unfold execFaultNotice
  repeat' first | split | simp | intro _ | rw [State.foldl_kept (fun _ _ => ?_)] | rw [State.each_kept (fun _ _ => ?_)]

@[simp] theorem execMsixVectorSend_kept : ∀ a0 a1 s, outKept (execMsixVectorSend a0 a1 s) = some s.kept.2 := by
  intro a0 a1 s
  unfold execMsixVectorSend
  repeat' first | split | simp | intro _ | rw [State.foldl_kept (fun _ _ => ?_)] | rw [State.each_kept (fun _ _ => ?_)]

end Sys2Proof.Machine
end

