-- ==== Sys2Proof/Laws/KeepsPackets.lean ====
section
/-! SUPPORT. What the operations of Machine/Packets.lean keep: the order of acceptance, the queue of waiting commands and the
memories (or, where one writes memory, the canonical form); and that a command of it always completes. -/

namespace Sys2Proof.Machine

variable {s t : State}

variable {k : List Instr × Memory × Memory}

/-- What every packet does. -/
theorem meaningOf_good : ∀ op, (meaningOf op).Good
  | .nop => mNop_keeps.good
  | .ping => mPing_keeps.good
  | .getInfo => mGetInfo_keeps.good
  | .timeSet => mTimeSet_keeps.good
  | .schedCancel => mSchedCancel_keeps.good
  | .ctxOpen => mCtxOpen_keeps.good
  | .ctxClose => mCtxClose_keeps.good
  | .ctxReset => mCtxReset_keeps.good
  | .ctxBind => mCtxBind_keeps.good
  | .ctxClaim => mCtxClaim_keeps.good
  | .ctxRelease => mCtxRelease_keeps.good
  | .ctxStatus => mCtxStatus_keeps.good
  | .segAlloc => mSegAlloc_keeps.good
  | .segWrite => mSegWrite_keeps.good
  | .segFree => mSegFree_keeps.good
  | .segPin => mSegPin_keeps.good
  | .segRead => mSegRead_keeps.good
  | .segMirror => mSegMirror_keeps.good
  | .prgLoad => mPrgLoad_keeps.good
  | .prgCheck => mPrgCheck_keeps.good
  | .prgArm => mPrgArm_keeps.good
  | .prgStart => mPrgStart_keeps.good
  | .prgStop => mPrgStop_keeps.good
  | .jmpArm => mJmpArm_keeps.good
  | .ctrSet => mCtrSet_keeps.good
  | .scnDefine => mScnDefine_keeps.good
  | .scnStartAt => mScnStartAt_keeps.good
  | .scnAbort => mScnAbort_keeps.good
  | .scnDelete => mScnDelete_keeps.good
  | .fchConfig => mFchConfig_keeps.good
  | .fchMode => mFchMode_keeps.good
  | .pchConfig => mPchConfig_keeps.good
  | .pchLoad => mPchLoad_keeps.good
  | .pchStrobe => mPchStrobe_keeps.good
  | .pchQueue => mPchQueue_keeps.good
  | .vocConfig => mVocConfig_keeps.good
  | .clkConfig => mClkConfig_keeps.good
  | .clkStep => mClkStep_keeps.good
  | .clkSync => mClkSync_keeps.good
  | .tmuConfig => mTmuConfig_keeps.good
  | .tmuRun => mTmuRun_keeps.good
  | .tmuRead => mTmuRead_keeps.good
  | .calRun => mCalRun_keeps.good
  | .calSave => mCalSave_keeps.good
  | .calRestore => mCalRestore_keeps.good
  | .aocCtrl => mAocCtrl_keeps.good
  | .evtRoute => mEvtRoute_keeps.good
  | .evtLut => mEvtLut_keeps.good
  | .evtFire => mEvtFire_keeps.good
  | .bnkPower => mBnkPower_keeps.good
  | .bnkHandover => mBnkHandover_keeps.good
  | .fwStage => mFwStage_keeps.good
  | .fwSchedule => mFwSchedule_keeps.good
  | .fwStatus => mFwStatus_keeps.good
  | .fwCancel => mFwCancel_keeps.good
  | .logRead => mLogRead_keeps.good
  | .faultAck => mFaultAck_keeps.good
  | .memDiag => mMemDiag_good
  | .unknown _ => mUnknown_keeps.good

@[simp] theorem releaseFrom_good : ∀ a0 s k, Good k s.kept.2 → Good k (releaseFrom a0 s).kept.2 := by
  intro a0 s k h
  induction a0 generalizing s with
  | nil => exact h
  | cons r rs ih =>
    unfold releaseFrom
    split
    · exact ih _ (launch_good (meaningOf_good _) (by simpa using h))
    · exact ih _ h

@[simp] theorem State.release_good : ∀ s k, Good k s.kept.2 → Good k (State.release s).kept.2 := by
  intro s k h
  unfold State.release
  repeat' first | (with_reducible assumption) | split | simp [*] | refine Good.foldl (fun _ _ _ => ?_) ?_ | refine Good.each (fun _ _ _ => ?_) ?_ | intro _

@[simp] theorem execTimedActionActivation_good : ∀ s k, Good k s.kept.2 → outGood k (execTimedActionActivation s) := by
  intro s k h
  unfold execTimedActionActivation
  split
  · simpa using h
  · simp [perform_good (meaningOf_good _), h]

@[simp] theorem State.stopRing_kept : ∀ s a1 a2 a3, (State.stopRing s a1 a2 a3).kept = s.kept := by
  intro s a1 a2 a3
  unfold State.stopRing
  repeat' first | split | simp | intro _ | rw [State.foldl_kept (fun _ _ => ?_)] | rw [State.each_kept (fun _ _ => ?_)]

@[simp] theorem State.passTurn_kept : ∀ s a1 a2, (State.passTurn s a1 a2).kept = s.kept := by
  intro s a1 a2
  unfold State.passTurn
  repeat' first | split | simp | intro _ | rw [State.foldl_kept (fun _ _ => ?_)] | rw [State.each_kept (fun _ _ => ?_)]

@[simp] theorem execPacketFetch_kept : ∀ a0 a1 a2 s, outKept (execPacketFetch a0 a1 a2 s) = some s.kept.2 := by
  intro a0 a1 a2 s
  unfold execPacketFetch
  repeat' first | split | simp | intro _ | rw [State.foldl_kept (fun _ _ => ?_)] | rw [State.each_kept (fun _ _ => ?_)]

@[simp] theorem execCompletionWrite_good : ∀ a0 a1 s k, Good k s.kept.2 → outGood k (execCompletionWrite a0 a1 s) := by
  intro a0 a1 s k h
  unfold execCompletionWrite
  repeat' first | (with_reducible assumption) | split | simp [*] | refine Good.foldl (fun _ _ _ => ?_) ?_ | refine Good.each (fun _ _ _ => ?_) ?_ | intro _

@[simp] theorem dropTransfer_good : ∀ a0 a1 a2 a3 s k, Good k s.kept.2 → Good k (dropTransfer a0 a1 a2 a3 s).kept.2 := by
  intro a0 a1 a2 a3 s k h
  unfold dropTransfer
  repeat' first | (with_reducible assumption) | split | simp [*] | refine Good.foldl (fun _ _ _ => ?_) ?_ | refine Good.each (fun _ _ _ => ?_) ?_ | intro _

@[simp] theorem finishTransfer_good : ∀ a0 a1 s k, Good k s.kept.2 → Good k (finishTransfer a0 a1 s).kept.2 := by
  intro a0 a1 s k h
  unfold finishTransfer
  repeat' first | (with_reducible assumption) | split | simp [*] | refine Good.foldl (fun _ _ _ => ?_) ?_ | refine Good.each (fun _ _ _ => ?_) ?_ | intro _

@[simp] theorem State.dropJob_kept : ∀ s a1, (State.dropJob s a1).kept = s.kept := by
  intro s a1
  unfold State.dropJob
  repeat' first | split | simp | intro _ | rw [State.foldl_kept (fun _ _ => ?_)] | rw [State.each_kept (fun _ _ => ?_)]

@[simp] theorem execHostTransferEnd_good : ∀ a0 a1 a2 a3 s k, Good k s.kept.2 → outGood k (execHostTransferEnd a0 a1 a2 a3 s) := by
  intro a0 a1 a2 a3 s k h
  unfold execHostTransferEnd
  repeat' first | (with_reducible assumption) | split | simp [*] | refine Good.foldl (fun _ _ _ => ?_) ?_ | refine Good.each (fun _ _ _ => ?_) ?_ | intro _

@[simp] theorem execHostReadFailure_good : ∀ a0 s k, Good k s.kept.2 → outGood k (execHostReadFailure a0 s) := by
  intro a0 s k h
  unfold execHostReadFailure
  repeat' first | (with_reducible assumption) | split | simp [*] | refine Good.foldl (fun _ _ _ => ?_) ?_ | refine Good.each (fun _ _ _ => ?_) ?_ | intro _

@[simp] theorem undoJob_good : ∀ a0 a1 s k, Good k s.kept.2 → Good k (undoJob a0 a1 s).kept.2 := by
  intro a0 a1 s k h
  unfold undoJob
  repeat' first | (with_reducible assumption) | split | simp [*] | refine Good.foldl (fun _ _ _ => ?_) ?_ | refine Good.each (fun _ _ _ => ?_) ?_ | intro _

@[simp] theorem execCommandTimeout_good : ∀ a0 a1 a2 a3 s k, Good k s.kept.2 → outGood k (execCommandTimeout a0 a1 a2 a3 s) := by
  intro a0 a1 a2 a3 s k h
  unfold execCommandTimeout
  repeat' first | (with_reducible assumption) | split | simp [*] | refine Good.foldl (fun _ _ _ => ?_) ?_ | refine Good.each (fun _ _ _ => ?_) ?_ | intro _

@[simp] theorem abandonRun_kept : ∀ s a1, (abandonRun s a1).kept = s.kept := by
  intro s a1
  unfold abandonRun
  repeat' first | split | simp | intro _ | rw [State.foldl_kept (fun _ _ => ?_)] | rw [State.each_kept (fun _ _ => ?_)]

@[simp] theorem abandonJob_good : ∀ s a1 k, Good k s.kept.2 → Good k (abandonJob s a1).kept.2 := by
  intro s a1 k h
  unfold abandonJob
  repeat' first | (with_reducible assumption) | split | simp [*] | refine Good.foldl (fun _ _ _ => ?_) ?_ | refine Good.each (fun _ _ _ => ?_) ?_ | intro _

@[simp] theorem State.abandonPackets_good : ∀ s k, Good k s.kept.2 → Good k (State.abandonPackets s).kept.2 := by
  intro s k h
  unfold State.abandonPackets
  repeat' first | (with_reducible assumption) | split | simp [*] | refine Good.foldl (fun _ _ _ => ?_) ?_ | refine Good.each (fun _ _ _ => ?_) ?_ | intro _

@[simp] theorem State.enterHeld_kept : ∀ s, (State.enterHeld s).kept = s.kept := by
  intro s
  unfold State.enterHeld
  repeat' first | split | simp | intro _ | rw [State.foldl_kept (fun _ _ => ?_)] | rw [State.each_kept (fun _ _ => ?_)]

@[simp] theorem State.resumeMgmt_good : ∀ s k, Good k s.kept.2 → Good k (State.resumeMgmt s).kept.2 := by
  intro s k h
  unfold State.resumeMgmt
  repeat' first | (with_reducible assumption) | split | simp [*] | refine Good.foldl (fun _ _ _ => ?_) ?_ | refine Good.each (fun _ _ _ => ?_) ?_ | intro _

end Sys2Proof.Machine
end

