-- ==== Sys2Proof/Laws/KeepsPowerBoot.lean ====
section
/-! SUPPORT. What the operations of Machine/PowerBoot.lean keep: the order of acceptance, the queue of waiting commands and the
memories (or, where one writes memory, the canonical form); and that a command of it always completes. -/

namespace Sys2Proof.Machine

variable {s t : State}

@[simp] theorem State.holdClear_kept : ∀ s, (State.holdClear s).kept = s.kept := by
  intro s
  unfold State.holdClear
  repeat' first | split | simp | intro _ | rw [State.foldl_kept (fun _ _ => ?_)] | rw [State.each_kept (fun _ _ => ?_)]

@[simp] theorem State.freshUnits_good : ∀ s k, Good k s.kept.2 → Good k (State.freshUnits s).kept.2 := by
  intro s k h
  unfold State.freshUnits
  rw [State.holdClear_kept]
  exact ⟨h.1, fun _ => ⟨rfl, rfl⟩⟩

@[simp] theorem State.powerLost_good : ∀ s k, Good k s.kept.2 → Good k (State.powerLost s).kept.2 := by
  intro s k h
  exact ⟨h.1, fun _ => ⟨rfl, rfl⟩⟩

@[simp] theorem State.shutdown_good : ∀ s a1 a2 k, Good k s.kept.2 → Good k (State.shutdown s a1 a2).kept.2 := by
  intro s a1 a2 k h
  unfold State.shutdown
  repeat' first | (with_reducible assumption) | split | simp [*] | refine Good.foldl (fun _ _ _ => ?_) ?_ | refine Good.each (fun _ _ _ => ?_) ?_ | intro _

@[simp] theorem State.noteSupply_kept : ∀ s a1, (State.noteSupply s a1).kept = s.kept := by
  intro s a1
  unfold State.noteSupply
  repeat' first | split | simp | intro _ | rw [State.foldl_kept (fun _ _ => ?_)] | rw [State.each_kept (fun _ _ => ?_)]

@[simp] theorem execSupplyFault_good : ∀ a0 s k, Good k s.kept.2 → outGood k (execSupplyFault a0 s) := by
  intro a0 s k h
  unfold execSupplyFault
  repeat' first | (with_reducible assumption) | split | simp [*] | refine Good.foldl (fun _ _ _ => ?_) ?_ | refine Good.each (fun _ _ _ => ?_) ?_ | intro _

@[simp] theorem execOutputSwitchOpen_good : ∀ s k, Good k s.kept.2 → outGood k (execOutputSwitchOpen s) := by
  intro s k h
  unfold execOutputSwitchOpen
  repeat' first | (with_reducible assumption) | split | simp [*] | refine Good.foldl (fun _ _ _ => ?_) ?_ | refine Good.each (fun _ _ _ => ?_) ?_ | intro _

@[simp] theorem execPowerUp_kept : ∀ s, outKept (execPowerUp s) = some s.kept.2 := by
  intro s
  unfold execPowerUp
  repeat' first | split | simp | intro _ | rw [State.foldl_kept (fun _ _ => ?_)] | rw [State.each_kept (fun _ _ => ?_)]

@[simp] theorem execPwrgdRise_good : ∀ a0 s k, Good k s.kept.2 → outGood k (execPwrgdRise a0 s) := by
  intro a0 s k h
  unfold execPwrgdRise
  repeat' first | (with_reducible assumption) | split | simp [*] | refine Good.foldl (fun _ _ _ => ?_) ?_ | refine Good.each (fun _ _ _ => ?_) ?_ | intro _

@[simp] theorem execPwrgdHeldLow_good : ∀ s k, Good k s.kept.2 → outGood k (execPwrgdHeldLow s) := by
  intro s k h
  unfold execPwrgdHeldLow
  repeat' first | (with_reducible assumption) | split | simp [*] | refine Good.foldl (fun _ _ _ => ?_) ?_ | refine Good.each (fun _ _ _ => ?_) ?_ | intro _

@[simp] theorem State.setProcs_kept : ∀ s a1 a2, (State.setProcs s a1 a2).kept = s.kept := by
  intro s a1 a2
  unfold State.setProcs
  repeat' first | split | simp | intro _ | rw [State.foldl_kept (fun _ _ => ?_)] | rw [State.each_kept (fun _ _ => ?_)]

@[simp] theorem State.endAll_kept : ∀ s, (State.endAll s).kept = s.kept := by
  intro s
  unfold State.endAll
  repeat' first | split | simp | intro _ | rw [State.foldl_kept (fun _ _ => ?_)] | rw [State.each_kept (fun _ _ => ?_)]

@[simp] theorem State.rejectSchedule_kept : ∀ s, (State.rejectSchedule s).kept = s.kept := by
  intro s
  unfold State.rejectSchedule
  repeat' first | split | simp | intro _ | rw [State.foldl_kept (fun _ _ => ?_)] | rw [State.each_kept (fun _ _ => ?_)]

@[simp] theorem State.clockToBypass_kept : ∀ s, (State.clockToBypass s).kept = s.kept := by
  intro s
  unfold State.clockToBypass
  repeat' first | split | simp | intro _ | rw [State.foldl_kept (fun _ _ => ?_)] | rw [State.each_kept (fun _ _ => ?_)]

@[simp] theorem State.enterRecovery_good : ∀ s a1 k, Good k s.kept.2 → Good k (State.enterRecovery s a1).kept.2 := by
  intro s a1 k h
  unfold State.enterRecovery
  repeat' first | (with_reducible assumption) | split | simp [*] | refine Good.foldl (fun _ _ _ => ?_) ?_ | refine Good.each (fun _ _ _ => ?_) ?_ | intro _

@[simp] theorem State.rebootRecovery_good : ∀ s k, Good k s.kept.2 → Good k (State.rebootRecovery s).kept.2 := by
  intro s k h
  unfold State.rebootRecovery
  repeat' first | (with_reducible assumption) | split | simp [*] | refine Good.foldl (fun _ _ _ => ?_) ?_ | refine Good.each (fun _ _ _ => ?_) ?_ | intro _

@[simp] theorem State.setCheck_kept : ∀ s a1 a2, (State.setCheck s a1 a2).kept = s.kept := by
  intro s a1 a2
  unfold State.setCheck
  repeat' first | split | simp | intro _ | rw [State.foldl_kept (fun _ _ => ?_)] | rw [State.each_kept (fun _ _ => ?_)]

@[simp] theorem execRcvrnSample_good : ∀ a0 s k, Good k s.kept.2 → outGood k (execRcvrnSample a0 s) := by
  intro a0 s k h
  unfold execRcvrnSample
  repeat' first | (with_reducible assumption) | split | simp [*] | refine Good.foldl (fun _ _ _ => ?_) ?_ | refine Good.each (fun _ _ _ => ?_) ?_ | intro _

@[simp] theorem State.failSet_good : ∀ s a1 a2 k, Good k s.kept.2 → Good k (State.failSet s a1 a2).kept.2 := by
  intro s a1 a2 k h
  unfold State.failSet
  repeat' first | (with_reducible assumption) | split | simp [*] | refine Good.foldl (fun _ _ _ => ?_) ?_ | refine Good.each (fun _ _ _ => ?_) ?_ | intro _

@[simp] theorem State.startMgmt_good : ∀ s k, Good k s.kept.2 → Good k (State.startMgmt s).kept.2 := by
  intro s k h
  unfold State.startMgmt
  repeat' first | (with_reducible assumption) | split | simp [*] | refine Good.foldl (fun _ _ _ => ?_) ?_ | refine Good.each (fun _ _ _ => ?_) ?_ | intro _

@[simp] theorem execBootMgmtStart_good : ∀ a0 a1 s k, Good k s.kept.2 → outGood k (execBootMgmtStart a0 a1 s) := by
  intro a0 a1 s k h
  unfold execBootMgmtStart
  repeat' first | (with_reducible assumption) | split | simp [*] | refine Good.foldl (fun _ _ _ => ?_) ?_ | refine Good.each (fun _ _ _ => ?_) ?_ | intro _

@[simp] theorem State.raiseFloor_kept : ∀ s, (State.raiseFloor s).kept = s.kept := by
  intro s
  unfold State.raiseFloor
  repeat' first | split | simp | intro _ | rw [State.foldl_kept (fun _ _ => ?_)] | rw [State.each_kept (fun _ _ => ?_)]

@[simp] theorem State.logActivated_kept : ∀ s a1, (State.logActivated s a1).kept = s.kept := by
  intro s a1
  unfold State.logActivated
  repeat' first | split | simp | intro _ | rw [State.foldl_kept (fun _ _ => ?_)] | rw [State.each_kept (fun _ _ => ?_)]

@[simp] theorem State.logChoice_kept : ∀ s, (State.logChoice s).kept = s.kept := by
  intro s
  unfold State.logChoice
  repeat' first | split | simp | intro _ | rw [State.foldl_kept (fun _ _ => ?_)] | rw [State.each_kept (fun _ _ => ?_)]

@[simp] theorem State.trainMem_kept : ∀ s, (State.trainMem s).kept = s.kept := by
  intro s
  unfold State.trainMem
  repeat' first | split | simp | intro _ | rw [State.foldl_kept (fun _ _ => ?_)] | rw [State.each_kept (fun _ _ => ?_)]

@[simp] theorem State.goodSet_kept : ∀ s, (State.goodSet s).kept = s.kept := by
  intro s
  unfold State.goodSet
  repeat' first | split | simp | intro _ | rw [State.foldl_kept (fun _ _ => ?_)] | rw [State.each_kept (fun _ _ => ?_)]

@[simp] theorem markChecks_good : ∀ a0 a1 s k, Good k s.kept.2 → Good k (markChecks a0 a1 s).kept.2 := by
  intro a0 a1 s k h
  induction a0 generalizing a1 s with
  | nil => exact h
  | cons c cs ih => exact ih _ _ (by simpa using h)

@[simp] theorem execBootImagesLoaded_good : ∀ a0 a1 a2 s k, Good k s.kept.2 → outGood k (execBootImagesLoaded a0 a1 a2 s) := by
  intro a0 a1 a2 s k h
  unfold execBootImagesLoaded
  repeat' first | (with_reducible assumption) | split | simp [*] | refine Good.foldl (fun _ _ _ => ?_) ?_ | refine Good.each (fun _ _ _ => ?_) ?_ | intro _

@[simp] theorem execImageStartTimeout_good : ∀ a0 s k, Good k s.kept.2 → outGood k (execImageStartTimeout a0 s) := by
  intro a0 s k h
  unfold execImageStartTimeout
  repeat' first | (with_reducible assumption) | split | simp [*] | refine Good.foldl (fun _ _ _ => ?_) ?_ | refine Good.each (fun _ _ _ => ?_) ?_ | intro _

@[simp] theorem execWarmRestart_good : ∀ s k, Good k s.kept.2 → outGood k (execWarmRestart s) := by
  intro s k h
  unfold execWarmRestart
  repeat' first | (with_reducible assumption) | split | simp [*] | refine Good.foldl (fun _ _ _ => ?_) ?_ | refine Good.each (fun _ _ _ => ?_) ?_ | intro _

@[simp] theorem execWarmRestartEnd_good : ∀ a0 s k, Good k s.kept.2 → outGood k (execWarmRestartEnd a0 s) := by
  intro a0 s k h
  unfold execWarmRestartEnd
  repeat' first | (with_reducible assumption) | split | simp [*] | refine Good.foldl (fun _ _ _ => ?_) ?_ | refine Good.each (fun _ _ _ => ?_) ?_ | intro _

@[simp] theorem State.rcvCmd_good : ∀ s a1 a2 k, Good k s.kept.2 → Good k (State.rcvCmd s a1 a2).kept.2 := by
  intro s a1 a2 k h
  unfold State.rcvCmd
  repeat' first | (with_reducible assumption) | split | simp [*] | refine Good.foldl (fun _ _ _ => ?_) ?_ | refine Good.each (fun _ _ _ => ?_) ?_ | intro _

@[simp] theorem execFwRcvCmdWrite_good : ∀ a0 a1 s k, Good k s.kept.2 → outGood k (execFwRcvCmdWrite a0 a1 s) := by
  intro a0 a1 s k h
  unfold execFwRcvCmdWrite
  repeat' first | (with_reducible assumption) | split | simp [*] | refine Good.foldl (fun _ _ _ => ?_) ?_ | refine Good.each (fun _ _ _ => ?_) ?_ | intro _

@[simp] theorem execFwRcvCmdReboot_good : ∀ a0 s k, Good k s.kept.2 → outGood k (execFwRcvCmdReboot a0 s) := by
  intro a0 s k h
  unfold execFwRcvCmdReboot
  repeat' first | (with_reducible assumption) | split | simp [*] | refine Good.foldl (fun _ _ _ => ?_) ?_ | refine Good.each (fun _ _ _ => ?_) ?_ | intro _

end Sys2Proof.Machine
end

