-- ==== Sys2Proof/Laws/KeepsUartSmb.lean ====
section
/-! SUPPORT. What the operations of Machine/UartSmb.lean keep: the order of acceptance, the queue of waiting commands and the
memories (or, where one writes memory, the canonical form); and that a command of it always completes. -/

namespace Sys2Proof.Machine

variable {s t : State}

@[simp] theorem State.uartReply_kept : ∀ s a1 a2 a3, (State.uartReply s a1 a2 a3).kept = s.kept := by
  intro s a1 a2 a3
  unfold State.uartReply
  repeat' first | split | simp | intro _ | rw [State.foldl_kept (fun _ _ => ?_)] | rw [State.each_kept (fun _ _ => ?_)]

@[simp] theorem execUartPing_kept : ∀ a0 s, outKept (execUartPing a0 s) = some s.kept.2 := by
  intro a0 s
  unfold execUartPing
  repeat' first | split | simp | intro _ | rw [State.foldl_kept (fun _ _ => ?_)] | rw [State.each_kept (fun _ _ => ?_)]

@[simp] theorem execUartWrite_kept : ∀ a0 a1 a2 a3 s, outKept (execUartWrite a0 a1 a2 a3 s) = some s.kept.2 := by
  intro a0 a1 a2 a3 s
  unfold execUartWrite
  repeat' first | split | simp | intro _ | rw [State.foldl_kept (fun _ _ => ?_)] | rw [State.each_kept (fun _ _ => ?_)]

@[simp] theorem execUartStatus_kept : ∀ s, outKept (execUartStatus s) = some s.kept.2 := by
  intro s
  unfold execUartStatus
  repeat' first | split | simp | intro _ | rw [State.foldl_kept (fun _ _ => ?_)] | rw [State.each_kept (fun _ _ => ?_)]

@[simp] theorem execUartReboot_good : ∀ s k, Good k s.kept.2 → outGood k (execUartReboot s) := by
  intro s k h
  unfold execUartReboot
  repeat' first | (with_reducible assumption) | split | simp [*] | refine Good.foldl (fun _ _ _ => ?_) ?_ | refine Good.each (fun _ _ _ => ?_) ?_ | intro _

@[simp] theorem execUartLog_kept : ∀ a0 a1 s, outKept (execUartLog a0 a1 s) = some s.kept.2 := by
  intro a0 a1 s
  unfold execUartLog
  repeat' first | split | simp | intro _ | rw [State.foldl_kept (fun _ _ => ?_)] | rw [State.each_kept (fun _ _ => ?_)]

@[simp] theorem execUartFrameDiscard_kept : ∀ s, outKept (execUartFrameDiscard s) = some s.kept.2 := by
  intro s
  unfold execUartFrameDiscard
  repeat' first | split | simp | intro _ | rw [State.foldl_kept (fun _ _ => ?_)] | rw [State.each_kept (fun _ _ => ?_)]

@[simp] theorem execUartBadFrame_kept : ∀ a0 a1 s, outKept (execUartBadFrame a0 a1 s) = some s.kept.2 := by
  intro a0 a1 s
  unfold execUartBadFrame
  repeat' first | split | simp | intro _ | rw [State.foldl_kept (fun _ _ => ?_)] | rw [State.each_kept (fun _ _ => ?_)]

@[simp] theorem State.smbSend_kept : ∀ s a1 a2, (State.smbSend s a1 a2).kept = s.kept := by
  intro s a1 a2
  unfold State.smbSend
  repeat' first | split | simp | intro _ | rw [State.foldl_kept (fun _ _ => ?_)] | rw [State.each_kept (fun _ _ => ?_)]

@[simp] theorem State.clearLatched_kept : ∀ s, (State.clearLatched s).kept = s.kept := by
  intro s
  unfold State.clearLatched
  repeat' first | split | simp | intro _

@[simp] theorem execClearFaults_kept : ∀ s, outKept (execClearFaults s) = some s.kept.2 := by
  intro s
  unfold execClearFaults
  repeat' first | split | simp | intro _ | rw [State.foldl_kept (fun _ _ => ?_)] | rw [State.each_kept (fun _ _ => ?_)]

@[simp] theorem execCapability_kept : ∀ s, outKept (execCapability s) = some s.kept.2 := by
  intro s
  unfold execCapability
  repeat' first | split | simp | intro _ | rw [State.foldl_kept (fun _ _ => ?_)] | rw [State.each_kept (fun _ _ => ?_)]

@[simp] theorem execStatusByte_kept : ∀ s, outKept (execStatusByte s) = some s.kept.2 := by
  intro s
  unfold execStatusByte
  repeat' first | split | simp | intro _ | rw [State.foldl_kept (fun _ _ => ?_)] | rw [State.each_kept (fun _ _ => ?_)]

@[simp] theorem execStatusWord_kept : ∀ s, outKept (execStatusWord s) = some s.kept.2 := by
  intro s
  unfold execStatusWord
  repeat' first | split | simp | intro _ | rw [State.foldl_kept (fun _ _ => ?_)] | rw [State.each_kept (fun _ _ => ?_)]

@[simp] theorem execStatusInput_kept : ∀ s, outKept (execStatusInput s) = some s.kept.2 := by
  intro s
  unfold execStatusInput
  repeat' first | split | simp | intro _ | rw [State.foldl_kept (fun _ _ => ?_)] | rw [State.each_kept (fun _ _ => ?_)]

@[simp] theorem execStatusTemperature_kept : ∀ s, outKept (execStatusTemperature s) = some s.kept.2 := by
  intro s
  unfold execStatusTemperature
  repeat' first | split | simp | intro _ | rw [State.foldl_kept (fun _ _ => ?_)] | rw [State.each_kept (fun _ _ => ?_)]

@[simp] theorem execStatusCml_kept : ∀ s, outKept (execStatusCml s) = some s.kept.2 := by
  intro s
  unfold execStatusCml
  repeat' first | split | simp | intro _ | rw [State.foldl_kept (fun _ _ => ?_)] | rw [State.each_kept (fun _ _ => ?_)]

@[simp] theorem State.smbRefuse_kept : ∀ s, (State.smbRefuse s).kept = s.kept := by
  intro s
  unfold State.smbRefuse
  repeat' first | split | simp | intro _ | rw [State.foldl_kept (fun _ _ => ?_)] | rw [State.each_kept (fun _ _ => ?_)]

@[simp] theorem execReadVin_kept : ∀ s, outKept (execReadVin s) = some s.kept.2 := by
  intro s
  unfold execReadVin
  repeat' first | split | simp | intro _ | rw [State.foldl_kept (fun _ _ => ?_)] | rw [State.each_kept (fun _ _ => ?_)]

@[simp] theorem execReadIin_kept : ∀ s, outKept (execReadIin s) = some s.kept.2 := by
  intro s
  unfold execReadIin
  repeat' first | split | simp | intro _ | rw [State.foldl_kept (fun _ _ => ?_)] | rw [State.each_kept (fun _ _ => ?_)]

@[simp] theorem execReadPin_kept : ∀ s, outKept (execReadPin s) = some s.kept.2 := by
  intro s
  unfold execReadPin
  repeat' first | split | simp | intro _ | rw [State.foldl_kept (fun _ _ => ?_)] | rw [State.each_kept (fun _ _ => ?_)]

@[simp] theorem execReadTemperature1_kept : ∀ s, outKept (execReadTemperature1 s) = some s.kept.2 := by
  intro s
  unfold execReadTemperature1
  repeat' first | split | simp | intro _ | rw [State.foldl_kept (fun _ _ => ?_)] | rw [State.each_kept (fun _ _ => ?_)]

@[simp] theorem execReadTemperature2_kept : ∀ s, outKept (execReadTemperature2 s) = some s.kept.2 := by
  intro s
  unfold execReadTemperature2
  repeat' first | split | simp | intro _ | rw [State.foldl_kept (fun _ _ => ?_)] | rw [State.each_kept (fun _ _ => ?_)]

@[simp] theorem execReadTemperature3_kept : ∀ s, outKept (execReadTemperature3 s) = some s.kept.2 := by
  intro s
  unfold execReadTemperature3
  repeat' first | split | simp | intro _ | rw [State.foldl_kept (fun _ _ => ?_)] | rw [State.each_kept (fun _ _ => ?_)]

@[simp] theorem execPmbusRevision_kept : ∀ s, outKept (execPmbusRevision s) = some s.kept.2 := by
  intro s
  unfold execPmbusRevision
  repeat' first | split | simp | intro _ | rw [State.foldl_kept (fun _ _ => ?_)] | rw [State.each_kept (fun _ _ => ?_)]

@[simp] theorem execMfrId_kept : ∀ s, outKept (execMfrId s) = some s.kept.2 := by
  intro s
  unfold execMfrId
  repeat' first | split | simp | intro _ | rw [State.foldl_kept (fun _ _ => ?_)] | rw [State.each_kept (fun _ _ => ?_)]

@[simp] theorem execMfrModel_kept : ∀ s, outKept (execMfrModel s) = some s.kept.2 := by
  intro s
  unfold execMfrModel
  repeat' first | split | simp | intro _ | rw [State.foldl_kept (fun _ _ => ?_)] | rw [State.each_kept (fun _ _ => ?_)]

@[simp] theorem execMfrRevision_kept : ∀ s, outKept (execMfrRevision s) = some s.kept.2 := by
  intro s
  unfold execMfrRevision
  repeat' first | split | simp | intro _ | rw [State.foldl_kept (fun _ _ => ?_)] | rw [State.each_kept (fun _ _ => ?_)]

@[simp] theorem execMfrSerial_kept : ∀ s, outKept (execMfrSerial s) = some s.kept.2 := by
  intro s
  unfold execMfrSerial
  repeat' first | split | simp | intro _ | rw [State.foldl_kept (fun _ _ => ?_)] | rw [State.each_kept (fun _ _ => ?_)]

@[simp] theorem execSmbReadingRefresh_kept : ∀ a0 s, outKept (execSmbReadingRefresh a0 s) = some s.kept.2 := by
  intro a0 s
  unfold execSmbReadingRefresh
  repeat' first | split | simp | intro _ | rw [State.foldl_kept (fun _ _ => ?_)] | rw [State.each_kept (fun _ _ => ?_)]

@[simp] theorem execSmbOtherCommand_kept : ∀ a0 a1 s, outKept (execSmbOtherCommand a0 a1 s) = some s.kept.2 := by
  intro a0 a1 s
  unfold execSmbOtherCommand
  repeat' first | split | simp | intro _ | rw [State.foldl_kept (fun _ _ => ?_)] | rw [State.each_kept (fun _ _ => ?_)]

end Sys2Proof.Machine
end

