-- ==== Sys2Proof/Laws/KeepsHostIf.lean ====
section
/-! SUPPORT. What the operations of Machine/HostIf.lean keep: the order of acceptance, the queue of waiting commands and the
memories (or, where one writes memory, the canonical form); and that a command of it always completes. -/

namespace Sys2Proof.Machine

variable {s t : State}

@[simp] theorem State.writeSys_kept : ∀ s a1 a2, (State.writeSys s a1 a2).kept = s.kept := by
  intro s a1 a2
  unfold State.writeSys
  repeat' first | split | simp | intro _ | rw [State.foldl_kept (fun _ _ => ?_)] | rw [State.each_kept (fun _ _ => ?_)]

@[simp] theorem State.writeEvt_kept : ∀ s a1 a2, (State.writeEvt s a1 a2).kept = s.kept := by
  intro s a1 a2
  unfold State.writeEvt
  repeat' first | split | simp | intro _ | rw [State.foldl_kept (fun _ _ => ?_)] | rw [State.each_kept (fun _ _ => ?_)]

@[simp] theorem State.writeWall_kept : ∀ s a1 a2, (State.writeWall s a1 a2).kept = s.kept := by
  intro s a1 a2
  unfold State.writeWall
  repeat' first | split | simp | intro _ | rw [State.foldl_kept (fun _ _ => ?_)] | rw [State.each_kept (fun _ _ => ?_)]

@[simp] theorem State.writeBlock_kept : ∀ s a1 a2 a3, (State.writeBlock s a1 a2 a3).kept = s.kept := by
  intro s a1 a2 a3
  unfold State.writeBlock
  repeat' first | split | simp | intro _ | rw [State.foldl_kept (fun _ _ => ?_)] | rw [State.each_kept (fun _ _ => ?_)]

@[simp] theorem State.writeFnWin_kept : ∀ s a1 a2 a3, (State.writeFnWin s a1 a2 a3).kept = s.kept := by
  intro s a1 a2 a3
  unfold State.writeFnWin
  repeat' first | split | simp | intro _ | rw [State.foldl_kept (fun _ _ => ?_)] | rw [State.each_kept (fun _ _ => ?_)]

@[simp] theorem State.writeRcv_good : ∀ s a1 a2 k, Good k s.kept.2 → Good k (State.writeRcv s a1 a2).kept.2 := by
  intro s a1 a2 k h
  unfold State.writeRcv
  repeat' first | (with_reducible assumption) | split | simp [*] | refine Good.foldl (fun _ _ _ => ?_) ?_ | refine Good.each (fun _ _ _ => ?_) ?_ | intro _

@[simp] theorem State.writeBar_good : ∀ s a1 a2 a3 k, Good k s.kept.2 → Good k (State.writeBar s a1 a2 a3).kept.2 := by
  intro s a1 a2 a3 k h
  unfold State.writeBar
  repeat' first | (with_reducible assumption) | split | simp [*] | refine Good.foldl (fun _ _ _ => ?_) ?_ | refine Good.each (fun _ _ _ => ?_) ?_ | intro _

@[simp] theorem State.writeMsix_kept : ∀ s a1 a2 a3, (State.writeMsix s a1 a2 a3).kept = s.kept := by
  intro s a1 a2 a3
  unfold State.writeMsix
  repeat' first | split | simp | intro _ | rw [State.foldl_kept (fun _ _ => ?_)] | rw [State.each_kept (fun _ _ => ?_)]

@[simp] theorem execRegisterWrite_good : ∀ a0 a1 a2 a3 a4 s k, Good k s.kept.2 → outGood k (execRegisterWrite a0 a1 a2 a3 a4 s) := by
  intro a0 a1 a2 a3 a4 s k h
  unfold execRegisterWrite
  repeat' first | (with_reducible assumption) | split | simp [*] | refine Good.foldl (fun _ _ _ => ?_) ?_ | refine Good.each (fun _ _ _ => ?_) ?_ | intro _

@[simp] theorem State.flrFn_kept : ∀ s a1, (State.flrFn s a1).kept = s.kept := by
  intro s a1
  unfold State.flrFn
  repeat' first | split | simp | intro _ | rw [State.foldl_kept (fun _ _ => ?_)] | rw [State.each_kept (fun _ _ => ?_)]

@[simp] theorem State.countFlr_kept : ∀ s, (State.countFlr s).kept = s.kept := by
  intro s
  unfold State.countFlr
  repeat' first | split | simp | intro _ | rw [State.foldl_kept (fun _ _ => ?_)] | rw [State.each_kept (fun _ _ => ?_)]

@[simp] theorem State.dropVfs_kept : ∀ s, (State.dropVfs s).kept = s.kept := by
  intro s
  unfold State.dropVfs
  repeat' first | split | simp | intro _ | rw [State.foldl_kept (fun _ _ => ?_)] | rw [State.each_kept (fun _ _ => ?_)]

@[simp] theorem State.dropPf0_kept : ∀ s, (State.dropPf0 s).kept = s.kept := by
  intro s
  unfold State.dropPf0
  repeat' first | split | simp | intro _ | rw [State.foldl_kept (fun _ _ => ?_)] | rw [State.each_kept (fun _ _ => ?_)]

@[simp] theorem State.flr0_kept : ∀ s, (State.flr0 s).kept = s.kept := by
  intro s
  unfold State.flr0
  repeat' first | split | simp | intro _ | rw [State.foldl_kept (fun _ _ => ?_)] | rw [State.each_kept (fun _ _ => ?_)]

@[simp] theorem execFlrVf_kept : ∀ a0 s, outKept (execFlrVf a0 s) = some s.kept.2 := by
  intro a0 s
  unfold execFlrVf
  repeat' first | split | simp | intro _ | rw [State.foldl_kept (fun _ _ => ?_)] | rw [State.each_kept (fun _ _ => ?_)]

@[simp] theorem execD3hotToD0_kept : ∀ a0 s, outKept (execD3hotToD0 a0 s) = some s.kept.2 := by
  intro a0 s
  unfold execD3hotToD0
  repeat' first | split | simp | intro _ | rw [State.foldl_kept (fun _ _ => ?_)] | rw [State.each_kept (fun _ _ => ?_)]

@[simp] theorem execFlrPf0_kept : ∀ s, outKept (execFlrPf0 s) = some s.kept.2 := by
  intro s
  unfold execFlrPf0
  repeat' first | split | simp | intro _ | rw [State.foldl_kept (fun _ _ => ?_)] | rw [State.each_kept (fun _ _ => ?_)]

@[simp] theorem State.writeSriov_kept : ∀ s a1 a2 a3, (State.writeSriov s a1 a2 a3).kept = s.kept := by
  intro s a1 a2 a3
  unfold State.writeSriov
  repeat' first | split | simp | intro _ | rw [State.foldl_kept (fun _ _ => ?_)] | rw [State.each_kept (fun _ _ => ?_)]

@[simp] theorem State.cfgWrite_kept : ∀ s a1 a2, (State.cfgWrite s a1 a2).kept = s.kept := by
  intro s a1 a2
  unfold State.cfgWrite
  repeat' first | split | simp | intro _ | rw [State.foldl_kept (fun _ _ => ?_)] | rw [State.each_kept (fun _ _ => ?_)]

@[simp] theorem execConfigurationRequest_kept : ∀ a0 a1 s, outKept (execConfigurationRequest a0 a1 s) = some s.kept.2 := by
  intro a0 a1 s
  unfold execConfigurationRequest
  repeat' first | split | simp | intro _ | rw [State.foldl_kept (fun _ _ => ?_)] | rw [State.each_kept (fun _ _ => ?_)]

@[simp] theorem execLinkTraining_kept : ∀ a0 a1 s, outKept (execLinkTraining a0 a1 s) = some s.kept.2 := by
  intro a0 a1 s
  unfold execLinkTraining
  repeat' first | split | simp | intro _ | rw [State.foldl_kept (fun _ _ => ?_)] | rw [State.each_kept (fun _ _ => ?_)]

@[simp] theorem State.disableRings_kept : ∀ s, (State.disableRings s).kept = s.kept := by
  intro s
  unfold State.disableRings
  repeat' first | split | simp | intro _ | rw [State.foldl_kept (fun _ _ => ?_)] | rw [State.each_kept (fun _ _ => ?_)]

@[simp] theorem execLinkEvent_kept : ∀ a0 s, outKept (execLinkEvent a0 s) = some s.kept.2 := by
  intro a0 s
  unfold execLinkEvent
  repeat' first | split | simp | intro _ | rw [State.foldl_kept (fun _ _ => ?_)] | rw [State.each_kept (fun _ _ => ?_)]

end Sys2Proof.Machine
end

