-- ==== Sys2Proof/Laws/KeepsThermal.lean ====
section
/-! SUPPORT. What the operations of Machine/Thermal.lean keep: the order of acceptance, the queue of waiting commands and the
memories (or, where one writes memory, the canonical form); and that a command of it always completes. -/

namespace Sys2Proof.Machine

variable {s t : State}

@[simp] theorem State.restartProc_kept : ∀ s a1, (State.restartProc s a1).kept = s.kept := by
  intro s a1
  unfold State.restartProc
  repeat' first | split | simp | intro _ | rw [State.foldl_kept (fun _ _ => ?_)] | rw [State.each_kept (fun _ _ => ?_)]

@[simp] theorem State.holdProc_kept : ∀ s a1, (State.holdProc s a1).kept = s.kept := by
  intro s a1
  unfold State.holdProc
  repeat' first | split | simp | intro _ | rw [State.foldl_kept (fun _ _ => ?_)] | rw [State.each_kept (fun _ _ => ?_)]

@[simp] theorem execMgmtWatchdog_good : ∀ s k, Good k s.kept.2 → outGood k (execMgmtWatchdog s) := by
  intro s k h
  unfold execMgmtWatchdog
  repeat' first | (with_reducible assumption) | split | simp [*] | refine Good.foldl (fun _ _ _ => ?_) ?_ | refine Good.each (fun _ _ _ => ?_) ?_ | intro _

@[simp] theorem execProcHeartbeatLoss_kept : ∀ a0 s, outKept (execProcHeartbeatLoss a0 s) = some s.kept.2 := by
  intro a0 s
  unfold execProcHeartbeatLoss
  repeat' first | split | simp | intro _ | rw [State.foldl_kept (fun _ _ => ?_)] | rw [State.each_kept (fun _ _ => ?_)]

@[simp] theorem State.tellHolders_kept : ∀ s a1 a2 a3, (State.tellHolders s a1 a2 a3).kept = s.kept := by
  intro s a1 a2 a3
  unfold State.tellHolders
  repeat' first | split | simp | intro _ | rw [State.foldl_kept (fun _ _ => ?_)] | rw [State.each_kept (fun _ _ => ?_)]

@[simp] theorem execCtrlWatchdog_kept : ∀ a0 s, outKept (execCtrlWatchdog a0 s) = some s.kept.2 := by
  intro a0 s
  unfold execCtrlWatchdog
  repeat' first | split | simp | intro _ | rw [State.foldl_kept (fun _ _ => ?_)] | rw [State.each_kept (fun _ _ => ?_)]

@[simp] theorem execProcessorRestartEnd_good : ∀ a0 s k, Good k s.kept.2 → outGood k (execProcessorRestartEnd a0 s) := by
  intro a0 s k h
  unfold execProcessorRestartEnd
  repeat' first | (with_reducible assumption) | split | simp [*] | refine Good.foldl (fun _ _ _ => ?_) ?_ | refine Good.each (fun _ _ _ => ?_) ?_ | intro _

@[simp] theorem State.tmpEvent_kept : ∀ s a1, (State.tmpEvent s a1).kept = s.kept := by
  intro s a1
  unfold State.tmpEvent
  repeat' first | split | simp | intro _ | rw [State.foldl_kept (fun _ _ => ?_)] | rw [State.each_kept (fun _ _ => ?_)]

@[simp] theorem State.enterLevel_kept : ∀ s a1 a2 a3, (State.enterLevel s a1 a2 a3).kept = s.kept := by
  intro s a1 a2 a3
  unfold State.enterLevel
  repeat' first | split | simp | intro _ | rw [State.foldl_kept (fun _ _ => ?_)] | rw [State.each_kept (fun _ _ => ?_)]

@[simp] theorem execTempLevelChange_good : ∀ a0 a1 a2 s k, Good k s.kept.2 → outGood k (execTempLevelChange a0 a1 a2 s) := by
  intro a0 a1 a2 s k h
  unfold execTempLevelChange
  repeat' first | (with_reducible assumption) | split | simp [*] | refine Good.foldl (fun _ _ _ => ?_) ?_ | refine Good.each (fun _ _ _ => ?_) ?_ | intro _

@[simp] theorem execTempTrip_good : ∀ a0 s k, Good k s.kept.2 → outGood k (execTempTrip a0 s) := by
  intro a0 s k h
  unfold execTempTrip
  repeat' first | (with_reducible assumption) | split | simp [*] | refine Good.foldl (fun _ _ _ => ?_) ?_ | refine Good.each (fun _ _ _ => ?_) ?_ | intro _

@[simp] theorem execColdplateHigh_kept : ∀ a0 a1 s, outKept (execColdplateHigh a0 a1 s) = some s.kept.2 := by
  intro a0 a1 s
  unfold execColdplateHigh
  repeat' first | split | simp | intro _ | rw [State.foldl_kept (fun _ _ => ?_)] | rw [State.each_kept (fun _ _ => ?_)]

end Sys2Proof.Machine
end

