-- ==== Sys2Proof/Laws/Ops.lean ====
section
/-! SUPPORT. Once for each shared operation: what it leaves unchanged. A reading π of the state that every step of a run keeps,
the run keeps. -/
namespace Sys2Proof.Machine

variable {s : State}

/-- A run of steps that each keep a reading keeps it. -/
theorem State.foldl_keeps {α β : Type} (π : State → β) {f : State → α → State} {l : List α} (h : ∀ s a, π (f s a) = π s) :
    π (l.foldl f s) = π s := by
  induction l generalizing s with
  | nil => rfl
  | cons a l ih => rw [List.foldl_cons, ih, h]

theorem State.each_keeps {β : Type} (π : State → β) {f : Nat → State → State} {l : List Nat} (h : ∀ k s, π (f k s) = π s) :
    π (s.each l f) = π s := by
  induction l generalizing s with
  | nil => rfl
  | cons a l ih => rw [State.each, ih, h]

/-! ### Faults: a record, its counts, its notices and its event -/

variable {t u : State}

@[refl] theorem State.FaultOnly.refl (s : State) : s.FaultOnly s :=
  ⟨rfl, fun _ => rfl, fun _ => rfl, fun _ _ => rfl, rfl, fun _ => rfl, List.prefix_refl _⟩

theorem State.FaultOnly.trans (h : s.FaultOnly t) (k : t.FaultOnly u) : s.FaultOnly u :=
  ⟨k.calm.trans h.calm, fun c => (k.ctx c).trans (h.ctx c), fun f => (k.fn f).trans (h.fn f),
    fun f r => (k.cq f r).trans (h.cq f r), k.sys.trans h.sys, fun c => (k.ev c).trans (h.ev c), h.regs.trans k.regs⟩

/-- What a fault may not touch reads as before. -/
theorem State.FaultOnly.read {β : Type} (h : s.FaultOnly t) (π : State → β) (hp : ∀ x, π x.calm = π x := by intro; rfl) :
    π t = π s := by rw [← hp t, h.calm, hp s]

/-- A run of steps that each raise faults only raises faults only. -/
theorem State.FaultOnly.each {f : Nat → State → State} {l : List Nat} (h : ∀ k s, State.FaultOnly s (f k s)) :
    s.FaultOnly (s.each l f) := by
  induction l generalizing s with
  | nil => exact .refl _
  | cons a l ih => exact (h a s).trans ih

/-- An update of one place that a reading does not see. -/
theorem ite_read {α β : Type} {g : α → α} {π : α → β} {x k : Nat} {F : Nat → α} (h : ∀ a, π (g a) = π a) :
    π (if x = k then g (F k) else F x) = π (F x) := by
  split
  · subst x; exact h _
  · rfl

theorem State.updEv_faultOnly {k} {g : EvCh → EvCh} (h : ∀ e, (g e).uncounted = e.uncounted) : s.FaultOnly (s.updEv k g) :=
  ⟨rfl, fun _ => rfl, fun _ => rfl, fun _ _ => rfl, rfl, fun x => by rw [State.updEv_ev]; exact ite_read h, List.prefix_refl _⟩

theorem State.regsOnly {l} : s.FaultOnly { s with regs := s.regs ++ l } :=
  ⟨rfl, fun _ => rfl, fun _ => rfl, fun _ _ => rfl, rfl, fun _ => rfl, List.prefix_append _ _⟩

theorem State.register_faultOnly {k n st} : s.FaultOnly (s.register k n st) := by
  unfold State.register
  split
  · exact State.updEv_faultOnly fun _ => rfl
  · exact (State.updEv_faultOnly fun _ => by rfl).trans State.regsOnly

theorem State.fireSrc_faultOnly {p n} : s.FaultOnly (s.fireSrc p n) := .each fun _ _ => State.register_faultOnly

theorem State.updFn_faultOnly {f} {g : FnWin → FnWin} (h : ∀ w, (g w).unnoticed = w.unnoticed)
    (hc : ∀ w (r : Nat), ((g w).cqr r).unmissed = (w.cqr r).unmissed) : s.FaultOnly (s.updFn f g) :=
  ⟨rfl, fun _ => rfl, fun x => by rw [State.updFn_fnWin]; exact ite_read h,
    fun x r => by rw [State.updFn_fnWin]; exact ite_read (π := fun w => (w.cqr r).unmissed) fun w => hc w r,
    rfl, fun _ => rfl, List.prefix_refl _⟩

theorem State.updCtx_faultOnly {c} {g : Ctx → Ctx} (h : ∀ k, (g k).unfaulted = k.unfaulted) : s.FaultOnly (s.updCtx c g) :=
  ⟨rfl, fun x => by rw [State.updCtx_ctx]; exact ite_read h, fun _ => rfl, fun _ _ => rfl, rfl, fun _ => rfl, List.prefix_refl _⟩

theorem State.updCq_faultOnly {f r} {g : CplRing → CplRing} (h : ∀ q, (g q).unmissed = q.unmissed) :
    s.FaultOnly (s.updCq f r g) :=
  State.updFn_faultOnly (fun _ => rfl) fun w _ =>
    (congrArg CplRing.unmissed Tbl.get_set).trans (ite_read (F := w.cqr) (π := CplRing.unmissed) h)

theorem State.irq_faultOnly : s.FaultOnly (s.updSys fun y => { y with irqFault := true }) :=
  ⟨rfl, fun _ => rfl, fun _ => rfl, fun _ _ => rfl, rfl, fun _ => rfl, List.prefix_refl _⟩

theorem State.notice_faultOnly {i r f} : s.FaultOnly (s.notice i r f) := by
  unfold State.notice
  extract_lets s1
  have h1 : s.FaultOnly s1 := by
    unfold s1; split
    · exact State.irq_faultOnly
    · exact .refl _
  repeat' split
  · exact h1
  · exact h1.trans (State.updFn_faultOnly (fun _ => rfl) fun _ _ => rfl)
  · exact h1.trans (State.updCq_faultOnly fun _ => rfl)

/-- A log is changed by nothing else than entering a record. -/
theorem State.logOnly {l} : s.FaultOnly { s with log := l } :=
  ⟨rfl, fun _ => rfl, fun _ => rfl, fun _ _ => rfl, rfl, fun _ => rfl, List.prefix_refl _⟩

theorem State.enterRec_faultOnly {r} : s.FaultOnly (s.enterRec r) := by
  unfold State.enterRec
  extract_lets idx r' g log s1 s2 s3
  have h1 : s.FaultOnly s1 := State.logOnly
  have h2 : s1.FaultOnly s2 := State.updCtx_faultOnly fun x => by split <;> rfl
  have h3 : s.FaultOnly s3 := by
    unfold s3; split
    · exact h1
    · exact (h1.trans h2).trans State.fireSrc_faultOnly
  split
  · exact h3
  · exact h3.trans (.each fun _ _ => State.notice_faultOnly)

/-- Records that change places change the log, and what names them. -/
theorem State.swapRecs_faultOnly {p i} : s.FaultOnly (s.swapRecs p i) := by
  unfold State.swapRecs
  extract_lets log a b near recs s1 s2 s3
  have h1 : s.FaultOnly s1 := State.logOnly
  have h2 : s1.FaultOnly s2 := by unfold s2; split; exacts [.refl _, State.updCtx_faultOnly fun _ => rfl]
  have h3 : s.FaultOnly s3 := by
    unfold s3; split
    · exact h1
    · split
      · exact h1.trans h2
      · exact (h1.trans h2).trans (State.updCtx_faultOnly fun _ => rfl)
  exact h3.trans (.each fun _ _ => State.updFn_faultOnly (fun _ => rfl) fun _ _ => rfl)

theorem State.settleRec_faultOnly {n i} : s.FaultOnly (s.settleRec i n) := by
  induction n generalizing s i with
  | zero => exact .refl _
  | succ n ih => unfold State.settleRec; extract_lets p; split; exacts [State.swapRecs_faultOnly.trans ih, .refl _]

theorem State.takeRec_faultOnly {r} : s.FaultOnly (s.takeRec r) :=
  (State.logOnly.trans State.enterRec_faultOnly).trans State.settleRec_faultOnly

theorem State.logRec_faultOnly {r} : s.FaultOnly (s.logRec r) := by
  unfold State.logRec
  split
  · exact State.takeRec_faultOnly
  · split <;> exact State.logOnly

/-- A fault changes the log, the counts of its context, its notices and the events it fires, and nothing else. -/
theorem State.fault_faultOnly {code rung on ctx unit d} : s.FaultOnly (s.fault code rung on ctx unit d) := State.logRec_faultOnly
theorem State.faultAt_faultOnly {code rung on ctx unit n d} : s.FaultOnly (s.faultAt code rung on ctx unit n d) :=
  State.logRec_faultOnly

/-- The completion a packet gets is the same after faults. -/
theorem State.FaultOnly.finalOf {op p} (h : s.FaultOnly t) (st res) : finalOf op p st res t = Machine.finalOf op p st res s := by
  have h1 : (t.fnWin p.fn).rings = (s.fnWin p.fn).rings :=
    have e := h.fn p.fn
    (congrArg FnWin.rings e : (t.fnWin p.fn).unnoticed.rings = (s.fnWin p.fn).unnoticed.rings)
  have h2 : t.tb = s.tb := h.read State.tb
  have h3 : t.seq = s.seq := h.read State.seq
  simp [Machine.finalOf, FnWin.ring, h1, h2, h3]

/-! ### The record itself -/

theorem State.register_log {k n st} : (s.register k n st).log = s.log := by
  unfold State.register; split <;> rfl
theorem State.fireSrc_log {p n} : (s.fireSrc p n).log = s.log := State.each_keeps State.log fun _ _ => State.register_log
theorem State.notice_log {i r f} : (s.notice i r f).log = s.log := by
  unfold State.notice; extract_lets s1
  have : s1.log = s.log := by unfold s1; split <;> rfl
  repeat' split
  all_goals exact this

/-- The log after one more record. -/
theorem State.enterRec_log {r : FaultRec} : (s.enterRec r).log = { s.log with
    recs := Tbl.set {} s.log.recs s.log.next { r with seq := s.log.seq }
    next := (s.log.next + 1) % 4096
    wrapped := s.log.wrapped || decide (s.log.next = 4095)
    seq := s.log.seq + 1
    groups := Tbl.set 0 s.log.groups (r.code.toNat / 256) (sat (2 ^ 32 - 1) (Tbl.get 0 s.log.groups (r.code.toNat / 256) + 1))
    rungs := Tbl.set 0 s.log.rungs r.rung (sat (2 ^ 32 - 1) (Tbl.get 0 s.log.rungs r.rung + 1)) } := by
  unfold State.enterRec
  extract_lets idx r' g log s1 s2 s3
  have h3 : s3.log = s1.log := by
    unfold s3; split
    · rfl
    · exact State.fireSrc_log
  split
  · exact h3
  · exact (State.each_keeps State.log fun _ _ => State.notice_log).trans h3

/-- The log takes exactly one record. -/
theorem State.enterRec_enters {r} : s.Enters (s.enterRec r) r := by
  refine ⟨?_, ?_, ?_⟩ <;> rw [State.enterRec_log]
  exact Tbl.get_set_self

/-- A record that none of its lane cycle comes after stays where it was entered. -/
theorem State.takeRec_enters {r} (h : s.InOrder r) : s.Enters (s.takeRec r) r := by
  unfold State.takeRec
  extract_lets n l s1
  have hs : (s1.enterRec r).settleRec s1.log.next n = s1.enterRec r := by
    cases hn : n with
    | zero => rfl
    | succ m =>
      have hb : s.log.burstAt = s.lc := by by_contra hb; simp [n, hb] at hn
      have hne : (s.log.next + 4095) % 4096 ≠ s.log.next := by omega
      have hl : (s1.enterRec r).log.recs = Tbl.set {} s.log.recs s.log.next { r with seq := s.log.seq } := by
        rw [State.enterRec_log]
      unfold State.settleRec
      rw [if_neg]
      change ¬ ((Tbl.get {} (s1.enterRec r).log.recs s.log.next).before (Tbl.get {} (s1.enterRec r).log.recs ((s.log.next + 4095) % 4096)) = true)
      rw [hl, Tbl.get_set_self, Tbl.get_set_ne hne]
      rcases h hb with h | h
      · simp [n, hb, h] at hn
      · simpa [FaultRec.before] using h
  rw [hs]
  exact State.enterRec_enters (s := s1)

/-- While the management processor runs, a fault enters its one record. -/
theorem State.faultAt_enters {code rung on ctx unit n d} (h : s.mgmtUp = true) (ho : s.InOrder (s.mkRec code rung on ctx unit n d)) :
    s.Enters (s.faultAt code rung on ctx unit n d) (s.mkRec code rung on ctx unit n d) := by
  unfold State.faultAt State.logRec; rw [if_pos h]; exact State.takeRec_enters ho
theorem State.fault_enters {code rung on ctx unit d} (h : s.mgmtUp = true) (ho : s.InOrder (s.mkRec code rung on ctx unit s.tb d)) :
    s.Enters (s.fault code rung on ctx unit d) (s.mkRec code rung on ctx unit s.tb d) := State.faultAt_enters h ho

theorem State.fault_calm {code rung on ctx unit d} : (s.fault code rung on ctx unit d).calm = s.calm := State.fault_faultOnly.calm

/-! ### Frames of shared operations -/

/-- Packets in execution complete: they leave the jobs, each with one final completion, in order. -/
theorem State.foldl_complete {l : List Job} {st : Status} {res : Nat} :
    ({ l.foldl (fun s j => s.complete j.run st res) s with held := [], fw := {} } : State) = { s with held := [], fw := {} } ∧
    ∃ cs, (l.foldl (fun s j => s.complete j.run st res) s).held = s.held ++ cs ∧ cs.length = l.length ∧
      ∀ c ∈ cs, c.status = st ∧ c.interim = false ∧ c.time = s.tb := by
  induction l generalizing s with
  | nil => exact ⟨rfl, [], by simp, rfl, by simp⟩
  | cons j l ih =>
    rw [List.foldl_cons]
    have h1 : ({ s.complete j.run st res with held := [], fw := {} } : State) = { s with held := [], fw := {} } := by
      unfold State.complete State.completeAt State.noteLast; split <;> rfl
    have h2 : ∃ c, (s.complete j.run st res).held = s.held ++ [c] ∧ c.status = st ∧ c.interim = false ∧ c.time = s.tb := by
      unfold State.complete State.completeAt State.noteLast; split <;> exact ⟨_, rfl, rfl, rfl, rfl⟩
    have h3 : (s.complete j.run st res).tb = s.tb := by have := congrArg State.tb h1; exact this
    obtain ⟨c, hc, hs⟩ := h2
    obtain ⟨ih1, cs, ih2, ih3, ih4⟩ := ih (s := s.complete j.run st res)
    refine ⟨ih1.trans h1, c :: cs, ?_, by simp [ih3], ?_⟩
    · rw [ih2, hc]; simp
    · intro x hx
      rcases List.mem_cons.1 hx with rfl | hx
      · exact hs
      · obtain ⟨a, b, d⟩ := ih4 x hx; exact ⟨a, b, d.trans h3⟩

theorem State.endJobs_effect {q : Job → Bool} {st : Status} {res : Nat} :
    ({ s.endJobs q st res with held := [], fw := {}, jobs := [] } : State) = { s with held := [], fw := {}, jobs := [] } ∧
    (s.endJobs q st res).jobs = s.jobs.filter (fun j => !q j) ∧
    ∃ cs, (s.endJobs q st res).held = s.held ++ cs ∧ cs.length = (s.jobs.filter q).length ∧
      ∀ c ∈ cs, c.status = st ∧ c.interim = false ∧ c.time = s.tb := by
  unfold State.endJobs
  obtain ⟨h1, cs, h2, h3, h4⟩ := State.foldl_complete (l := s.jobs.filter q) (s := s.dropJobs q) (st := st) (res := res)
  refine ⟨congrArg (fun s : State => { s with jobs := [] }) h1, ?_, cs, h2, h3, h4⟩
  exact congrArg State.jobs h1

/-- What a decision of the allocator does not touch, but the time where it falls into the next lane cycle, reads as before. -/
theorem State.allocTurn_read {β : Type} (π : State → β) {q c : Nat}
    (h : ∀ (t : State) a b c d e f g, π { t with lc := a, tb := b, lockmon := c, summers := d, conv := e, allocPtr := f, allocLast := g } = π t) :
    π (s.allocTurn q c) = π s := by
  unfold State.allocTurn
  extract_lets s1
  have : ∃ a b c d e, s1 = { s with lc := a, tb := b, lockmon := c, summers := d, conv := e } := by
    unfold s1 State.advanceTo; split
    · split
      · exact ⟨_, _, _, _, _, rfl⟩
      · exact ⟨_, _, _, _, _, rfl⟩
    · exact ⟨_, _, _, _, _, rfl⟩
  obtain ⟨a, b, c, d, e, h1⟩ := this
  rw [h1]; exact h s a b c d e _ _

theorem State.flushNco_frame : ({ s.flushNco with voices := [] } : State) = { s with voices := [] } := by
  unfold State.flushNco
  refine State.each_keeps (fun s : State => ({ s with voices := [] } : State)) fun _ _ => ?_
  unfold State.pastNco; split <;> rfl

theorem State.tmuLoad_frame : ({ s.tmuLoad with slots := [], jobs := [] } : State) = { s with slots := [], jobs := [] } := by
  unfold State.tmuLoad
  extract_lets s1
  have h : ({ s1 with slots := [], jobs := [] } : State) = { s with slots := [], jobs := [] } :=
    State.each_keeps (fun s : State => ({ s with slots := [], jobs := [] } : State)) fun _ _ => rfl
  exact h

theorem State.laneSwitch_frame {d} : ({ s.laneSwitch d with clk := {}, slots := [] } : State) = { s with clk := {}, slots := [] } := by
  unfold State.laneSwitch
  split
  · rfl
  · exact State.each_keeps (fun s : State => ({ s with clk := {}, slots := [] } : State)) fun _ _ => rfl

theorem State.laneSwitch_clk {d} : (s.laneSwitch d).clk = { s.clk with
    laneDco := d
    tbState := if s.clk.laneDco ≠ d ∧ (s.clk.tbState = .set ∨ s.clk.tbState = .synced) then .suspect else s.clk.tbState } := by
  unfold State.laneSwitch
  split
  · rename_i h; simp [← h]
  · rename_i h
    refine (State.each_keeps State.clk ?_).trans ?_
    · intro _ _; rfl
    · simp [h, State.updClk]

end Sys2Proof.Machine
end

