-- ==== Sys2Proof/Laws/Reads.lean ====
section
/-! SUPPORT. What the memory's queues, the seen state and the folds over packets in execution leave readable. -/
namespace Sys2Proof.Machine

variable {s t : State}

/-- An operation that keeps the seen state's order of acceptance leaves a new packet's number one above the state before it. -/
theorem State.seq_seen (h : t.kept = s.seen.kept) : t.seq = s.seq + 1 := State.seq_of_kept h

/-- What a write entering the queues does not touch reads as before. -/
theorem State.enqueueUnit_read {β : Type} (π : State → β) {port d : Nat}
    (h : ∀ (t : State) m l, π { t with mem := m, sql := { t.sql with portLat := l } } = π t) :
    π (s.enqueueUnit port d) = π s := by
  have hp : ∀ (t : State) k g, π (t.updPc k g) = π t := fun t k g => h t _ t.sql.portLat
  have hi : ∀ (t : State) k x, π (t.issueWrite k x) = π t := fun t k x => h t _ _
  have hd : ∀ (t : State) d, π (t.drainUnit d) = π t := by
    intro t d; unfold State.drainUnit; extract_lets k a; split
    · rw [hi, hp]
    · rfl
  have he : ∀ (t : State) k a p, π (t.enqueue k a p) = π t := by
    intro t k a p; unfold State.enqueue; extract_lets q w
    repeat' split
    all_goals first | with_reducible rfl | with_reducible exact hp _ _ _ | rw [hi, hp]
  unfold State.enqueueUnit
  extract_lets ks a
  refine State.foldl_keeps π fun t k => ?_
  extract_lets u
  split
  · rw [hd, he]
  · exact he _ _ _ _

theorem State.enqueueRange_read {β : Type} (π : State → β) {g : Seg} {port o n : Nat}
    (h : ∀ (t : State) m l, π { t with mem := m, sql := { t.sql with portLat := l } } = π t) :
    π (s.enqueueRange g port o n) = π s := State.foldl_keeps π fun _ _ => State.enqueueUnit_read π h

/-- The owl's repairs and write-backs touch no bank's contents. -/
theorem State.owlAhead_ram : s.owlAhead.bnk.ram = s.bnk.ram := by
  unfold State.owlAhead
  rw [(State.kept_iff.1 (State.writeBacks_kept _)).2.2.2]
  refine State.foldl_keeps (fun s => s.bnk.ram) fun t d => ?_
  exact (State.fault_faultOnly.read (fun s => s.bnk.ram)).trans (State.enqueueUnit_read (fun s => s.bnk.ram) fun _ _ _ => rfl)

/-- Returned extents are zeroed, and their writes enter the queues. -/
theorem State.returnExtents_frame {e n : Nat} : (s.returnExtents e n).bnk.ram = s.bnk.ram ∧
    (s.returnExtents e n).sql.quarantine = dropRange s.sql.quarantine e n ∧
    (s.returnExtents e n).sql.dram = Memory.zero s.sql.dram (16384 * e) (16384 * n) :=
  ⟨State.foldl_keeps (fun s => s.bnk.ram) fun _ _ => State.enqueueUnit_read (fun s => s.bnk.ram) fun _ _ _ => rfl,
   State.foldl_keeps (fun s => s.sql.quarantine) fun _ _ => State.enqueueUnit_read (fun s => s.sql.quarantine) fun _ _ _ => rfl,
   State.foldl_keeps (fun s => s.sql.dram) fun _ _ => State.enqueueUnit_read (fun s => s.sql.dram) fun _ _ _ => rfl⟩

/-- A run over a list, of which one entry alone does anything, is that entry's step. -/
theorem foldl_only {α β : Type} {f : β → α → β} {p : α → Bool} {l : List α} {j : α} {b : β} (h : ∀ b a, p a = false → f b a = b)
    (hl : l.filter p = [j]) : l.foldl f b = f b j := by
  induction l generalizing b with
  | nil => cases hl
  | cons a l ih =>
    rw [List.foldl_cons]
    by_cases ha : p a = true
    · rw [List.filter_cons_of_pos ha] at hl
      obtain ⟨rfl, h0⟩ := List.cons.inj hl
      have : ∀ (m : List α) (c : β), m.filter p = [] → m.foldl f c = c := by
        intro m
        induction m with
        | nil => intros; rfl
        | cons x m ihm =>
          intro c hm
          have hx : p x = false := by by_contra hx; simp [hx] at hm
          rw [List.foldl_cons, h _ _ hx]
          exact ihm c (by rwa [List.filter_cons_of_neg (by simp [hx])] at hm)
      exact this _ _ h0
    · have ha : p a = false := by simpa using ha
      rw [h _ _ ha]; exact ih (by rwa [List.filter_cons_of_neg (by simp [ha])] at hl)

/-- A run over a list of which no entry does anything, at the state it stays at. -/
theorem foldl_none {α β : Type} {f : β → α → β} {l : List α} {b : β} (h : ∀ a ∈ l, f b a = b) : l.foldl f b = b := by
  induction l with
  | nil => rfl
  | cons a l ih =>
    rw [List.foldl_cons, h a (by simp)]
    exact ih fun x hx => h x (by simp [hx])

end Sys2Proof.Machine
end

