-- ==== Sys2Proof/Tests/Slice0.lean ====
section
/-! SUPPORT. The model's own tests. First the witnesses: for every obligation with hypotheses, concrete states and operands that
meet them, one entry of the list for each clause (boundary values where clauses meet); test_wit_<Name> is of Obligations.<Name>,
and the theorems beside it are of further clauses of the same obligation. Then a term each check of Instr.wf refuses, and single
steps held to the worked examples of spec/. -/
namespace Sys2Proof.Tests
open Sys2Proof.Machine
set_option maxRecDepth 100000
set_option Elab.async false

/-! ### States and packets for the tests -/

/-- A device that is ready: images loaded, every processor running, the DCO locked, no batch. -/
def rdy : State := { State.reset with
  lc := 100000, tb := 100000, procs := [], sys := { State.reset.sys with ready := true }
  cal := { State.reset.cal with batch := none, bootOk := true }, fw := { State.reset.fw with boot := 2 }
  clk := { State.reset.clk with locked := true, laneDco := true, enable := true, align := .locked, refSrc := 1, q := 1 } }

/-- Context 0 of function PF0 in a state, on engine 0. -/
def inSt (st : CtxSt) (s : State) : State := s.updCtx 0 (fun x => { x with st := st, engine := some 0 })

/-- The units of CTX_CLAIM's kinds numbered 0, held by context 0. -/
def held (s : State) : State :=
  (((((((s.updFch 0 (fun f => { f with owner := some 0 })).updVoice 0 (fun v => { v with owner := some 0 })).updPch 0 (fun p => { p with owner := some 0 })).updEv 0
    (fun e => { e with owner := some 0 })).updCell 0 (fun c => { c with owner := some 0 })).updGroup 0 (fun g => { g with owner := some 0 })).updSlot 0
    (fun k => { k with owner := some 0 })).updBank 0 (fun b => { b with owner := 0, st := .on })

/-- Context 0 is open and holds those units. -/
def own : State := held (inSt .bound rdy)

/-- A packet of ring 0 with CONTEXT 0 and the catalogue's LENGTH, its payload from word 4 on. -/
def pk (op : Op) (ws : List W32) : Pkt :=
  let n := catLen op { payload := ws }
  { payload := (ws ++ List.replicate n 0).take (n - 4), length := BitVec.ofNat 16 n }

/-- All the hypotheses of a list hold together with those beside them: each entry is one clause's. -/
def all (l : List Bool) : Bool := l.all id

/-- A run of an opcode, for jobs. -/
def runOf (op : Op) (ws : List W32) : Run := { op := op, p := pk op ws }
/-- s with one packet in execution. -/
def exe (k : JobKind) (op : Op) (ws : List W32) (s : State) : State := { s with jobs := [{ run := runOf op ws, kind := k }] }
/-- exec answers a next state. -/
def goes (o : Host.Outcome State Fault Refusal) : Bool := match o with | .next _ => true | _ => false
/-- s with the clock's record changed. -/
def clkS (f : Clk → Clk) (s : State := rdy) : State := { s with clk := f s.clk }
/-- One job of this kind and nothing else. -/
def jobS (k : JobKind) (op : Op) (ws : List W32) (s : State := rdy) : State := exe k op ws s
/-- Segment 0 of context 0: 64 samples of S16 in extent 1, or in bank 0. -/
def segS (g : Seg) (s : State := own) : State := s.updSeg 0 (fun _ => { g with used := true, ctx := 0 })
def segD : State := segS { len64 := 4, ext := 1, nExt := 1 }
def segB : State := segS { len64 := 4, bank := some (0, 0) }
/-- A context-0 record changed in own. -/
def ctxS (f : Ctx → Ctx) (s : State := own) : State := s.updCtx 0 f
/-- PF0's command ring 0 and completion ring 0, both of 256 entries, with the ring's head and tail. -/
def ringS (head tail : BitVec 16) : State :=
  (rdy.updRing 0 0 (fun k => { k with enable := true, size := 8, sizeF := 8, head := head, tail := tail })).updCq 0 0 (fun k => { k with enable := true, size := 8, sizeF := 8 })
def sysS (f : Sys → Sys) (s : State := rdy) : State := { s with sys := f s.sys }
def pwrS (f : Power → Power) (s : State := rdy) : State := { s with power := f s.power }
def fwS (f : Fw → Fw) (s : State := rdy) : State := { s with fw := f s.fw }
/-- The management processor restarts. -/
def noMgmt (s : State := rdy) : State := { s with procs := [(0, { st := 2 })] }
def timedS (op : Op) (ws : List W32) (act : W64) (s : State := own) : State := { s with sched := [{ run := { runOf op ws with timed := true }, act := act }] }
/-- Context 0 runs step 0 (cached), of these words. -/
def runS (w : List W32) (s : State := own) : State := ctxS (fun x => { x with st := .running, steps := [(0, w)], cache := [0] }) s
/-- The step 0 issues, as opcode op. -/
def issuesOp (op : Nat) (s : State) : Bool :=
  let x := s.ctx 0; let w := x.step x.pc
  s.ready 0 && decide (x.pc ∈ x.cache) && decide (stepMasks w ≠ []) && decide (sop w = op) && !wrongTv x w && !s.notHeld 0 w && !s.queueFull 0 w
def vocS (f : Voice → Voice) (s : State := own) : State := s.updVoice 0 f
def fchS (f : Fch → Fch) (s : State := own) : State := s.updFch 0 f
def pchS (f : Pch → Pch) (s : State := own) : State := s.updPch 0 f
def evS (f : EvCh → EvCh) (s : State := own) : State := s.updEv 0 f
def pcS (f : Pc → Pc) (s : State := rdy) : State := s.updPc 0 f
def memS (f : Mem → Mem) (s : State := rdy) : State := { s with mem := f s.mem }
def tagS (t : Tag) (s : State := segD) : State := s.updSql (fun q => { q with tags := [(200, t)] })
/-- Processor p in a state. -/
def procS (p st : Nat) (s : State := rdy) : State := s.updProc p (fun x => { x with st := st })

theorem test_wit_HousekeepingPacketsComplete : all [
  startsNow .nop (pk .nop []) rdy, startsNow .ping (pk .ping [7]) rdy, startsNow .getInfo (pk .getInfo [0, 64, 0x1000, 0]) rdy,
  startsNow .schedCancel (pk .schedCancel [0]) rdy,
  startsNow .schedCancel (pk .schedCancel [5]) { rdy with sched := [{ run := { timed := true, op := .prgStop, p := { tag := 5 } }, act := 9 }] },
  !blocked (newRun (.unknown 0x77) {} rdy) rdy.seen] = true := by decide +kernel
theorem test_wit_ClockPacketsTakeEffect : all [
  startsNow .timeSet (pk .timeSet [1, 0]) rdy,
  startsNow .clkConfig (pk .clkConfig [0, 0]) rdy && !clkOn (pk .clkConfig [0, 0]) && !rdy.clk.selfHold,
  (let s := clkS (fun k => { k with selfHold := true }); startsNow .clkConfig (pk .clkConfig [0, 0]) s && s.clk.selfHold),
  (let s := clkS (fun k => { k with refHz := 10000000 }); let p := pk .clkConfig [3, 10000000]
   startsNow .clkConfig p s && clkOn p && s.clk.following && !clkChanges p s.clk && decide (s.clk.offsetNow s.lc = BitVec.ofNat 16 (pf p 4 16 16))),
  (let s := clkS (fun k => { k with refHz := 10000000 }); let p := pk .clkConfig [0x640003, 10000000]
   startsNow .clkConfig p s && clkOn p && s.clk.following && !clkChanges p s.clk && decide (s.clk.offsetNow s.lc ≠ BitVec.ofNat 16 (pf p 4 16 16))),
  (let s := clkS (fun k => { k with refHz := 20000000 }); let p := pk .clkConfig [1, 10000000]; startsNow .clkConfig p s && s.clk.following && clkChanges p s.clk),
  startsNow .clkConfig (pk .clkConfig [1, 10000000]) { rdy with clk := {} } && clkOn (pk .clkConfig [1, 10000000]),
  startsNow .clkStep (pk .clkStep [0]) rdy && decide (rdy.clk.rampEnd = none),
  startsNow .clkStep (pk .clkStep [0]) (clkS (fun k => { k with rampEnd := some 110000 })),
  startsNow .clkSync (pk .clkSync [1, 0, 0, 1600, 0]) rdy && syncArms (pk .clkSync [1, 0, 0, 1600, 0]),
  startsNow .clkSync (pk .clkSync [0, 0, 0, 0, 0]) rdy && decide (rdy.clk.arm = none),
  (let s := clkS (fun k => { k with arm := some {} }); startsNow .clkSync (pk .clkSync [0, 0, 0, 0, 0]) s && !syncArms (pk .clkSync [0, 0, 0, 0, 0])),
  (let s := clkS (fun k => { k with arm := some { mark := some 100500 } }); startsNow .clkSync (pk .clkSync [0, 0, 0, 0, 0]) s)] = true := by decide +kernel
theorem test_wit_Contexts : all [
  startsNow .ctxOpen (pk .ctxOpen [0]) rdy, startsNow .ctxOpen (pk .ctxOpen [0x10000]) rdy, (openTarget (pk .ctxOpen [0]) rdy.seen).isSome && !rdy.genWaits 0,
  (let s := tagS { held := true, abandoned := true, ctx := 0, gen := 1 } rdy; startsNow .ctxOpen (pk .ctxOpen [0]) s && decide (openTarget (pk .ctxOpen [0]) s.seen = some 0) && s.genWaits 0),
  (let s := tagS { held := true, abandoned := true, ctx := 0, gen := 1 } own; startsNow .ctxReset (pk .ctxReset []) s && s.genWaits 0), !own.genWaits 0,
  startsNow .ctxBind (pk .ctxBind [0x100]) (inSt .opened rdy), (bindTarget (pk .ctxBind [0x100]) (inSt .opened rdy).seen).isSome,
  startsNow .ctxReset (pk .ctxReset []) own, startsNow .ctxClose (pk .ctxClose []) own] = true := by decide +kernel

theorem test_wit_StepRunsFrontCommand : all [
  ({ rdy with pending := [.lossOfLock, .clkStepRampEnd] } : State).pending = .lossOfLock :: [.clkStepRampEnd],
  State.reset.pending = [] && State.reset.power.pwrgd,
  let s : State := { State.reset with power := { State.reset.power with pwrgd := false } }; decide (s.pending = []) && !s.power.pwrgd] = true := by decide +kernel
theorem test_wit_EveryStepKeepsMemoryCanonical : rdy.MemWf ∧ goes (step rdy) = true :=
  ⟨⟨by decide +kernel, by decide +kernel⟩, by decide +kernel⟩
theorem test_wit_OtherCommandsLeaveMemoryUnchanged : all [
  !mayStore .lossOfLock && goes (exec .lossOfLock rdy)] = true := by decide +kernel
theorem test_wit_PacketTurnedAwayOnlyCompletes : all [
  rdy.power.pwrgd && rdy.mgmtUp && !blocked (newRun .nop (pk .nop []) rdy) rdy.seen,
  decide (preChecks (newRun .nop { pk .nop [] with resv := 1 } rdy) rdy.seen = some (.badParam, 0)),
  decide (preChecks (newRun .ctxReset { pk .ctxReset [] with fn := 1 } own) own.seen = some (.notOwner, 0)),
  decide (preChecks (newRun .fwSchedule (pk .fwSchedule []) rdy) rdy.seen ≠ none)] = true := by decide +kernel
theorem test_wit_PacketWaitsItsTurn : all [
  decide (packetOf (.nop {}) = some (.nop, {})),
  (let s : State := { rdy with procs := [(0, { st := 2 })] }; s.power.pwrgd && !s.mgmtUp),
  (let s : State := { rdy with waiting := [newRun .ctxReset (pk .ctxReset []) rdy], seq := 1 }
   blocked (newRun .ping { pk .ping [0] with fence := true } s) s.seen),
  !({ rdy with power := { rdy.power with pwrgd := false } } : State).power.pwrgd] = true := by decide +kernel
theorem test_wit_TimedPacketIsAcceptedAndHeld : all [
  (let p := { pk .clkStep [1] with act := 300000 }
   decide (preChecks (newRun .clkStep p rdy) rdy.seen = none) && decide (rdy.tb.toNat + leadOf .clkStep ≤ p.act.toNat) && decide (rdy.countSched (fun t => t.run.timed) < 4096) &&
    decide ((meaningOf .clkStep).accept (newRun .clkStep p rdy) rdy.seen = none)),
  (let p := { pk .clkStep [1] with act := 300000 }
   let s : State := { rdy with sched := List.replicate 1024 { run := { timed := true } } }
   decide (preChecks (newRun .clkStep p s) s.seen = none) && decide ((meaningOf .clkStep).accept (newRun .clkStep p s) s.seen = none) &&
    decide (1024 ≤ s.countSched (fun t => t.run.timed && decide (t.run.p.fn = p.fn))))] = true := by decide +kernel
theorem test_wit_LatePacketIsRejectedAndLogged : all [
  (let p := { pk .clkStep [1] with act := 5 }
   decide (preChecks (newRun .clkStep p rdy) rdy.seen = none) && decide ((meaningOf .clkStep).accept (newRun .clkStep p rdy) rdy.seen = none) &&
    decide (periodCheck .clkStep p = none) && decide ((meaningOf .clkStep).check (newRun .clkStep p rdy) rdy.seen = none) && decide (p.act ≠ 0) &&
    decide (p.act.toNat < rdy.tb.toNat + leadOf .clkStep) && decide (p.late = 0) && !blocked (newRun .clkStep p rdy) rdy.seen),
  decide (rdy.log.burstAt ≠ rdy.lc)] = true := by decide +kernel
theorem test_wit_DeviceStateAndPermissionChecks : all [
  (let s : State := { rdy with sys := { rdy.sys with recovery := true } }; decide (formCheck .clkStep (pk .clkStep [1]) s.tb = none)),
  decide (formCheck .clkStep (pk .clkStep [1]) State.reset.tb = none) && !State.reset.sys.recovery && !State.reset.sys.ready,
  rdy.sys.ready && !rdy.sys.recovery && pf0Only .clkStep && decide (formCheck .clkStep { pk .clkStep [1] with fn := 1 } rdy.tb = none),
  namesCtx .ctxReset && decide ((own.ctx 0).st ≠ .free) && decide ((own.ctx 0).fn ≠ (1 : Fin 64).val) &&
    decide (formCheck .ctxReset { pk .ctxReset [] with fn := 1 } own.tb = none)] = true := by decide +kernel
theorem test_wit_FaultIsEnteredOrHeld : all [
  rdy.mgmtUp && decide (rdy.log.burstAt ≠ rdy.lc), (let s : State := { rdy with procs := [(0, { st := 2 })] }; !s.mgmtUp && decide (s.log.hold.length < 256)),
  (let s := rdy.faultAt 0x502 3 .a none 0 5 []; let r := s.mkRec 0x301 2 .p none 0 5 []; let x := Tbl.get {} s.log.recs ((s.log.next + 4095) % 4096)
   s.mgmtUp && decide (s.log.burstAt = s.lc) && decide (s.log.burst = 1) && r.before x && decide (x.code ≠ 0) && decide (x.code ≠ 0x106#12) && decide (r.code ≠ 0) && decide (r.code ≠ 0x106#12)),
  (let s := rdy.faultAt 0x502 3 .a none 0 5 []; let r := s.mkRec 0x503 0 .p none 0 5 []
   decide (s.log.burstAt = s.lc) && !r.before (Tbl.get {} s.log.recs ((s.log.next + 4095) % 4096))),
  (let s : State := { rdy with procs := [(0, { st := 2 })], log := { rdy.log with hold := List.replicate 256 {} } }; !s.mgmtUp && decide (256 ≤ s.log.hold.length))] = true := by decide +kernel
theorem test_wit_LockAndReferenceEvents : all [
  (clkS (fun k => { k with align := .acquiring })).clk.enable,
  (let k := (clkS (fun k => { k with align := .acquiring })).clk; decide (k.align = .acquiring)),
  decide (¬ (rdy.clk.enable = true ∧ rdy.clk.align = .acquiring)), (let k := (clkS (fun k => { k with locked := false })).clk; k.enable && !k.locked),
  decide (¬ (rdy.clk.enable = true ∧ rdy.clk.locked = false)), rdy.clk.locked && !rdy.refDecides, !(clkS (fun k => { k with locked := false })).clk.locked,
  (clkS (fun k => { k with align := .lost, refLostAt := some 98401 })).refDecides, !(clkS (fun k => { k with align := .lost, refLostAt := some 98400 })).refDecides,
  decide ((604731395#32).toInt.natAbs ≤ 604731395), decide (604731395 < (604731396#32).toInt.natAbs),
  decide (rdy.clk.align = .locked) && rdy.mgmtUp, decide (¬ (State.reset.clk.align = .locked ∨ State.reset.clk.align = .aligned ∨ State.reset.clk.align = .returning)),
  (let k := (clkS (fun k => { k with align := .lost })).clk; decide (k.align = .lost)), decide (rdy.clk.align ≠ .lost),
  (let k := (clkS (fun k => { k with align := .returning })).clk; decide (k.align = .returning) && decide (150000000 * k.q ≤ 150000000) && decide ((50 : Nat) ≤ 50)),
  (let k := (clkS (fun k => { k with align := .returning, q := 2 })).clk; decide (k.align = .returning) && decide (¬ (75000001 * k.q ≤ 150000000 ∧ (50 : Nat) ≤ 50))),
  decide (rdy.clk.align ≠ .returning), decide (rdy.clk.refSrc = 1), decide (State.reset.clk.refSrc ≠ 1)] = true := by decide +kernel
theorem test_wit_RampSlewSyncAndTimerEvents : all [
  decide (rdy.lc < 100001), decide (100000 ≤ rdy.lc), decide (rdy.clk.rampEnd = none),
  (let s := jobS (.clkStep 5 0) .clkStep [5] (clkS (fun k => { k with rampEnd := some 116000 }))
   decide (s.clk.rampEnd = some 116000) && decide ((s.findJob isStep).map (·.kind) = some (.clkStep 5 0))),
  (let s := clkS (fun k => { k with rampEnd := some 116000 }); decide (s.clk.rampEnd = some 116000) && decide (s.findJob isStep = none)),
  decide (rdy.clk.slewEnd = none), decide ((clkS (fun k => { k with slewEnd := some 100100 })).clk.slewEnd = some 100100),
  decide (rdy.clk.arm = none), ((clkS (fun k => { k with arm := some {} })).clk.arm.map (·.mark)) = some none,
  ((clkS (fun k => { k with arm := some { mark := some 100500 } })).clk.arm.map (·.mark)) = some (some 100500)] = true := by decide +kernel

theorem test_wit_UnitsAreClaimedAndReleasedAndScenesManaged : all ([0, 1, 2, 3, 4, 5, 6, 7, 8].map (fun k =>
    startsNow .ctxClaim (pk .ctxClaim [BitVec.ofNat 32 k]) own && decide (claimTarget (pk .ctxClaim [BitVec.ofNat 32 k]) own.seen = some 0) &&
    decide (own.holds 0 k 0 = decide (k ≠ 4)) && decide (kindOf (pk .ctxClaim [BitVec.ofNat 32 k]) = k))) = true := by decide +kernel
theorem test_wit_Claims : all ([0, 1, 2, 3, 5, 6, 7, 8].map (fun k =>
    let p := pk .ctxClaim [BitVec.ofNat 32 (k + 65536)]
    startsNow .ctxClaim p own && decide (claimTarget p own.seen = some 1) && !own.holds 0 k 1)) = true := by decide +kernel
theorem test_wit_ClaimsOfAnEventOutput : all [
    (let p := pk .ctxClaim [0x04000004]; startsNow .ctxClaim p own && decide (claimTarget p own.seen = some 0x400) && !own.holds 0 4 0x400),
    (let p := pk .ctxClaim [0xFFFF0000]; startsNow .ctxClaim p own && decide (claimTarget p own.seen = some 1))] = true := by decide +kernel
theorem test_wit_Releases : all ([0, 1, 2, 3, 5, 6, 7, 8].map (fun k => startsNow .ctxRelease (pk .ctxRelease [BitVec.ofNat 32 k]) own) ++ [
    startsNow .ctxRelease (pk .ctxRelease [4]) (own.updCon 0 (fun c => { c with owner := some 0 })),
    startsNow .ctxRelease (pk .ctxRelease [0x04000004]) (own.updEo 0 (fun c => { c with owner := some 0 })),
    !((own.seen.releaseFch 0).fch 0).releasing, !((own.seen.releasePch 0).pch 0).releasing,
    (((own.updFch 0 (fun f => { f with st := .running })).seen.releaseFch 0).fch 0).releasing,
    (((own.updPch 0 (fun f => { f with st := .enabled, force := 5000 })).seen.releasePch 0).pch 0).releasing]) = true := by decide +kernel
theorem test_wit_ScenesAndStatus : all [
    startsNow .ctxStatus (pk .ctxStatus [0, 64, 0x1000]) own, startsNow .scnDefine (pk .scnDefine [1, 0]) own, decide (own.freeScene = some 0),
    (let s := own.updScene 0 (fun _ => { used := true, members := [(0, 0)] })
     startsNow .scnAbort (pk .scnAbort [0]) s && startsNow .scnDelete (pk .scnDelete [0]) s &&
     acceptsNow .scnStartAt { pk .scnStartAt [0] with act := 200000 } (s.updCtx 0 (fun x => { x with st := .armed })))] = true := by decide +kernel
theorem test_wit_DrainsEndAndSpaceReturns : all [
  (let s := ctxS (fun x => { x with st := .stopping }); decide ((s.ctx 0).st = .stopping) && s.stopDone 0),
  decide (¬ ((own.ctx 0).st = .stopping ∧ own.stopDone 0 = true)),
  (let s := jobS (.ctxReset 0 3) .ctxReset [] own
   decide (s.jobs.filter (fun x => match x.kind with | .ctxReset d _ => decide (d = 0) | _ => false) = s.jobs) && s.resetDone 0 (fun h => decide (h = 3))),
  !(own.updVoice 0 (fun v => { v with releasing := true, relGen := 3 })).resetDone 0 (fun h => decide (h = 3)), decide (own.jobs = []),
  (let s := jobS (.ctxClose 0 3) .ctxClose [] (ctxS (fun x => { x with st := .closing }))
   decide (s.jobs.filter (fun x => match x.kind with | .ctxClose d _ => decide (d = 0) | _ => false) = s.jobs) && s.resetDone 0 (fun h => decide (h = 3)) &&
   s.noOrphans 0 (fun h => decide (h = 3)) && decide ((s.ctx 0).st = .closing) && decide ((s.ctx 0).genDue = 0) && s.resetDone 0 (fun _ => true) && s.noOrphans 0 (fun _ => true)),
  (let s := jobS (.ctxClose 0 3) .ctxClose [] (tagS { held := true, abandoned := true, ctx := 0, gen := 3 } own)
   !(s.resetDone 0 (fun h => decide (h = 3)) && s.noOrphans 0 (fun h => decide (h = 3))) && !(s.resetDone 0 (fun _ => true) && s.noOrphans 0 (fun _ => true))),
  (tagS { held := true, abandoned := true, ctx := 0, gen := 1 } own).genWaits 0,
  (let s := ctxS (fun x => { x with genDue := 1 }); !s.genWaits 0 && decide ((s.ctx 0).genDue = 1)), (let s := ctxS (fun x => { x with genDue := 2 }); !s.genWaits 0 && decide ((s.ctx 0).genDue = 2)),
  (let s := jobS (.ctxOpenWait 5) .ctxOpen [5]; !s.genWaits 5 && decide ((s.ctx 5).genDue = 0) && decide ((s.findJob (fun k => decide (k = .ctxOpenWait 5))).map (·.run.op) = some .ctxOpen)),
  (let s := jobS (.ctxOpenWait 0) .ctxReset [] own; !s.genWaits 0 && decide ((s.findJob (fun k => decide (k = .ctxOpenWait 0))).map (·.run.op) = some .ctxReset)),
  decide (own.findJob (fun k => decide (k = .ctxOpenWait 0)) = none) && decide ((own.ctx 0).genDue = 0) && decide (own.mem.repair = []),
  (let s := own.updSql (fun q => { q with quarantine := [(3, 2)] }); inRange s.sql.quarantine 3 2 && !s.orphansInto 3 2), !inRange own.sql.quarantine 3 2,
  (let s := own.updBank 0 (fun k => { k with zeroing := [(256, 512)] }); inRange (s.bank 0).zeroing 256 512 && !(s.bank 0).releasing), !inRange (own.bank 0).zeroing 256 512,
  (let s := own.updBank 0 (fun k => { k with releasing := true }); (s.bank 0).releasing && decide ((s.bank 0).trans = none) && decide ((s.bank 0).st = .on)),
  !(own.bank 0).releasing] = true := by decide +kernel
theorem test_wit_SegmentPacketsTakeEffect : all [
  decide (own.freeSegSlot = some 0), startsNow .segAlloc (pk .segAlloc [64, 16]) own, (own.fitBank 0 ({ len64 := 64 } : Seg).bytes).isSome,
  startsNow .segAlloc (pk .segAlloc [64, 0]) own && !pb (pk .segAlloc [64, 0]) 5 4, (own.fitExtents 1).isSome,
  startsNow .segWrite (pk .segWrite [0, 0, 1, 0, 0x1000]) segD, startsNow .segRead (pk .segRead [0, 0, 1, 0, 0x1000]) segD && decide ((segD.seg 0).bank = none),
  startsNow .segRead (pk .segRead [0, 0, 1, 0, 0x1000]) segB && (segB.seg 0).bank.isSome, startsNow .segFree (pk .segFree [0]) segD,
  (let p := pk .segPin [0, 0]; startsNow .segPin p segD && !unpins p && decide (pinBank p segD.seen (segD.seg 0).bytes = some 0) && (segD.fitBank 0 (segD.seg 0).bytes).isSome),
  (let p := pk .segPin [0, 256]; startsNow .segPin p (segS { segD.seg 0 with pin := some (0, 0, true) }) && unpins p && !(segD.seg 0).unpinning),
  (let p := pk .segPin [0, 256]; startsNow .segPin p (segS { segD.seg 0 with pin := some (0, 0, true), unpinning := true })),
  startsNow .segPin (pk .segPin [0, 256]) segD && decide ((segD.seg 0).pin = none),
  startsNow .segMirror (pk .segMirror [0, 0]) segD && !(segD.seg 0).mirrored, startsNow .segMirror (pk .segMirror [0, 1]) segD,
  (segD.fitExtents (mirrorTarget (pk .segMirror [0, 1]) segD).extents).isSome] = true := by decide +kernel
theorem test_wit_ProgramPacketsTakeEffect : all [
  startsNow .prgLoad (pk .prgLoad [0, 1, 0x1000, 0]) own, (own.seen.takePages 0 (newPages (pk .prgLoad [0, 1, 0x1000, 0]) (own.ctx 0))).isSome,
  startsNow .prgCheck (pk .prgCheck []) (ctxS (fun x => { x with steps := [(0, [0x0E])] })),
  startsNow .prgArm (pk .prgArm [0]) (ctxS (fun x => { x with steps := [(0, [0x0E])] })),
  ((ctxS (fun x => { x with steps := [(0, [0x0E])] })).seen.commitProgram 0).fits,
  (let s := (ctxS (fun x => { x with steps := [(0, [0x0E])] })).updCtx 1 (fun x => { x with st := .armed, committed := true, landing := 70000 })
   startsNow .prgArm (pk .prgArm [0]) s && startsNow .prgArm { pk .prgArm [0] with force := true } s && !(s.seen.commitProgram 0).fits),
  startsNow .prgStart (pk .prgStart []) (ctxS (fun x => { x with st := .armed })),
  startsNow .prgStop (pk .prgStop [1]) (ctxS (fun x => { x with st := .running })) && decide (pf (pk .prgStop [1]) 4 0 1 = 1),
  (let s := ctxS (fun x => { x with st := .running, fetching := true })
   startsNow .prgStop (pk .prgStop [0]) s && (s.ctx 0).fetching && (s.ctx 0).noWait && !(s.ctx 0).preRun),
  (let s := (ctxS (fun x => { x with st := .running, waiting := .ended 100100 })).updJump 0 0 (fun j => { j with st := 2, hit := some (100010, 9) })
   startsNow .prgStop (pk .prgStop [0]) s && Tbl.anyEntry (fun _ j => j.hit.isSome) (s.ctx 0).jumps && (s.ctx 0).noWait && !(s.ctx 0).preRun),
  (let s := ctxS (fun x => { x with st := .armed, ctrLc := 100000, ctrHeld := [1] }); startsNow .ctrSet (pk .ctrSet [3, 77]) s && decide ((s.ctx 0).ctrLc = s.lc)),
  startsNow .ctrSet (pk .ctrSet [3, 77]) (ctxS (fun x => { x with st := .armed }))] = true := by decide +kernel
theorem test_wit_JumpSlotsArm : all [
  startsNow .jmpArm (pk .jmpArm [256]) own && disarms (pk .jmpArm [256]),
  (let s := ctxS (fun x => { x with steps := [(0, [1, 0, 1])] }) segB; startsNow .jmpArm (pk .jmpArm [0, 0, 0]) s && (s.seg 0).inBank.isSome),
  (let s := ctxS (fun x => { x with steps := [(0, [1, 0, 1])] }) segD; startsNow .jmpArm (pk .jmpArm [0, 0, 0]) s && (s.seg 0).inBank.isNone &&
    decide (s.seen.copyBank 0 (sf ((s.ctx 0).step 0) 0 8 8) = some 0) && (s.fitBank 0 16384).isSome)] = true := by decide +kernel
theorem test_wit_CopiesEndAndStoreOnlyTheirTarget : all [
  (let s := (jobS (.pinCopy 0 false) .segPin [0] (segS { segD.seg 0 with pin := some (0, 0, false) })).addBulk (runOf .segPin [0]) .pin 4 0 0 1
   let u := s.updPc (pcOf (((s.seg 0).fetchDpa 0) / 256)) (fun x => { x with phase := .recovery })
   u.heldUp (runOf .segPin [0]) && (u.findJob (isPin 0)).isSome && !s.heldUp (runOf .segPin [0])),
  (let s := (jobS (.mirrorCopy 0) .segMirror [0] segD).addBulk (runOf .segMirror [0]) .mirror 4 0 0 1
   let u := s.updPc (pcOf (((s.seg 0).fetchDpa 0) / 256)) (fun x => { x with phase := .recovery })
   u.heldUp (runOf .segMirror [0]) && (u.findJob (fun j => decide (j = .mirrorCopy 0))).isSome),
  (let s := (jobS (.jmpArm 0 0) .jmpArm [0] segD).addBulk (runOf .jmpArm [0]) (.jump 0 0) 4 0 0 1
   let u := s.updPc (pcOf (((s.seg 0).fetchDpa 0) / 256)) (fun x => { x with phase := .recovery })
   u.heldUp (runOf .jmpArm [0]) && (u.findJob (fun j => decide (j = .jmpArm 0 0))).isSome),
  decide (own.findJob (isPin 0) = none), decide (own.findJob (fun j => decide (j = .mirrorCopy 0)) = none), decide (own.findJob (fun j => decide (j = .jmpArm 0 0)) = none),
  (let s := jobS (.pinCopy 0 false) .segPin [0] (segS { segD.seg 0 with pin := some (0, 0, false) })
   (s.findJob (isPin 0)).isSome && !s.heldUp (runOf .segPin [0]) && decide ((s.seg 0).pin = some (0, 0, false))),
  (let s := jobS (.pinCopy 0 false) .segPin [0] segD; (s.findJob (isPin 0)).isSome && !s.heldUp (runOf .segPin [0]) && decide ((s.seg 0).pin = none)),
  (let s := jobS (.mirrorCopy 0) .segMirror [0] (segS { segD.seg 0 with newExt := some (5, 2) })
   (s.findJob (fun j => decide (j = .mirrorCopy 0))).isSome && !s.heldUp (runOf .segMirror [0]) && decide ((s.seg 0).newExt = some (5, 2))),
  (let s := jobS (.mirrorCopy 0) .segMirror [0] segD; (s.findJob (fun j => decide (j = .mirrorCopy 0))).isSome && decide ((s.seg 0).newExt = none)),
  (let s := jobS (.jmpArm 0 0) .jmpArm [0] (segD.updJump 0 0 (fun j => { j with copy := some (0, 0) }))
   (s.findJob (fun j => decide (j = .jmpArm 0 0))).isSome && !s.heldUp (runOf .jmpArm [0]) && decide (((s.ctx 0).jump 0).copy = some (0, 0))),
  (let s := jobS (.jmpArm 0 0) .jmpArm [0] segD; (s.findJob (fun j => decide (j = .jmpArm 0 0))).isSome && decide (((s.ctx 0).jump 0).copy = none))] = true := by decide +kernel

theorem test_wit_ChannelPacketsTakeEffect : all [
  (let p := pk .fchConfig [0x100, 64]; startsNow .fchConfig p own && fchOn p && decide ((own.fch 0).st = .muted)),
  (let p := pk .fchConfig [0x100, 64]; let s := own.updFch 0 (fun f => { f with st := .running }); startsNow .fchConfig p s && decide ((s.fch 0).st = .running)),
  (let p := pk .fchConfig [0, 64]; startsNow .fchConfig p own && !fchOn p),
  startsNow .fchMode (pk .fchMode [0x000, 0]) own && decide ((own.fch 0).st ≠ .failed),
  (let s := own.updFch 0 (fun f => { f with st := .failed }); startsNow .fchMode (pk .fchMode [0, 0]) s && decide ((s.fch 0).st = .failed)),
  startsNow .pchConfig (pk .pchConfig [0x10, 0, 0xFFFFF, 200]) own && decide (pcRange (pk .pchConfig [0x10, 0, 0xFFFFF, 200]) ≠ (own.pch 0).range),
  startsNow .pchConfig (pk .pchConfig [0x1000, 0, 0xFFFFF, 200]) own && pcEnable (pk .pchConfig [0x1000, 0, 0xFFFFF, 200]) && decide ((own.pch 0).st = .disabled),
  (let s := own.updPch 0 (fun f => { f with st := .ramping }); startsNow .pchConfig (pk .pchConfig [0x1000, 0, 0xFFFFF, 200]) s),
  (let s := own.updPch 0 (fun f => { f with st := .enabled }); startsNow .pchConfig (pk .pchConfig [0, 0, 0xFFFFF, 200]) s),
  startsNow .pchConfig (pk .pchConfig [0, 0, 0xFFFFF, 200]) own && decide ((own.pch 0).st ≠ .enabled),
  startsNow .pchLoad (pk .pchLoad [1, 5]) (own.updPch 0 (fun f => { f with strobed := true })), startsNow .pchStrobe (pk .pchStrobe [1, 0, 1]) own,
  startsNow .pchStrobe { pk .pchStrobe [1, 1600, 2] with act := 0 } own && decide (1 < (pw (pk .pchStrobe [1, 1600, 2]) 6).toNat),
  startsNow .pchQueue (pk .pchQueue [0, 1, 0x1000, 0]) (own.updPch 0 (fun f => { f with st := .enabled })),
  startsNow .vocConfig (pk .vocConfig [0, 0, 0, 0, 0, 1]) own, startsNow .vocConfig (pk .vocConfig [0, 0x10000, 0, 0, 0, 1, 0, 0]) own] = true := by decide +kernel
theorem test_wit_MeasurementAndEventPacketsTakeEffect : all [
  startsNow .tmuConfig (pk .tmuConfig [0, 50, 1, 0]) rdy, startsNow .tmuRun (pk .tmuRun [0x100, 0, 1, 0, 1000]) own,
  startsNow .tmuRead (pk .tmuRead [0, 64, 0x1000]) own,
  startsNow .evtRoute (pk .evtRoute [0, 0x5010, 0xFFFF]) own && erNone (pk .evtRoute [0, 0x5010, 0xFFFF]),
  (let p := pk .evtRoute [0, 0, 0x80000000]; let s := own.updCon 0 (fun c => { c with owner := some 0 })
   startsNow .evtRoute p s && erRemove p && decide (s.seen.consChannel 0 ≠ some 0)),
  (let p := pk .evtRoute [0, 0x5010, 0]; let s := own.updCon 0 (fun c => { c with owner := some 0 })
   startsNow .evtRoute p s && !erRemove p && !erNone p && decide (s.consChannel 0 ≠ some 0)),
  startsNow .evtLut (pk .evtLut [0, 0xAAAA, 0, 0]) own, startsNow .evtFire (pk .evtFire [0, 0, 1]) (own.updEv 0 (fun e => { e with source := softSource })),
  startsNow .evtFire (pk .evtFire [0, 1600, 2]) (own.updEv 0 (fun e => { e with source := softSource }))] = true := by decide +kernel
theorem test_wit_RemovedConsumers : all [
  (let p := pk .evtRoute [0, 0, 0x80000000]
   let s := ((own.updCon 0 (fun c => { c with owner := some 0 })).updEv 0 (fun e => { e with cons := [0] })).attach 0 0
   startsNow .evtRoute p s && erRemove p && decide ((s.seen.snapRegs 0).consChannel 0 = some 0))] = true := by decide +kernel
theorem test_wit_CalibrationAndBankPacketsTakeEffect : all [
  startsNow .calRun (pk .calRun [2, 0]) rdy && decide (crKind (pk .calRun [2, 0]) = 2), startsNow .calRun (pk .calRun [0, 0]) rdy, startsNow .calRun (pk .calRun [1, 10000000]) rdy,
  startsNow .calSave (pk .calSave [0, 64, 0x1000]) rdy, startsNow .calRestore (pk .calRestore [0, 64, 0x1000]) rdy] = true := by decide +kernel
theorem test_wit_AdaptationAndBankPowerPackets : all ([0, 1, 2, 3].map (fun k =>
    let p := pk .aocCtrl [BitVec.ofNat 32 (256 * k)]
    startsNow .aocCtrl p (own.updAoc 0 (fun a => { a with pending := if k = 3 then 1 else 0 })) && decide (acAction p = k)) ++ [
  acceptsNow .aocCtrl { pk .aocCtrl [768] with act := 200000 } (own.updAoc 0 (fun a => { a with pending := 1 })),
  acceptsNow .aocCtrl { pk .aocCtrl [512] with act := 200000 } own,
  (let p := pk .bnkPower [0x200]; startsNow .bnkPower p own && decide (bpState p = (own.bank 0).st) && decide ((own.bank 0).trans = none) && !(own.bank 0).releasing),
  startsNow .bnkPower (pk .bnkPower [0x100]) own && decide (bpState (pk .bnkPower [0x100]) = .hibernate),
  (let s := own.updBank 0 (fun b => { b with st := .off, trans := some (.on, false) }); startsNow .bnkPower (pk .bnkPower [0x200]) s && (s.bank 0).trans.isSome),
  startsNow .bnkHandover (pk .bnkHandover [0, 0]) own && decide (bhOwner (pk .bnkHandover [0, 0]) = (own.bank 0).owner),
  startsNow .bnkHandover (pk .bnkHandover [0, 1]) (own.updCtx 1 (fun x => { x with st := .bound }))]) = true := by decide +kernel
theorem test_wit_FirmwareLogAndDiagnosticPacketsTakeEffect : all [
  startsNow .fwStage (pk .fwStage [0, 512, 0x1000]) rdy, acceptsNow .fwSchedule { pk .fwSchedule [] with act := 5000000 }
    { rdy with fw := { rdy.fw with imgs := (List.range 8).map (fun t => (8 + t, { complete := true, preset := false, staged := true })) } },
  startsNow .fwStatus (pk .fwStatus [0, 136, 0x1000]) rdy,
  startsNow .fwCancel (pk .fwCancel []) { rdy with fw := { rdy.fw with sched := 1 }, sched := [{ run := runOf .fwSchedule [], act := 5000000 }] },
  startsNow .fwCancel (pk .fwCancel []) rdy && decide (rdy.activation = none),
  startsNow .logRead (pk .logRead [0, 1, 0x1000]) rdy,
  (let s := rdy.fault 0x503 0 .p none 0 []; startsNow .faultAck (pk .faultAck [0]) s),
  (let s := own.fault 0x205 0 .c (some 0) 0 []; startsNow .faultAck (pk .faultAck [0]) s && !(s.record 0).noCtx)] = true := by decide +kernel
theorem test_wit_Diagnostics : all [
  startsNow .memDiag (pk .memDiag [0, 512, 0x1000]) rdy && decide (diagAction (pk .memDiag [0, 512, 0x1000]) = 0),
  startsNow .memDiag (pk .memDiag [0x100, 512, 0x1000]) rdy && decide ((rdy.pc 0).frozen = none),
  startsNow .memDiag (pk .memDiag [0x200, 512, 0x1000]) rdy && decide ((rdy.pc 0).capture = none),
  (let s := rdy.updPc 0 (fun x => { x with frozen := some 90000, capture := some {} }); decide (s.lc < 90000 + 16000000) && decide ((s.pc 0).unfreeze = none)),
  (let s : State := { rdy.updPc 0 (fun x => { x with frozen := some 90000, captureRead := true }) with lc := 16090000 }; decide (90000 + 16000000 ≤ s.lc) && startsNow .memDiag (pk .memDiag [0x100, 512, 0x1000]) s),
  (let s := rdy.updPc 0 (fun x => { x with frozen := some 90000, captureRead := true, unfreeze := some 1 }); (s.pc 0).unfreeze.isSome && startsNow .memDiag (pk .memDiag [0x200, 512, 0x1000]) s),
  (let s := rdy.updPc 0 (fun x => { x with capture := some {} }); s.rowLive 0 0 0 && decide ((s.pc 0).copying = none) && startsNow .memDiag (pk .memDiag [0x200, 512, 0x1000]) s)] = true := by decide +kernel
theorem test_wit_TransfersEndFailOrTimeOut : all ([(.segWrite, [0, 0, 1, 0, 0x1000]), (.prgLoad, [0, 1, 0x1000, 0]), (.pchQueue, [0, 1, 0x1000, 0]), (.fwStage, [0, 64, 0x1000]),
    (.calRestore, [0, 64, 0x1000]), (.segRead, [0, 0, 1, 0, 0x1000]), (.calSave, [0, 64, 0x1000]), (.logRead, [0, 1, 0x1000]), (.getInfo, [0, 64, 0x1000, 0])].map
    (fun (e : Op × List W32) => decide (((exe .transfer e.1 e.2 segD).jobOf 0 0 0 (fun k => decide (k = .transfer))).map (·.run.op) = some e.1))) = true := by decide +kernel
theorem test_wit_TransfersElsewhere : all [
  reads .segWrite, !reads .segRead, decide (rdy.jobOf 0 0 0 (fun k => decide (k = .transfer)) = none),
  (let s := rdy.updRing 0 0 (fun k => { k with enable := true }); (s.ring 0 0).enable && !(s.ring 0 0).error), !(rdy.ring 0 0).enable,
  decide (rdy.jobOf 0 0 0 (fun k => !ownTimeout k) = none), ((jobS .transfer .segWrite []).jobOf 0 0 0 (fun k => !ownTimeout k)).isSome,
  decide ((segB.seg 0).bank = some (0, 0)), decide ((segD.seg 0).bank = none),
  (let s := jobS .transfer .segWrite [0, 0, 1, 0, 0x1000] segD; let j : Job := { run := runOf .segWrite [0, 0, 1, 0, 0x1000], kind := .transfer }
   let u := s.updPc (pcOf (((s.seg 0).fetchDpa 0) / 256)) (fun x => { x with phase := .recovery })
   decide (s.jobs = [j]) && !s.heldUp j.run && u.heldUp j.run && decide (u.jobOf 0 0 0 (fun k => decide (k = .transfer)) = some j))] = true := by decide +kernel

theorem test_wit_TimedActionsTakeEffectInOrder : all [
  rdy.sched.all (fun x => decide (x.run.op = .fwSchedule)), !((timedS .clkStep [1] 200000).sched.all (fun x => decide (x.run.op = .fwSchedule))),
  (let s := timedS .clkStep [1] 200000; let r := runOf .clkStep [1]; let u : State := { s.advanceTo (s.lcAt 200000) with sched := [] }
   decide (orElse (periodCheck r.op r.p) ((meaningOf r.op).check r u) = none) && !periodic r.op),
  (let s := timedS .ctrSet [0, 1] 200000; let r := runOf .ctrSet [0, 1]; let u : State := { s.advanceTo (s.lcAt 200000) with sched := [] }
   decide (orElse (periodCheck r.op r.p) ((meaningOf r.op).check r u) = some (.busy, 0))),
  (let s := timedS .pchStrobe [1, 1600, 2] 200000; let r := runOf .pchStrobe [1, 1600, 2]; let u : State := { s.advanceTo (s.lcAt 200000) with sched := [] }
   decide (orElse (periodCheck r.op r.p) ((meaningOf r.op).check r u) = none) && periodic r.op)] = true := by decide +kernel
theorem test_wit_PacketsAreFetched : all [
  (let s := ringS 0 4; let k := s.ring 0 0; s.mgmtUp && decide (s.fetchTurn = some (0, 0)) && s.ringReady 0 0 && (s.cqr 0 k.cqF.toNat).enable && !(s.cqr 0 k.cqF.toNat).error &&
    decide (s.inFlight (fun _ => true) < 256) && decide (s.inFlight (fun f => decide (f = (0 : Nat))) < 64)),
  (let s := ringS 0 0; decide (s.fetchTurn = none)), !(noMgmt (ringS 0 4)).mgmtUp,
  (let s := (ringS 0 4).updCq 0 0 (fun k => { k with enable := false }); decide (s.fetchTurn = some (0, 0)) && !(s.cqr 0 0).enable),
  (let s := ({ (ringS 0 4).updRing 0 3 (fun k => { k with enable := true, sizeF := 8, tail := 4 }) with sys := { (ringS 0 4).sys with fromFn := 5 } } : State).updFn 0 (fun w => { w with fromRing := 1 })
   decide (s.fetchTurn = some (0, 3))),
  decide ((6 : Nat) % 4 ≠ 0) && decide ((0 : Nat) < 4) && decide (1024 < (1028 : Nat)) && decide (2 ^ (ringS 0 4 |>.ring 0 0).sizeF.toNat ≤ 1024 / 4),
  (let k := (ringS 254 0).ring 0 0; decide ((k.tail.toNat + 256 - k.head.toNat) % 256 < 16 / 4)),
  (let k := (ringS 254 2).ring 0 0; decide (¬ (k.tail.toNat + 256 - k.head.toNat) % 256 < 16 / 4))] = true := by decide +kernel
theorem test_wit_CompletionsWritten : all [
  decide (rdy.held.find? (fun c => decide (c.fn = 0) && decide (c.cq = 0)) = none),
  (let s : State := { ringS 0 0 with held := [finalOf .nop (pk .nop []) .ok 0 rdy] }
   (s.held.find? (fun c => decide (c.fn = 0) && decide (c.cq = 0))).isSome && !s.linkHeld && (s.cqr 0 0).enable && !(s.cqr 0 0).error && !(s.cqr 0 0).full && s.mgmtUp),
  (let s : State := { noMgmt (ringS 0 0) with held := [finalOf .nop (pk .nop []) .ok 0 rdy] }; !s.mgmtUp),
  (finalOf .nop { pk .nop [] with noCpl := true } .ok 0 rdy).suppressed,
  decide ((rdy.fnWin 0).notices = []), (let s := (ringS 0 0).updFn 0 (fun w => { w with notices := [{}] }); decide ((s.fnWin 0).notices = [{}]) && !s.linkHeld && s.mgmtUp && (s.cqr 0 0).enable && !(s.cqr 0 0).error && !(s.cqr 0 0).full),
  !(rdy.fnWin 0).msixOn, ((ringS 0 0).updCq 0 0 (fun k => { k with tail := 255 })).cqr 0 0 |>.full,
  (let s := rdy.updFn 0 (fun w => { w with notices := [{}] }); !(s.cqr 0 0).enable),
  (sysS (fun y => { y with linkHold := true, width := 0 })).linkHeld, decide (5 ∉ (rdy.fnWin 0).vecPending),
  (let w := (rdy.updFn 0 (fun w => { w with vecPending := [5], msixOn := true })).fnWin 0; decide (5 ∈ w.vecPending) && w.msixOn && decide (5 ∉ w.vecOpen)),
  (let w := (rdy.updFn 0 (fun w => { w with vecPending := [5], vecOpen := [5], msixOn := true, msixMask := true })).fnWin 0; decide (5 ∈ w.vecPending) && w.msixOn && w.msixMask),
  (let w := (rdy.updFn 0 (fun w => { w with vecPending := [5], vecOpen := [5], msixOn := true })).fnWin 0; decide (5 ∈ w.vecPending) && w.msixOn && !w.msixMask && decide (5 ∈ w.vecOpen) && decide (Tbl.get none w.vecLast 5 = none)),
  (let w := (rdy.updFn 0 (fun w => { w with vecPending := [5], vecOpen := [5], msixOn := true, vecLast := Tbl.set none w.vecLast 5 (some 99000) })).fnWin 0
   w.msixOn && !w.msixMask && decide (Tbl.get none w.vecLast 5 = some 99000) && decide (rdy.lc < 99000 + 3200))] = true := by decide +kernel
theorem test_wit_RingRegistersAndWindowDoorbells : all [
  !rdy.fnLive 1, rdy.fnLive 0 && rdy.mgmtUp, (let s := noMgmt; s.fnLive 0 && !s.mgmtUp),
  (let s := own.updEv 0 (fun e => { e with source := softSource }); s.heldByFn 0 (s.ev 0).owner && decide ((s.ev 0).source = softSource)),
  !rdy.heldByFn 0 (rdy.ev 0).owner, bit (1 : W32) 0 && decide (rdy.sys.irqWas = none), !bit (2 : W32) 0,
  decide ((sysS (fun y => { y with irqWas := some (100000, 3) })).sys.irqWas = some (rdy.lc, 3))] = true := by decide +kernel
theorem test_wit_RequestsAndReadsThatClear : all [
  bit (0x10001 : W32) 0 && decide (rdy.mem.maint ≠ 1) && decide (bits (0x10001 : W32) 16 10 = 1) && !rdy.anyRunning && !rdy.fwArmed && decide ((rdy.proc 2).st ≠ 2) && decide (rdy.sched = []),
  decide (bits (0x1 : W32) 16 10 = 0), decide (1000 < bits (0x3E90001 : W32) 16 10), !bit (0x10000 : W32) 0,
  decide ((rdy.bank 0).owner = 0x7FF) && decide (bits (0x7FF : W32) 0 12 = 0x7FF),
  decide ((own.bank 0).owner = 0) && decide (bits (0 : W32) 0 12 = 0),
  rdy.nextMay 0 0x401 && !rdy.bankBusy 0 && decide (0x401 ≠ (rdy.bank 0).owner), !rdy.nextMay 0 5 && decide (5 ≠ (rdy.bank 0).owner),
  !(pwrS (fun p => { p with pwrgd := false })).power.pwrgd, rdy.power.pwrgd, decide ((6 : BitVec 22).toNat % 4 ≠ 0), decide ((4 : BitVec 22).toNat % 8 = 4), decide ((8 : BitVec 22).toNat % 8 = 0),
  (sysS (fun y => { y with cfgLoaded := true })).sys.cfgLoaded, !rdy.sys.cfgLoaded, decide ((memS (fun m => { m with maint := 1 })).mem.maint = 1),
  rdy.fnLive 0 && !rdy.fnLive 1, decide (bits (0x400 : W32) 0 12 = 0x400)] = true := by decide +kernel
theorem test_wit_RegisterWritesReachTheirFields : all [
  rdy.power.pwrgd && !rdy.sys.recovery, decide ((0x481F0 : BitVec 22).toNat = 0x48000 + 16 * 31),
  decide ((0x120000 : BitVec 22).toNat % 4 = 0) && decide (0x120000 ≤ (0x120000 : BitVec 22).toNat) && decide (¬ (0x200000 ≤ (0x120000 : BitVec 22).toNat ∧ (0x120000 : BitVec 22).toNat < 0x210000)),
  (sysS (fun y => { y with recovery := true })).sys.recovery, decide ((0x20000 : BitVec 22).toNat = 65536 * 2 + 0), decide ((0xEFFFC : BitVec 22).toNat = 65536 * 14 + 65532),
  decide ((0x300008 : BitVec 22).toNat = 0x300008), decide (0x310000 ≤ (0x3FFFFC : BitVec 22).toNat), !rdy.fnLive 63, rdy.fnLive 0 && decide ((0x1FC : BitVec 22).toNat < 512) && decide ((0x1FC : BitVec 22).toNat % 16 = 12),
  decide ((0 : BitVec 22).toNat % 16 ≠ 12)] = true := by decide +kernel
theorem test_wit_UartAndSmbusAnswers : all [
  decide (rdy.power.p3v3 = .ok), decide ((pwrS (fun p => { p with p3v3 := .under })).power.p3v3 ≠ .ok),
  (let c := pecByte [0xBE, 0x03]; decide (rdy.power.smbAddr.toNat = 7) && decide (pecByte [rdy.smbHead 0, 0x03] = c) && decide (c + 1 ≠ c)),
  decide ((0x88 : BitVec 8) ≠ 0x03), decide (SmbXfer.read ≠ .write []), decide (SmbXfer.write [1, 2] ≠ .write []),
  !(pwrS (fun p => { p with pwrgd := false })).power.pwrgd, rdy.power.pwrgd, decide (1 ≤ (1 : BitVec 16).toNat) && decide ((32 : BitVec 16).toNat ≤ 32) && decide ((4095 : BitVec 16).toNat < 4096),
  decide (¬ (1 ≤ (33 : BitVec 16).toNat ∧ (33 : BitVec 16).toNat ≤ 32 ∧ (0 : BitVec 16).toNat < 4096)), decide (¬ (1 ≤ (1 : BitVec 16).toNat ∧ (1 : BitVec 16).toNat ≤ 32 ∧ (4096 : BitVec 16).toNat < 4096)),
  !rdy.sys.recovery, (sysS (fun y => { y with recovery := true })).sys.recovery, !uartWriteOk 0 0 2 [0, 0, 0, 0], uartWriteOk 0 1 0 [0, 0, 0, 0] && !rdy.staging 0,
  (jobS .transfer .fwStage [0, 512, 0x1000]).staging 0, decide (1 ≤ (5 : BitVec 8).toNat ∧ (5 : BitVec 8).toNat ≤ 5), decide (¬ (1 ≤ (6 : BitVec 8).toNat ∧ (6 : BitVec 8).toNat ≤ 5))] = true := by decide +kernel
theorem test_wit_PowerUpFaultsAndPowerDown : all ([Phase.off, .starting, .running, .shutdown, .pwrgdLow].map (fun f => decide ((pwrS (fun p => { p with phase := f })).power.phase = f)) ++ [
  (let s := pwrS (fun p => { p with phase := .shutdown, cause := 5, downAt := 100000 }); decide (s.power.cause = 5) && decide (s.power.downAt = s.lc)),
  (let s := pwrS (fun p => { p with phase := .shutdown, cause := 1, downAt := 100000 }); decide (¬ (s.power.cause = 5 ∧ s.power.downAt = s.lc))),
  !rdy.power.clrnLow, (pwrS (fun p => { p with phase := .starting, clrnLow := true })).power.clrnLow]) = true := by decide +kernel
theorem test_wit_LinkEventsAndFunctionResets : all [
  rdy.power.pwrgd && !rdy.sys.linkHold, !(pwrS (fun p => { p with pwrgd := false })).power.pwrgd, decide (LinkEvent.linkDown ≠ .perst),
  (sysS (fun y => { y with linkHold := true })).sys.linkHold, (sysS (fun y => { y with vfEnable := true, numVfs := 63 })).fnLive 63, !rdy.fnLive 1,
  decide ((63 : Fin 64).val ≠ 0), decide (rdy.fw.sched ≠ 1)] = true := by decide +kernel
theorem test_wit_BootChoosesItsSet : all [
  State.reset.power.pwrgd && decide (State.reset.fw.boot = 0) && !State.reset.fw.warm && decide (State.reset.fw.firstFail = none), decide (rdy.fw.boot ≠ 0),
  decide (FwSet.num .a = State.reset.fw.trying),   (let s := fwS (fun f => { f with boot := 1 }); decide (s.fw.boot = 1) && !s.sys.recovery && decide (s.fw.trying ≠ 2) && decide (s.fw.trying < 2)),
  (let s := fwS (fun f => { f with boot := 1, trying := 2 }); decide (s.fw.trying = 2)), decide (firstBad [0, 5] 1 = some (5, 2)), decide (firstBad (List.replicate 7 0) 1 = none),
  decide (State.reset.fw.trying < 2) && decide (State.reset.fw.boot = 0 ↔ (0 : Fin 8).val = 0),
  (let s := fwS (fun f => { f with firstFail := some (5, true) }); decide (s.fw.firstFail = some (5, true))),
  decide ((fwS (fun f => { f with imgs := [(0, { preset := false, complete := false })] }) State.reset).checkOf 0 0 = 1), (fwS (fun f => { f with imgs := [(0, { preset := true, complete := true })] }) State.reset).presetImg 0 && decide ((fwS (fun f => { f with imgs := [(0, { preset := true, complete := true })] }) State.reset).checkOf 0 0 = 0)] = true := by decide +kernel
theorem test_wit_WarmRestartAndRecoveryWrites : all [
  decide (rdy.activation = none),
  (let s := timedS .fwSchedule [] 5000000 (fwS (fun f => { f with sched := 1 })); s.activation.isSome && decide (s.fw.sched = 1) && s.mgmtUp &&
    decide (firstFail (s.advanceTo (s.lcAt 5000000 - 1600000)).quiet 1 = none)),
  (let s := timedS .fwSchedule [] 5000000 (fwS (fun f => { f with sched := 1 }) (rdy.updCtx 0 (fun x => { x with st := .running })))
   (firstFail (s.advanceTo (s.lcAt 5000000 - 1600000)).quiet 1).isSome),
  (let s := timedS .fwSchedule [] 5000000 (fwS (fun f => { f with sched := 2 })); s.activation.isSome && decide (s.fw.sched = 2)),
  (let s := sysS (fun y => { y with restarting := true }) (fwS (fun f => { f with warm := true })); s.fw.warm && s.sys.restarting && decide (s.fw.boot = 2) && decide (((s.advanceTo 100001).setProcs (List.range 8) 0).fw.firstFail = none)),
  (let s := sysS (fun y => { y with restarting := true }) (fwS (fun f => { f with warm := true, firstFail := some (5, true) })); s.fw.warm && decide (s.fw.firstFail ≠ none)),
  !rdy.fw.warm, !rdy.sys.recovery, (sysS (fun y => { y with recovery := true })).sys.recovery, bit (0x100 : W32) 8, !bit (0 : W32) 8,
  slotRange 0 0 512 && decide ((512 : Nat) ≤ 983040), !slotRange 0 2 512, (jobS .transfer .fwStage [0, 512, 0x1000]).staging 0, !rdy.staging 0] = true := by decide +kernel

theorem test_wit_StepsIssueOrStopTheirThread : all [
  !own.ready 0, (let s := (runS [4, 1]).updCtx 0 (fun x => { x with cache := [] }); s.ready 0 && decide ((s.ctx 0).pc ∉ (s.ctx 0).cache) && !s.stepComing 0 0),
  (let s := ((runS [4, 1]).updCtx 0 (fun x => { x with cache := [] })).requestStep 0 3; s.ready 0 && s.stepComing 0 0),
  (let s := runS [0xFF]; s.ready 0 && decide (stepMasks ((s.ctx 0).step 0) = [])), (let s := runS [4, 1]; s.ready 0 && decide (sop ((s.ctx 0).step 0) ≠ 1)),
  (let s := runS [0x10001]; let w := (s.ctx 0).step 0; s.ready 0 && decide (sop w = 1) && wrongTv (s.ctx 0) w),
  (let s := runS [0x102]; let w := (s.ctx 0).step 0; s.ready 0 && decide (sop w = 2) && !wrongTv (s.ctx 0) w && s.notHeld 0 w),
  (let s := vocS (fun v => { v with queue := List.replicate 16 {} }) (runS [1, 0, 1] segD); let w := (s.ctx 0).step 0
   s.ready 0 && decide (sop w = 1) && !wrongTv (s.ctx 0) w && !s.notHeld 0 w && s.queueFull 0 w)] = true := by decide +kernel
theorem test_wit_StepsTakeEffect : all [
  issuesOp 1 (runS [1, 0, 1] segD), issuesOp 2 (runS [2]), issuesOp 3 (runS [3]), issuesOp 3 (runS [0x10003, 0, 0, 2]), issuesOp 3 (runS [0x20003]), issuesOp 4 (runS [4, 1]),
  issuesOp 5 (runS [5, 0, 0] (own.updCon 0 (fun c => { c with owner := some 0 }))), issuesOp 6 (runS [6, 0x100] (own.updCon 0 (fun c => { c with owner := some 0 }))),
  issuesOp 7 (runS [7, 0]), issuesOp 8 (runS [8, 0, 0] (own.updCon 0 (fun c => { c with owner := some 0 }))), issuesOp 9 (runS [9, 0]), issuesOp 10 (runS [10, 0, 5]),
  issuesOp 11 (runS [11, 0]), issuesOp 12 (runS [12]), issuesOp 12 ((runS [12]).updCtx 0 (fun x => { x with stack := [7] })), issuesOp 13 (runS [0x1000D]), issuesOp 14 (runS [14]),
  issuesOp 10 ((runS [10, 0, 5]).updCtx 0 (fun x => { x with ctrLc := 100000, ctrHeld := [0] })), issuesOp 9 ((runS [9, 0]).setCtr 0 0 3), issuesOp 11 ((runS [11, 0]).updCtx 0 (fun x => { x with stack := List.replicate 8 5 }))] = true := by decide +kernel
theorem test_wit_ThreadsStartEndAndReceiveEvents : all [
  (let s := ctxS (fun x => { x with st := .running, waiting := .ended 100100 }); decide ((s.ctx 0).waiting = .ended 100100) && decide ((s.ctx 0).st = .running) && !(s.ctx 0).preRun && s.voicesDone 0),
  (let s := vocS (fun v => { v with queue := [{}] }) (ctxS (fun x => { x with st := .running, waiting := .ended 100100 })); !s.voicesDone 0),
  decide ((own.ctx 0).waiting = .none),
  (let s := ctxS (fun x => { x with st := .running, waiting := .evt 100000 64 true 0 }); s.engineRuns 0 && decide ((s.ctx 0).waiting = .evt 100000 64 true 0)),
  (let s := ctxS (fun x => { x with st := .running, waiting := .evt 100000 0 true 0 }); s.engineRuns 0 && decide ((s.ctx 0).waiting = .evt 100000 0 true 0)),
  (let s := ctxS (fun x => { x with st := .running, waiting := .branch 100000 64 3 0 }); s.engineRuns 0 && decide ((s.ctx 0).waiting = .branch 100000 64 3 0)),
  !rdy.engineRuns 0, decide (own.regs.find? (fun r => decide (r.ch = 0)) = none),
  (let s : State := { own with regs := [{ ch := 0, u := 100000 }] }; decide (s.regs.find? (fun r => decide (r.ch = 0)) = some { ch := 0, u := 100000 })),
  (let s := timedS .prgStart [] 200000 (ctxS (fun x => { x with st := .armed })); (s.nextStart 0).isSome && decide ((s.ctx 0).st = .armed)), decide (own.nextStart 0 = none),
  (let s := ctxS (fun x => { x with st := .running, preRun := true, startS := 108192 }); (s.ctx 0).preRun && decide (s.nextStart 0 ≠ some 108192))] = true := by decide +kernel
theorem test_wit_FoxJumps : all [
  decide (((own.ctx 0).jump 0).hit = none),
  (let s := own.updJump 0 0 (fun j => { j with hit := some (100010, 9) }); decide (((s.ctx 0).jump 0).hit = some (100010, 9)) && decide ((s.ctx 0).st ≠ .running) && decide (9 ≠ 8)),
  (let s := (runS [1, 0, 1] segD).updJump 0 0 (fun j => { j with st := 2, hit := some (100010, 9) })
   decide ((s.ctx 0).st = .running) && decide (((s.ctx 0).jump 0).st = 2) && s.engineRuns 0 && !s.onCub (s.ctx 0) && s.holds 0 1 0 && s.segLive 0),
  (let s := (runS [1, 9, 1] segD).updJump 0 0 (fun j => { j with st := 2, hit := some (100010, 9) }); s.engineRuns 0 && !s.onCub (s.ctx 0) && !s.segLive 9),
  (let s := (runS [1, 0, 1] (segD.updEng 0 (fun e => { e with migrating := some (256, 5) }))).updJump 0 0 (fun j => { j with st := 2, hit := some (100010, 9) }); !s.engineRuns 0)] = true := by decide +kernel
theorem test_wit_EnginesStallSpinAndMigrate : all [
  (let s := ctxS (fun x => { x with st := .running, spin := 65536 }); decide (65536 ≤ (s.ctx 0).spin)), decide ((own.ctx 0).st ≠ .running),
  (let s := ctxS (fun x => { x with st := .running, onCubStall := some 0 }); decide ((s.ctx 0).onCubStall = some (s.ctx 0).pc) && decide ((s.ctx 0).engine = some 0) && decide ((s.ctx 0).waiting = .none) && s.engineRuns 0),
  (let s := ctxS (fun x => { x with st := .running, stalls := 1, onCubStall := some 4 }); decide ((s.ctx 0).onCubStall ≠ some (s.ctx 0).pc) && decide ((s.ctx 0).stalls < 2) && s.engineRuns 0), (let s := ctxS (fun x => { x with st := .running, stalls := 2 }); decide (2 ≤ (s.ctx 0).stalls) && s.engineRuns 0),
  decide ((rdy.eng 0).st ≠ 2) && decide ((rdy.eng 0).migrating = none), (let s := rdy.updEng 0 (fun e => { e with st := 2 }); decide ((s.eng 0).st = 2)),
  decide (rdy.spareCub = some 256), decide (((List.range 8).foldl (fun (s : State) k => s.updEng (256 + k) (fun e => { e with st := 2 })) rdy).spareCub = none),
  (let s := rdy.migrate 0; decide ((s.eng 0).migrating = some (256, 100000)))] = true := by decide +kernel
theorem test_wit_MarkersMoveInOrder : all [
  (let s := rdy.updMarker 0 (fun m => { m with modeAt := [(100010, 8)] }); decide ((s.marker 0).modeAt = [(100010, 8)]) && decide ((s.marker 0).edges = [])),
  (let s := rdy.updMarker 0 (fun m => { m with modeAt := [(100010, 8)], edges := [{ at_ := 3200320 }] }); decide ((s.marker 0).edges.all (fun e => decide (32 * 100010 ≤ e.at_)))),
  (let s := fchS (fun f => { f with st := .running }) (own.updMarker 0 (fun m => { m with edges := [{ at_ := 3200064, level := true }] }))
   decide ((s.fch 0).st = .running) && !(s.marker 0).divider && decide ((s.marker 0).last = none)),
  (let s := fchS (fun f => { f with st := .running }) (own.updMarker 0 (fun m => { m with last := some 3200060, edges := [{ at_ := 3200064, level := true }] }))
   decide ((s.marker 0).last = some 3200060) && decide (3200064 < 3200060 + 16)),
  (let s := fchS (fun f => { f with st := .running }) (own.updMarker 0 (fun m => { m with divider := true, period := 8, last := some 3200000 })); (s.marker 0).divider && (s.fch 0).converts && decide ((s.marker 0).modeAt = []) && decide ((s.marker 0).edges = [])),
  (let s := fchS (fun f => { f with st := .running }) (own.updMarker 0 (fun m => { m with divider := true, period := 8, edges := [{ at_ := 3200064, level := true }] }))
   (s.marker 0).divider && (s.fch 0).converts && decide (3200064 ≤ 32 * s.nextToggle (s.marker 0) ∨ 32 * s.nextToggle (s.marker 0) < 3200064)),
  decide ((rdy.marker 0).modeAt = []) && decide ((rdy.marker 0).edges = []) && !(rdy.marker 0).divider] = true := by decide +kernel
theorem test_wit_VoicesPlayFillAndFollow : all [
  (let s := vocS (fun v => { v with queue := [{ pos := 100010, usable := 100010 }] }); decide ((s.voice 0).st = .idle) && decide ((s.voice 0).queue.length = 1) && decide (s.shortfall 0 { pos := 100010, usable := 100010 } = 0)),
  (let s := vocS (fun v => { v with queue := [{ pos := 100010, usable := 100011 }], lastEnd := some 100010 }); decide ((s.voice 0).lastEnd = some 100010)),
  (let s := vocS (fun v => { v with queue := [{ pos := 100010, usable := 100011 }] }); decide ((s.voice 0).lastEnd ≠ some 100010)), decide ((own.voice 0).queue = []),
  (let s := vocS (fun v => { v with st := .playing, cur := some { pos := 100000, dur := 100 }, queue := [{ pos := 100100, usable := 100050 }] }); s.inTime 0 { pos := 100000, dur := 100 } { pos := 100100, usable := 100050 }),
  (let s := vocS (fun v => { v with st := .playing, cur := some { pos := 100000, dur := 100 }, queue := [{ pos := 100100, usable := 200000 }] }); !s.inTime 0 { pos := 100000, dur := 100 } { pos := 100100, usable := 200000 }),
  (let s := vocS (fun v => { v with st := .playing, cur := some { pos := 100000, dur := 100 } }); (s.voice 0).cur.isSome && decide ((s.voice 0).queue = [])), decide ((own.voice 0).cur = none),
  (let s := vocS (fun v => { v with st := .fill, queue := [{ pos := 100010, usable := 100011 }] }); decide ((s.voice 0).st = .fill) && decide ((s.voice 0).cur = none)),
  (let a : Action := { pos := 100000, dur := 8, seg := 0 }; let s := vocS (fun v => { v with st := .playing, cur := some a }) segD
   decide ((s.voice 0).fillEp = none) && decide (s.firstMissing 0 a (s.nextDue 0 a) = some 0) && decide (s.whyMissing 0 a 0 = .data)),
  (let a : Action := { pos := 100000, dur := 8, seg := 0, bank := some 0, copyUnits := 1 }; let s := vocS (fun v => { v with st := .playing, cur := some a }) (segB.updBank 0 (fun b => { b with st := .off }))
   decide (s.firstMissing 0 a (s.nextDue 0 a) = some 0) && decide (s.whyMissing 0 a 0 = .bankNotOn)),
  (let a : Action := { pos := 100000, dur := 8, seg := 0, bank := some 0, copyUnits := 1 }; let s := vocS (fun v => { v with st := .playing, cur := some a }) segB
   decide (s.firstMissing 0 a (s.nextDue 0 a) = none) && !s.bnkOver 0),
  (let s := vocS (fun v => { v with cur := some {}, fillEp := some {} }); decide (((s.voice 0).fillEp.map (·.until_)) = some none) && (s.voice 0).cur.isSome),
  (let s := vocS (fun v => { v with cur := some {}, fillEp := some { cause := .poison, until_ := some 3200010 } }); decide (((s.voice 0).fillEp.bind (·.until_)) = some 3200010) && decide (((s.voice 0).fillEp.map (·.pc)) = some none)),
  decide (((vocS (fun v => { v with st := .ramping })).voice 0).st = .ramping), decide ((own.slot 0).toVoice = []),
  (let s := own.updSlot 0 (fun k => { k with toVoice := [(5, 100000)] }); decide ((s.slot 0).toVoice = [(5, 100000)])),
  (let x := own.voice 0; decide (max (-(x.vrec.followLimit : Int)) (min x.vrec.followLimit (x.t + roundShift (0 - x.vrec.followRef - x.t) x.vrec.followK)) = x.t + roundShift (0 - x.vrec.followRef - x.t) x.vrec.followK)),
  (let x := own.voice 0; decide (max (-(x.vrec.followLimit : Int)) (min x.vrec.followLimit (x.t + roundShift (999999999 - x.vrec.followRef - x.t) x.vrec.followK)) ≠ x.t + roundShift (999999999 - x.vrec.followRef - x.t) x.vrec.followK) && !x.atLimit)] = true := by decide +kernel
theorem test_wit_FastChannelsStartStopAndAreSupervised : all [
  decide (((fchS (fun f => { f with st := .starting, boundary := 100100 })).fch 0).st = .starting), decide ((own.fch 0).st ≠ .starting), decide (((fchS (fun f => { f with rampEnd := some 100064 })).fch 0).rampEnd = some 100064),
  decide ((dieChannels 0).filter (fun k => (own.fch k).live) = []), decide ((dieChannels 0).filter (fun k => ((fchS (fun f => { f with st := .running })).fch k).live) ≠ []),
  (fchS (fun f => { f with st := .running })).wholeWindow 0 == false || (fchS (fun f => { f with st := .running })).wholeWindow 0,
  ({ fchS (fun f => { f with st := .running }) with lc := 200000 } : State).wholeWindow 0,
  (let s : State := { fchS (fun f => { f with st := .running }) with mon := { own.mon with samplerRun := true } }; s.mon.samplerRun && decide (s.mon.samplerCh = 0)), decide (own.mon.samplerCh ≠ 1),
  (let s : State := { own with cal := { own.cal with bgRun := true } }; s.bgOn 0 && decide (48 ∈ (s.fch 0).spareList) && decide (0 ∉ (s.fch 0).spareList) && decide (0 ∉ (s.fch 0).retiredList) && decide (s.shadowOf (elemIdx 0 48) = none)),
  decide ((own.setShadow (elemIdx 0 48) (some 5)).shadowOf (elemIdx 0 48) = some 5), !own.bgOn 0, (fchS (fun f => { f with measuring := true })).fch 0 |>.measuring] = true := by decide +kernel
theorem test_wit_PrecisionChannelsTickStrobeAndSwitch : all [
  (let s := pchS (fun p => { p with st := .enabled, ticksOff := true }); decide ((s.pch 0).st = .enabled) && !(s.pch 0).strobed && (s.pch 0).ticksOff),
  (let s := pchS (fun p => { p with st := .enabled, queue := [(5, true)] }); decide ((s.pch 0).queue = [(5, true)]) && !s.precLinkDown && !(s.pch 0).ticksOff),
  (let s := pchS (fun p => { p with st := .enabled, tookNoLast := true }); decide ((s.pch 0).queue = []) && (s.pch 0).tookNoLast),
  (let s : State := { pchS (fun p => { p with st := .enabled, queue := [(5, true)] }) with precLinkDown := true }; s.precLinkDown), decide ((own.pch 0).st ≠ .enabled), decide ((own.group 0).due = none) && decide ((own.group 0).deferred = none),
  decide (((own.updGroup 0 (fun g => { g with due := some 100008 })).group 0).due = some 100008), decide (((own.updGroup 0 (fun g => { g with deferred := some 100008 })).group 0).deferred = some 100008),
  decide (((pchS (fun p => { p with st := .ramping, ramp := some (0, 0, 100000, 110000) })).pch 0).ramp = some (0, 0, 100000, 110000)),
  (let s := pchS (fun p => { p with st := .switching, swStage := 0 }); decide ((s.pch 0).st = .switching) && !s.precDown),
  (let s := pchS (fun p => { p with st := .switching, swStage := 2, ramp := some (0, 0, 100000, 110000) }); decide ((s.pch 0).swStage = 2) && !s.precDown),
  decide (((pchS (fun p => { p with holdDue := some (0, 100008, 100328) })).pch 0).holdDue = some (0, 100008, 100328)),
  decide (((pchS (fun p => { p with hold := some (0, 100008, 100328) })).pch 0).hold = some (0, 100008, 100328)) && decide (100328 < 100008 + holdMax),
  (let s := pchS (fun p => { p with hold := some (0, 100008, 740008) }); decide ((s.pch 0).hold = some (0, 100008, 740008)) && decide (100008 + holdMax ≤ 740008)),
  (let s := pchS (fun p => { p with st := .switching, swStage := 1 }); decide ((s.pch 0).st = .switching) && decide ((s.pch 0).swStage = 1) && !s.precDown), decide ((own.pch 0).hold = none)] = true := by decide +kernel

theorem test_wit_ClearsComplianceAndThePrecisionLink : all [
  !rdy.power.clrnLow, (pwrS (fun p => { p with clrnLow := true })).power.clrnLow,
  (let s := pchS (fun p => { p with st := .enabled }); decide ((s.pch 0).st = .enabled) && !(s.pch 0).comparator && decide ((s.pch 0).owner = some 0)),
  (let s := pchS (fun p => { p with st := .enabled, owner := none, range := 3 }); decide ((s.pch 0).owner = none) && decide (3 ≤ (s.pch 0).range)),
  (let p := own.pch 0; !p.comparator && decide (p.st = .disabled)), decide (((pchS (fun p => { p with st := .cleared })).pch 0).st = .cleared), ((pchS (fun p => { p with comparator := true })).pch 0).comparator,
  (let s : State := { own.updGroup 0 (fun k => { k with linkWait := some 99000 }) with precLinkDown := true }; decide ((s.group 0).linkWait = some 99000)),
  ({ rdy with precLinkDown := true } : State).precLinkDown, !rdy.precLinkDown && decide (rdy.pchHolders = []), decide (own.pchHolders = [(0, 0)])] = true := by decide +kernel
/-- Voice 0 plays segment 0 from DRAM and has nothing of it yet. -/
def plays : State := vocS (fun v => { v with st := .playing, cur := some { pos := 100100, dur := 8 } }) segD
/-- A head still to fetch, every tag of the urgent pool out (those of the list), and an urgent request that waits. -/
def crowded (l : List Nat) : State := own.updSql (fun q => { q with
  stream := [{ voice := some 0, dpa := 16384 }], urgent := [{ port := 0, voice := some 0, dpa := 16384, waited := true }]
  tags := l.map (fun k => (k, { held := true, voice := some 255 })) })
theorem tagsOf_crowded (l : List Nat) (n : Nat) (h : n ∈ l) : Tbl.get {} (l.map (fun k => (k, ({ held := true, voice := some 255 } : Tag)))) n = { held := true, voice := some 255 } := by
  induction l with
  | nil => cases h
  | cons a l ih => by_cases e : n = a <;> simp_all [Tbl.get]
theorem noneFrom (p : Nat → Bool) : ∀ n k, (∀ i, k ≤ i → i < k + n → p i = false) → firstFrom p k n = none
  | 0, _, _ => rfl
  | n + 1, k, h => by
    rw [firstFrom, h k (by omega) (by omega)]; exact noneFrom p n (k + 1) (fun i a b => h i (by omega) (by omega))
theorem swept_tags (s : State) (l : List Nat) (h : s.sql.tags = l.map (fun k => (k, { held := true, voice := some 255 }))) :
    s.swept.sql.tags = l.map (fun k => (k, { held := true, voice := some 255 })) := by
  show Tbl.mapVals _ _ s.sql.tags = _
  rw [h]; clear h
  induction l with
  | nil => rfl
  | cons a l ih => simp_all [Tbl.mapVals, State.tagRead, isHead]
theorem urgent_crowded (l : List Nat) (hl : ∀ n < 2048, n ∈ l) : (crowded l).swept.urgentFirst = true := by
  have hf : ∀ b < 16, (crowded l).swept.freeTag b 0 128 = none := fun b hb => by
    rw [State.freeTag, noneFrom _ _ _ (fun i _ hi => by rw [swept_tags (crowded l) l rfl, tagsOf_crowded _ _ (hl _ (by omega))]; rfl)]; rfl
  have hp : (crowded l).swept.pickTag 0 128 = none := by simp [State.pickTag, List.range_succ, hf]
  have hu : (crowded l).swept.sql.urgent = [{ port := 0, voice := some 0, dpa := 16384, waited := true }] := rfl
  rw [State.urgentFirst, hu, hp]; rfl
theorem stream_crowded (l : List Nat) : (crowded l).swept.nextStream.isSome = true := by
  have hv : (crowded l).swept.streamReqs = [{ voice := some 0, dpa := 16384, deadline := 106400 }] := by
    have hk : Tbl.keysWhere (fun _ v => !v.catchup && (v.cur.isSome || !v.queue.isEmpty)) (crowded l).swept.voices = [] := by
      show Tbl.keysWhere _ own.voices = []; decide +kernel
    have hs : (crowded l).swept.sql.stream = [{ voice := some 0, dpa := 16384 }] := rfl
    have hc : (crowded l).swept.lc = 100000 := rfl
    simp [State.streamReqs, hk, hs, hc]
  have hb : (crowded l).swept.bulkReqs = [] := by unfold State.bulkReqs; split <;> rfl
  rw [State.nextStream, hv, hb]; rfl
theorem test_wit_FetchesWaitForTheUrgent : ∃ s : State, s.swept.nextStream.isSome = true ∧ s.swept.urgentFirst = true :=
  ⟨crowded (List.range 2048), stream_crowded _, urgent_crowded _ (fun _ => List.mem_range.mpr)⟩
theorem test_wit_FetchesAreIssued : all [
  decide (own.nextStream = none), plays.swept.nextStream.isSome && plays.swept.generalTag.isSome && !plays.swept.urgentFirst,
  decide (own.urgentReqs = []), (let s := own.updSql (fun q => { q with urgent := [{ port := 0, voice := some 0, dpa := 16384, deadline := 150000 }] })
   decide (s.swept.urgentReqs.length = 1) && s.swept.admits { port := 0, voice := some 0, dpa := 16384, deadline := 150000 } && decide (s.swept.urgentTag = some 0)),
  (let s := own.updSql (fun q => { q with tags := (List.range 4).map (fun k => (k, { held := true, native := !false, dpa := 16384 })) })
   !s.admits { port := 0, dpa := 16384, deadline := 150000 })] = true := by decide +kernel
theorem test_wit_FetchesLandTimeOutAndArePromoted : all [
  (let t := Tbl.get {} (tagS { held := true, dpa := 16384 }).sql.tags 200; t.held && !t.landed && decide (t.seq = 0) && !t.abandoned && !t.retry && !t.promoted),
  !(Tbl.get {} own.sql.tags 200).held, (Tbl.get {} (tagS { held := true, abandoned := true }).sql.tags 200).abandoned, (Tbl.get {} (tagS { held := true, retry := true }).sql.tags 200).retry,
  !(tagS { held := true, dpa := 16384 }).slowed { dpa := 16384, port := 2, ctx := 0, gen := 0, voice := none, seg := 0, segGen := 0 },
  (let s := tagS { held := true, dpa := 16384, bulk := some 0 } ((jobS (.pinCopy 0 false) .segPin [0] (segS { segD.seg 0 with pin := some (0, 0, false) })).addBulk (runOf .segPin [0]) .pin 4 0 0 1)
   s.bulkLive 0 && decide ((s.sql.bulk.find? (fun b => decide (b.id = 0))).map (·.goal) = some .pin) && decide ((s.seg 0).pin = some (0, 0, false))),
  (let s := tagS { held := true, dpa := 16384, bulk := some 0 } ((jobS (.mirrorCopy 0) .segMirror [0] (segS { segD.seg 0 with newExt := some (5, 2) })).addBulk (runOf .segMirror [0]) .mirror 4 0 0 1)
   s.bulkLive 0 && decide ((s.sql.bulk.find? (fun b => decide (b.id = 0))).map (·.goal) = some .mirror) && decide ((s.seg 0).newExt = some (5, 2))),
  (let s := rdy.updPc 0 (fun p => { p with wq := [{ unit := 5, port := 6 }] }); ((s.pc 0).wq.find? (fun x => decide (x.unit = 5) && !x.promoted)).isSome), decide ((rdy.pc 0).wq = []),
  eccBad (.uncorrectable 0 0 0 0) && !own.mirroredAt 16384, decide ((2 : Fin 7).val < 3) && decide (3 ≤ (3 : Fin 7).val), decide ((rdy.pc 0).phase ≠ .failed)] = true := by decide +kernel
theorem test_wit_RefreshRowCountersAndStackTemperatures : all [
  !rdy.anyArmed, (ctxS (fun x => { x with st := .armed })).anyArmed, decide (((rdy.pc 0).dbank 0).open_ = none), decide ((((rdy.updDBank 0 0 (fun k => { k with open_ := some 7 })).pc 0).dbank 0).open_ = some 7),
  (let s := rdy.updDBank 0 0 (fun k => { k with rows := [{ row := 7, count := 4096 }] })
   decide ((((s.pc 0).dbank 0).rows.find? (fun e => decide (e.row = 7) && decide (4096 ≤ e.count))) = some { row := 7, count := 4096 }) && decide (4 < ({} : Asker).port) && decide ((s.pc 0).throttles = [])),
  (let s := rdy.updDBank 0 0 (fun k => { k with rows := [{ row := 7, count := 4095 }] }); decide ((((s.pc 0).dbank 0).rows.find? (fun e => decide (e.row = 7) && decide (4096 ≤ e.count))) = none)),
  decide (({ port := 4 } : Asker).port ≤ 4), (let s := pcS (fun p => { p with throttles := [{ row := 7 }] }); (s.pc 0).throttles.any (fun t => decide (t.req = {}) && decide (t.bank = 0) && decide (t.row = 7)))] = true := by decide +kernel
theorem test_wit_ScrubsRepairsAndDelayTracking : all [
  (let s := pcS (fun p => { p with phase := .service }); decide ((s.owlAhead.zeroFirst.pc (pcOf s.owlAhead.zeroFirst.mem.scrubUnit)).phase = .service) && decide ((s.owlAhead.zeroFirst.pc 0).frozen = none) && decide ((s.proc 2).st = 0)),
  rdy.owlAhead.scrubBehind, !(memS (fun m => { m with scrubUnit := 5 })).owlAhead.scrubBehind,
  decide ((rdy.pc 0).phase ≠ .service), decide (0 ∉ rdy.mem.repair), decide (32 ∈ (memS (fun m => { m with repair := [32] })).mem.repair) && decide ((63 : BitVec 35).toNat / 32 * 32 = 32)] = true := by decide +kernel
theorem test_wit_FreezesRetirementRecoveryAndMaintenance : all [
  decide (rdy.mem.maint ≠ 1), decide ((memS (fun m => { m with maint := 1 })).mem.maint = 1), decide ((rdy.pc 0).frozen = none),
  (let s := pcS (fun p => { p with frozen := some 90000, capture := some { dpa := 64 } }); decide ((s.pc 0).frozen = some 90000) && decide ((s.pc 0).unfreeze = none)),
  decide ((rdy.pc 0).copying = none), decide (((pcS (fun p => { p with copying := some (3, 7) })).pc 0).copying = some (3, 7)),
  (let s := pcS (fun p => { p with phase := .recovery }); decide ((s.pc 0).phase = .recovery) && !s.sys.recovery), decide ((rdy.pc 0).phase ≠ .recovery),
  decide (((pcS (fun p => { p with phase := .train })).pc 0).phase = .train), decide ((rdy.pc 0).phase = .start) && decide (1 ≤ rdy.fw.boot) && !rdy.sys.recovery, (sysS (fun y => { y with recovery := true })).sys.recovery, decide (((pcS (fun p => { p with phase := .service })).pc 0).phase ≠ .train)] = true := by decide +kernel
theorem test_wit_BanksChangePowerStateAndOwner : all [
  decide ((own.bank 0).trans = none), (let s := own.updBank 0 (fun b => { b with trans := some (.hibernate, false) }); decide ((s.bank 0).trans = some (.hibernate, false)) && s.bankIdle 0),
  (let s := own.updBank 0 (fun b => { b with st := .off, trans := some (.on, false) }); decide ((s.bank 0).st = .off) && decide ((s.bank 0).trans = some (.on, false))),
  (let s := own.updBank 0 (fun b => { b with trans := some (.off, false), zeroing := [(0, 256)] }); !s.bankIdle 0), decide ((own.bank 0).handover = none),
  (let s := own.updBank 0 (fun b => { b with handover := some (0x7FF, 100000) }); decide ((s.bank 0).handover = some (0x7FF, 100000)) && s.bankIdle 0 && !s.orphansFor 0),
  (let s := tagS { held := true, abandoned := true, bulk := some 0, port := 4 } own; s.orphansFor 0),
  (let s := jobS (.transfer) .segWrite [0] (own.updBank 0 (fun b => { b with trans := some (.hibernate, false) })); decide (s.jobs.length = 1)),
  (let s := own.updBank 0 (fun b => { b with handover := some (0x401, 100000) }); isDevice 0x401 && decide (0x401 ≠ 0x7FF) && s.bankIdle 0 && !s.orphansFor 0),
  (let s := jobS (.handover 0) .bnkHandover [0, 1] (own.updBank 0 (fun b => { b with handover := some (1, 100000) })); (s.findJob (fun j => decide (j = .handover 0))).isSome)] = true := by decide +kernel
theorem test_wit_InputsBlocksPulsesAndCellsTakeEffect : all [
  rdy.power.pwrgd, !(pwrS (fun p => { p with pwrgd := false })).power.pwrgd, decide ((0 : Nat) ≤ 1048) && decide (64488 ≤ (65535 : Nat)) && decide (¬ (30000 : Nat) ≤ 1048),
  ((rdy.updInput 0 (fun x => { x with settling := true })).input 0).settling, decide (stampOf 100000 5 < stampOf 100000 4 + 131072), !(rdy.input 0).settling && decide ((rdy.input 0).lastStamp = none),
  (let x := (rdy.updInput 0 (fun x => { x with holdUntil := 65536 * 200000 })).input 0; !x.legacy && decide (stampOf 100000 5 < x.holdUntil)), decide (¬ stampOf 100000 5 < (rdy.input 0).holdUntil),
  decide ((rdy.slot 0).st = 0), (let s := rdy.updSlot 0 (fun k => { k with st := 1, func := 1, n := 1, timeoutLc := 1000, blk := { from_ := 6553600000 } }); decide ((s.slot 0).st ≠ 0) && decide (((s.slot 0).measure s.tbOff).2.1 = none)),
  (let s := rdy.updSlot 0 (fun k => { k with st := 1, func := 0, n := 1, timeoutLc := 1000, blk := { from_ := 6553600000, evs := [{ t := 6553601000, start := true }, { t := 6553700000, stop := true }] } })
   (((s.slot 0).measure s.tbOff).2.1).isSome),
  decide ((rdy.eo 0).dues = []) && decide ((rdy.eo 0).endAt = none), decide (((rdy.updEo 0 (fun e => { e with dues := [100010] })).eo 0).dues = [100010]), decide (((rdy.updEo 0 (fun e => { e with endAt := some 100020 })).eo 0).endAt = some 100020),
  (let d := ((rdy.cell 0).upTo rdy.lc).look (((rdy.cell 0).upTo rdy.lc).w + 4); decide (d.dues = [])),
  (let s := rdy.updCell 0 (fun c => { c with at_ := 100000, cfgAt := 99000, dues := [100003] }); let d := ((s.cell 0).upTo s.lc).look (((s.cell 0).upTo s.lc).w + 4); decide (d.dues ≠ []))] = true := by decide +kernel
theorem test_wit_AdaptationAndCalibrationBatchesCommit : all [
  (let s := own.updAoc 0 (fun a => { a with windows := 4 }); decide (4 ≤ (s.aoc 0).windows) && decide ((s.aoc 0).pending ≠ 2) && s.calfUp), decide (¬ 4 ≤ (own.aoc 0).windows),
  (let s := own.updAoc 0 (fun a => { a with pending := 1 }); !(s.aoc 0).freeze && decide ((s.aoc 0).pending = 1) && s.calfUp), decide ((own.aoc 0).pending ≠ 1), decide (rdy.cal.batch = none),
  (let b : Batch := { kind := 1 }; decide (b.vals = none) && !b.boot && decide (b.kind ≠ 3) && decide (valsFail b [] = none)),
  ([0, 1, 2, 3, 4, 5, 6, 7] : List Nat).any (fun c => runsCheck 0 c), decide (({} : BatchEnd).failure = none),
  (let b : Batch := { kind := 3, blob := [(0, 5)], vals := some [] }; decide (b.blob ≠ []) && decide (b.vals = some [])),
  ([3, 4, 5, 6] : List Nat).all (fun p => decide ((rdy.proc p).st ≠ 1)), decide (((procS 3 1).proc 3).st = 1)] = true := by decide +kernel
theorem test_wit_WatchdogsRestartProcessors : all ([0, 1, 2, 3, 6, 7].map (fun p => rdy.procRuns p && !(procS p 2).procRuns p &&
    decide (2 ≤ ((rdy.updProc p (fun x => { x with restarts := [90000, 95000] })).recentRestarts p).length) && decide ((rdy.recentRestarts p).length < 2)) ++ [
  rdy.mgmtUp, !(procS 0 1).mgmtUp, rdy.power.pwrgd && decide (((procS 0 1).proc 0).st = 1) && !rdy.sys.restarting && !rdy.sys.recovery && decide (1 ≤ rdy.fw.boot),
  decide (((procS 1 1).proc 1).st = 1) && decide (rdy.fw.boot = 2) && (procS 1 1).mgmtUp, decide (State.reset.fw.boot = 0) && decide ((State.reset.proc 0).st = 1), decide ((rdy.proc 1).st ≠ 1),
  decide (rdy.dieHolders 0 = []), decide (own.dieHolders 0 = [0])]) = true := by decide +kernel
theorem test_wit_TemperatureLevelsTripsAndTheColdPlate : all [
  !(pwrS (fun p => { p with pwrgd := false })).power.pwrgd, rdy.power.pwrgd && decide (rdy.tmp.level = 0) && decide (rdy.power.phase = .running) && !rdy.tmp.coldRaised && rdy.mgmtUp,
  ([1, 2, 3] : List Nat).all (fun l =>
    let a := (({ rdy with lc := 100000000 } : State).updSensor 0 (fun x => { x with since := (List.range 3).map (fun i => if i < l then some 60000000 else none) })).readSensor 0 0x7FFF
    decide ((a.sensor 0).levelAt a.lc = l) && decide (l ≠ (a.sensor 0).level)),
  (let a := (({ rdy with lc := 100000000, tmp := { rdy.tmp with level := 1 } } : State).updSensor 0 (fun x => { x with level := 1, since := [some 60000000, none, none] })).readSensor 0 0
   decide ((a.sensor 0).levelAt a.lc = 0) && decide ((a.updSensor 0 (fun x => { x with level := 0 })).topLevel < a.tmp.level)),
  (let a := rdy.readSensor 0 0x7FFF; decide ((a.sensor 0).levelAt a.lc = 0)), ([Phase.starting, .pwrgdLow] : List Phase).all (fun f => decide ((pwrS (fun p => { p with phase := f })).power.phase = f)),
  (let u := ({ rdy with lc := 1600000007, tmp := { rdy.tmp with faceSince := some 7 } } : State).readSensor 9 11521; decide (u.tmp.faceSince = some 7) && decide (7 + 1600000000 ≤ u.lc) && !u.tmp.coldRaised),
  (let u := ({ rdy with lc := 1600000007, tmp := { rdy.tmp with faceSince := some 7, coldRaised := true } } : State).readSensor 9 11008; decide (u.tmp.faceSince = some 7) && decide (7 + 1600000000 ≤ u.lc) && u.tmp.coldRaised),
  (let u := ({ rdy with lc := 1600000006, tmp := { rdy.tmp with faceSince := some 7 } } : State).readSensor 9 11521; decide (¬ 7 + 1600000000 ≤ u.lc)),
  decide ((rdy.updSensor 0 (fun x => { x with level := 2 })).topLevel = 2), decide ((rdy.updSensor 0 (fun x => { x with level := 3 })).topLevel = 3),
  (let s : State := { rdy with tmp := { rdy.tmp with level := 2 } }; decide (s.topLevel < s.tmp.level)), decide ((pwrS (fun p => { p with phase := .off })).power.phase ≠ .running), !(noMgmt).mgmtUp,
  ({ rdy with tmp := { rdy.tmp with coldRaised := true } } : State).tmp.coldRaised] = true := by decide +kernel
theorem test_wit_OnlyPf0SendsClockPackets : all ([(.clkConfig, [1, 10000000]), (.clkStep, [1]), (.clkSync, [1, 0, 0, 1600, 0]), (.timeSet, [1, 0])].map (fun (e : Op × List W32) =>
    decide (formCheck e.1 (pk e.1 e.2) rdy.tb = none) && decide (formCheck e.1 { pk e.1 e.2 with fn := 1 } rdy.tb = none) && !blocked (newRun e.1 { pk e.1 e.2 with fn := 1 } rdy) rdy.seen) ++ [
  decide (packetOf (.clkConfig {}) = some (.clkConfig, {})), rdy.sys.ready && !rdy.sys.recovery, (let s := sysS (fun y => { y with ready := false }); !s.sys.ready && s.mgmtUp && s.power.pwrgd)]) = true := by decide +kernel
theorem test_wit_StampedEdgesStartADeadTime : all [
  !(rdy.input 0).settling && decide ((rdy.input 0).lastStamp = none) && decide (¬ stampOf 100000 0 < (rdy.input 0).holdUntil), decide (stampOf 100002 0 = stampOf 100000 0 + 131072), decide (stampOf 100001 65535 < stampOf 100000 0 + 131072),
  (let x := (rdy.updInput 0 (fun x => { x with holdUntil := 65536 * 200000 })).input 0; !x.legacy && decide (stampOf 100000 5 < x.holdUntil))] = true := by decide +kernel
theorem test_wit_ColdPlateIsReportedOnce : all [
  rdy.power.pwrgd && !rdy.tmp.coldRaised && decide (256 * 45 < (11521 : BitVec 16).toInt), decide ((11008 : BitVec 16).toInt ≤ 256 * 43),
  (let s : State := { rdy with lc := 1600000007, tmp := { rdy.tmp with faceSince := some 7 } }; decide (s.tmp.faceSince = some 7) && decide (7 + 1600000000 ≤ s.lc) && !s.tmp.coldRaised),
  (let s : State := { rdy with lc := 1600000007, tmp := { rdy.tmp with faceSince := some 7, coldRaised := true } }; decide (7 + 1600000000 ≤ s.lc) && s.tmp.coldRaised),
  decide (¬ 256 * 45 < (11520 : BitVec 16).toInt), ({ rdy with tmp := { rdy.tmp with coldRaised := true } } : State).tmp.coldRaised] = true := by decide +kernel
theorem test_wit_SameCycleEventsCoalesce : all [
  decide ((own.ev 0).lastAt ≠ some 100000), (let s := evS (fun e => { e with source := softSource }); s.fnLive 0 && s.heldByFn 0 (s.ev 0).owner && decide ((s.ev 0).source = softSource))] = true := by decide +kernel
theorem test_wit_FwScheduleMustCarryReject : all [
  rdy.power.pwrgd && rdy.mgmtUp && !blocked (newRun .fwSchedule { pk .fwSchedule [] with late := 1 } rdy) rdy.seen && decide (({ pk .fwSchedule [] with late := 1 } : Pkt).late ≠ 0)] = true := by decide +kernel

/-! ### Well-formedness: one term each check refuses, beside one it takes -/
theorem test_wf_packet : all [Instr.wf (.ping (pk .ping [7])), !Instr.wf (.ping { length := 6, payload := [0, 0] }), !Instr.wf (.ping { length := 0 }),
  !Instr.wf (.ping { length := 1028, payload := List.replicate 1024 0 }), !Instr.wf (.ping { length := 8, payload := [0] })] = true := by decide +kernel
theorem test_wf_unknown_opcode : all [Instr.wf (.unknownOpcode 0x77 {}), !Instr.wf (.unknownOpcode 0x10 {}), !Instr.wf (.unknownOpcode 0x77 { length := 5 })] = true := by decide +kernel
theorem test_wf_register_write : all [Instr.wf (.registerWrite 0 false 4 false 1), !Instr.wf (.registerWrite 0 false 2 false 1), !Instr.wf (.registerWrite 0 false 4 true 1),
  !Instr.wf (.registerWrite 0 false 4 false 0x100000000)] = true := by decide +kernel
/-- The bound of the recovery buffer, on a list too long to write out. -/
theorem test_wf_recovery_buffer : Instr.wf (.fwRcvCmdWrite 0 (List.replicate 983041 0)) = false := by
  simp only [Instr.wf, List.length_replicate]; decide
theorem test_wf_uart_write : all [Instr.wf (.uartWrite 0 0 0 [1, 2, 3, 4]), !Instr.wf (.uartWrite 0 0 0 [1, 2, 3])] = true := by decide +kernel
theorem test_wf_uart_write_long : Instr.wf (.uartWrite 0 0 0 (List.replicate 4097 0)) = false := by
  simp only [Instr.wf, List.length_replicate]; decide
theorem test_wf_others : all [!Instr.wf (.uartBadFrame false 5), Instr.wf (.uartBadFrame true 5), !Instr.wf (.bootImagesLoaded [{}] none false),
  !Instr.wf (.monitorFrame [{}] [0, 0, 0]), !Instr.wf (.monitorFrame (List.replicate 16 {}) [0]), !Instr.wf (.flrVf 0), !Instr.wf (.d3hotToD0 0),
  !Instr.wf (.configurationRequest 1 (.writeSriov true 4 false)), !Instr.wf (.linkTraining 3 1), !Instr.wf (.linkTraining 4 0), !Instr.wf (.linkTraining 4 6),
  !Instr.wf (.timerTick 5), Instr.wf (.timerTick 6), Instr.wf .lossOfLock] = true := by decide +kernel
/-- No row of the table gives bits. -/
theorem test_no_row_has_bits : decodeTableWord 128 0x41 = none := rfl

/-! ### Single steps against the spec's worked examples -/
/-- The state after a command, State.reset where it stops. -/
def after (i : Instr) (s : State) : State := match exec i s with | .next t => t | _ => State.reset
/-- spec/03_clocking_timebase.md, the example after R56: Q of three references. -/
theorem test_reference_ratio : ratioQ 100000000 = 1 ∧ ratioQ 500000000 = 5 ∧ ratioQ 41600000 = 13 := by decide +kernel
/-- spec/04_host_interface_commands.md, the example after R114: SCN_START_AT of scene 5 is accepted 15,800,000 LC ahead. -/
theorem test_scene_start_accepted :
    let s : State := { (own.updScene 5 (fun _ => { used := true, members := [(0, 0)] })).updCtx 0 (fun x => { x with st := .armed }) with tb := 0x100030D40 }
    let t := after (.scnStartAt { pk .scnStartAt [5] with ring := 2, tag := 0x0123, act := 0x100F42400 }) s
    t.held.map (fun c => (c.status, c.interim, c.ring, c.tag, c.time)) = [(.accepted, true, 2, 0x0123, 0x100030D40)] ∧
    t.sched.map (fun e => e.act) = [0x100F42400] := by decide +kernel
/-- The same file, the example of SKIP_TO_NEXT: four repetitions skipped, 96 left from T + 6,400. -/
theorem test_skip_to_next :
    let t := after (.pchStrobe { pk .pchStrobe [1, 1600, 100] with late := 2, act := 100000 }) { own with tb := 105000 }
    t.sched.map (fun e => (e.act, e.reps, e.run.skipped)) = [(106400, 96, 4)] := by decide +kernel
/-- spec/05_contexts_engines.md, the example of R146: the last free voice goes to context 600, the pointer to 601, then NO_RESOURCE. -/
theorem test_last_voice :
    let s : State := { ((List.range 256).foldl (fun (s : State) v => if v = 62 then s else s.updVoice v (fun x => { x with owner := some 1 })) rdy) with allocPtr := 512 }
    let s := (s.updCtx 600 (fun x => { x with st := .bound })).updCtx 40 (fun x => { x with st := .bound })
    let p := { pk .ctxClaim [0xFFFF0001] with ctx := 600 }
    let t := after (.ctxClaim p) s
    let u := after (.ctxClaim { p with ctx := 40, ring := 1 }) t
    (t.held.map (fun c => (c.status, c.result)), t.allocPtr) = ([(.ok, 62)], 601) ∧ u.held.map (fun c => c.status) = [.ok, .noResource] := by decide +kernel
/-- spec/10_waveform_memory_fetch.md, the example of R278, and its continuation in spec/11_dram_controller_integrity.md. -/
theorem test_address_mapping : pcOf 655429 = 35 ∧ unitOf 655429 = 10241 ∧ pcOf 655488 = 2 ∧ rowOf 10241 = 80 ∧ dbankOf 10241 = 0 := by decide +kernel
/-- spec/08_fast_converters.md, the two examples of R235 and R237: an enable at 1,000,050, and one during a ramp. -/
theorem test_start_boundary :
    ({ own with lc := 1000050, tb := 1000050 } : State).startCount 0 = 1000128 ∧
    ({ fchS (fun f => { f with rampEnd := some 1000756 }) with lc := 1000600, tb := 1000600 } : State).startCount 0 = 1000768 := by decide +kernel
/-- spec/07_voices_channel_datapath.md, the example of R220: the edge at 100,000.25 LC reaches the boundary of 100,004 at 0.19 LC. -/
theorem test_edge_stamp : stampOf 100004 12452 = 65536 * 100000 + 16384 := by decide
/-- The same file, the example after R206: 12 × 2^42 after a continuous hop, 36 × 2^41 after a coherent one. -/
theorem test_hop_phase :
    let v : Voice := { acc := BitVec.ofNat 48 (11 * 2 ^ 42), freq := BitVec.ofNat 48 (2 ^ 42), ncoAt := 4000011 }
    let h : Hop := { at_ := 4000012, freq := BitVec.ofNat 48 (3 * 2 ^ 41) }
    (v.hopTo 0 h).acc.toNat = 12 * 2 ^ 42 ∧ (v.hopTo 0 { h with coherent := true }).acc.toNat = 36 * 2 ^ 41 := by decide
/-- spec/06_sequence_programs.md, the example of SCN_DEFINE. -/
theorem test_scene_members :
    let s := (rdy.updCtx 12 (fun x => { x with st := .armed, gen := 3 })).updCtx 480 (fun x => { x with st := .armed, fn := 2, gen := 0x11 })
    ((after (.scnDefine (pk .scnDefine [2, 0x0003000C, 0x001101E0])) s).scene 0).members = [(12, 3), (480, 0x11)] := by decide +kernel
/-- The same example: the pre-run begins 8,192 LC before the start instant. -/
theorem test_pre_run_lead :
    let s : State := { timedS .prgStart [] 0x100F42400 (ctxS (fun x => { x with st := .armed })) with lc := 0x100030D40, tb := 0x100030D40 }
    let t := after (.preRunStart 0) s
    t.tb = 0x100F40400 ∧ (t.ctx 0).preRun = true ∧ (t.ctx 0).startS = 0x100F42400 := by decide +kernel
/-- spec/05_contexts_engines.md, the example of R144: a play action of a 512-sample segment lasts 64 LC in WIDE mode. -/
theorem test_play_duration : (playAction (runS [1, 0, 1] (segS { len64 := 8, ext := 1, nExt := 1 })) 0 [1, 0, 1] 100000 none).dur = 64 := by decide +kernel
/-- spec/02_module_connectors_power.md, Table 2.11. -/
theorem test_capability : (after .capability State.reset).out = [.smb [0xB0, 0x51]] := by decide +kernel
/-- spec/17_firmware_boot_update.md, Table 17.11: PING echoes its word, status first. -/
theorem test_uart_ping : (after (.uartPing 0x04030201) State.reset).out = [.uart 0x81 [0, 1, 2, 3, 4]] := by decide +kernel

end Sys2Proof.Tests
end

section
/-! O57: the permission rule of the clock packets (R54), from the order of checks of R491. -/
namespace Sys2Proof.Machine

variable {c : Instr} {op : Op} {p : Pkt} {s : State} {st : Status} {res : Nat}

/-- A packet that fails one of steps 1 to 3 of R491 gets its final completion, and nothing else happens. -/
theorem exec_turnedAway (hc : packetOf c = some (op, p)) (hp : s.power.pwrgd = true) (hm : s.mgmtUp = true)
    (hb : blocked (newRun op p s) s.seen = false) (h : preChecks (newRun op p s) s.seen = some (st, res)) :
    exec c s = .next (s.seen.complete (newRun op p s) st res) := by
  rw [exec_packet hc, submit_launch hp hm hb]
  simp [launch, h, orElse]

/-- A well-formed packet is judged by the state of the device, then by permission. -/
theorem preChecks_of_formCheck (hf : formCheck op p s.tb = none) :
    preChecks (newRun op p s) s.seen = orElse (deviceCheck op s.seen) (permCheck op p s.seen) := by
  simp [preChecks, hf, orElse]

/-- A device that is ready and not in recovery mode turns no packet away (R119). -/
theorem deviceCheck_of_ready (hrec : s.sys.recovery = false) (hrdy : s.sys.ready = true) : deviceCheck op s = none := by
  simp [deviceCheck, hrec, hrdy]

/-- CLK_CONFIG is not among the packets that are answered before READY (R54, R119). -/
theorem deviceCheck_clkConfig_of_not_ready (hrec : s.sys.recovery = false) (hrdy : s.sys.ready = false) :
    deviceCheck .clkConfig s = some (.busy, 0) := by
  simp [deviceCheck, hrec, hrdy]

/-- An opcode of PF0 alone is refused to a virtual function before any other clause of permission (R93). -/
theorem permCheck_of_pf0Only (hop : pf0Only op = true) (hfn : p.fn ≠ 0) : permCheck op p s = some (.notOwner, 0) := by
  simp [permCheck, hop, hfn]

/-- The packets of R54. -/
def ClockOp (op : Op) : Prop := op = .clkConfig ∨ op = .clkStep ∨ op = .clkSync ∨ op = .timeSet

theorem ClockOp.pf0Only (h : ClockOp op) : pf0Only op = true := by
  obtain rfl | rfl | rfl | rfl := h <;> rfl

theorem ClockOp.namesCtx (h : ClockOp op) : namesCtx op = false := by
  obtain rfl | rfl | rfl | rfl := h <;> rfl

/-- A clock packet names the clock, the alignment to a SYNC mark, or nothing. -/
theorem ClockOp.resources_subset (h : ClockOp op) : resources op p s ⊆ [(13, 0), (13, 1)] := by
  obtain rfl | rfl | rfl | rfl := h
  case inr.inr.inl =>
    have hr : resources .clkSync p s = if pb p 4 0 then [(13, 1)] else [] := by simp [resources, names, namesOwn, namesAlso]
    rw [hr]
    split <;> simp
  all_goals simp [resources, names, namesOwn, namesAlso, usesCtx]

/-- What a clock packet names has no holder: no function is refused it. -/
theorem ClockOp.foreign_unheld (h : ClockOp op) {e : Nat × Nat} (he : e ∈ resources op p s) (f : Nat) :
    s.foreign f e = false ∧ s.unheld e = false := by
  have hmem := h.resources_subset he
  simp only [List.mem_cons, List.not_mem_nil, or_false] at hmem
  obtain rfl | rfl := hmem <;> simp [State.foreign, State.unheld]

/-- PF0 passes the permission check with every clock packet. -/
theorem ClockOp.permCheck_of_pf0 (h : ClockOp op) (hfn : p.fn = 0) : permCheck op p s = none := by
  have hres : (resources op p s).any (fun e => s.foreign p.fn e || (decide (op ≠ .segPin) && s.unheld e)) = false := by
    rw [List.any_eq_false]
    intro e he
    obtain ⟨hforeign, hunheld⟩ := h.foreign_unheld he p.fn
    simp [hforeign, hunheld]
  have hstatus : op ≠ .ctxStatus := by rintro rfl; simp [ClockOp] at h
  have hdefine : op ≠ .scnDefine := by rintro rfl; simp [ClockOp] at h
  unfold permCheck
  rw [hres]
  simp [hfn, h.namesCtx, hstatus, hdefine]

/-- Settles O57: a virtual function fails the first clause of permission, CLK_CONFIG before READY the device's check, and PF0
passes because no context can hold what a clock packet names. -/
theorem onlyPf0SendsClockPackets : Obligations.OnlyPf0SendsClockPackets := by
  intro c op p s hc hp hm hb hf hrec turned
  have turned_of {st : Status} (hop : op ≠ .fwSchedule)
      (h : orElse (deviceCheck op s.seen) (permCheck op p s.seen) = some (st, 0)) : turned st := by
    refine ⟨_, exec_turnedAway hc hp hm hb ((preChecks_of_formCheck hf).trans h), ?_⟩
    rw [State.complete_eq s.seen st 0 hop]
    exact ⟨rfl, rfl, rfl, rfl⟩
  refine ⟨fun hop => ⟨fun hfn hrdy => ?_, fun hfn => ClockOp.permCheck_of_pf0 hop hfn⟩, fun hop hrdy => ?_⟩
  · have hdev : deviceCheck op s.seen = none := deviceCheck_of_ready hrec hrdy
    have hperm : permCheck op p s.seen = some (.notOwner, 0) := permCheck_of_pf0Only (ClockOp.pf0Only hop) hfn
    exact turned_of (by rintro rfl; simp at hop) (by rw [hdev, hperm]; rfl)
  · subst hop
    exact turned_of (by decide) (by rw [deviceCheck_clkConfig_of_not_ready (s := s.seen) hrec hrdy]; rfl)

end Sys2Proof.Machine
end

section
/-! O10: FW_SCHEDULE carries LATE = REJECT (R112), from step 1 of the order of checks of R491. -/
namespace Sys2Proof.Machine

variable {op : Op} {p : Pkt} {s : State} {st : Status} {res : Nat} {now : W64}

/-- REJECT is the one LATE value of FW_SCHEDULE (R112). -/
theorem lateOk_fwSchedule_iff : lateOk .fwSchedule p = true ↔ p.late = 0 := by
  constructor
  · intro h
    simp only [lateOk, Bool.and_eq_true] at h
    simpa using h.2
  · intro h
    simp [lateOk, h]

/-- A LATE value that the opcode does not allow is an error of form, whatever else the packet carries. -/
theorem formCheck_of_not_lateOk (hop : known op = true) (hl : lateOk op p = false) : formCheck op p now = some (.badParam, 0) := by
  simp [formCheck, hop, hl]

/-- An error of form decides before the state of the device and permission are looked at (R491). -/
theorem preChecks_of_formCheck_fails (hf : formCheck op p s.tb = some (st, res)) :
    preChecks (newRun op p s) s.seen = some (st, res) := by
  simp [preChecks, hf, orElse]

/-- Settles O10: the LATE value fails the form check, which comes first, so the packet is turned away and never reaches
acceptance, where an activation would be scheduled. -/
theorem fwScheduleMustCarryReject : Obligations.FwScheduleMustCarryReject := by
  intro p s hp hm hb hlate
  have hl : lateOk .fwSchedule p = false := Bool.eq_false_iff.2 (mt lateOk_fwSchedule_iff.1 hlate)
  have hpre : preChecks (newRun .fwSchedule p s) s.seen = some (.badParam, 0) :=
    preChecks_of_formCheck_fails (formCheck_of_not_lateOk rfl hl)
  refine ⟨_, exec_turnedAway rfl hp hm hb hpre, ?_⟩
  rw [complete_run s.seen .badParam 0]
  exact ⟨rfl, rfl, rfl⟩

end Sys2Proof.Machine
end

section
/-! O60: two events of one source on one channel in one lane cycle (R363). -/
namespace Sys2Proof.Machine

variable {s : State} {k x u : Nat} {a : Option Nat} {l : List Nat} {fn : Fin 64} {v : W32}

/-- One more event counted as lost to coalescing (R363). -/
def EvCh.coalesce (e : EvCh) : EvCh := { e with coalesced := sat 255 (e.coalesced + 1) }

/-- One more event registered in lane cycle `u`. -/
def EvCh.registered (u : Nat) (e : EvCh) : EvCh := { e with events := sat (2 ^ 24 - 1) (e.events + 1), lastAt := some u }

/-! ### One channel -/

theorem State.register_of_lastAt (h : (s.ev k).lastAt = some u) : s.register k u a = s.updEv k EvCh.coalesce := if_pos h

theorem State.register_of_lastAt_ne (h : (s.ev k).lastAt ≠ some u) :
    s.register k u a = { s.updEv k (EvCh.registered u) with regs := s.regs ++ [{ ch := k, u := u, stamp := a }] } := if_neg h

/-- A first event of the lane cycle writes its channel; the list of registered events is no part of a channel. -/
theorem State.ev_register_of_lastAt_ne (h : (s.ev k).lastAt ≠ some u) :
    (s.register k u a).ev x = if x = k then (s.ev k).registered u else s.ev x := by
  rw [State.register_of_lastAt_ne h]
  exact State.updEv_ev s k _ x

/-- An event leaves every other channel alone. -/
theorem State.ev_register_of_ne (hx : x ≠ k) : (s.register k u a).ev x = s.ev x := by
  by_cases h : (s.ev k).lastAt = some u
  · simp [State.register_of_lastAt h, hx]
  · simp [State.ev_register_of_lastAt_ne h, hx]

/-- Registered or coalesced, an event leaves its lane cycle as the channel's last one. -/
theorem State.lastAt_register_self : ((s.register k u a).ev k).lastAt = some u := by
  by_cases h : (s.ev k).lastAt = some u
  · simp [State.register_of_lastAt h, EvCh.coalesce, h]
  · simp [State.ev_register_of_lastAt_ne h, EvCh.registered]

/-- The next event of the lane cycle only counts as coalesced. -/
theorem State.register_register (b : Option Nat) :
    (s.register k u a).register k u b = (s.register k u a).updEv k EvCh.coalesce :=
  State.register_of_lastAt State.lastAt_register_self

/-! ### A source that fires on its channels -/

/-- A channel that has registered an event in the lane cycle keeps that, whatever channel the next event is on. -/
theorem State.lastAt_register (h : (s.ev x).lastAt = some u) : ((s.register k u a).ev x).lastAt = some u := by
  by_cases hx : x = k
  · subst hx; exact State.lastAt_register_self
  · rw [State.ev_register_of_ne hx, h]

theorem State.lastAt_each_register (h : (s.ev x).lastAt = some u) :
    ((s.each l (fun k t => t.register k u none)).ev x).lastAt = some u := by
  induction l generalizing s with
  | nil => exact h
  | cons k l ih => exact ih (State.lastAt_register h)

/-- After a run over channels, each of them has registered an event in the lane cycle. -/
theorem State.lastAt_each_register_of_mem (hx : x ∈ l) :
    ((s.each l (fun k t => t.register k u none)).ev x).lastAt = some u := by
  induction l generalizing s with
  | nil => cases hx
  | cons k l ih =>
    obtain rfl | hx := List.mem_cons.1 hx
    · exact State.lastAt_each_register (s := s.register x u none) State.lastAt_register_self
    · exact ih hx

/-- A run over channels that have all registered an event in the lane cycle registers nothing. -/
theorem State.regs_each_register (h : ∀ x ∈ l, (s.ev x).lastAt = some u) :
    (s.each l (fun k t => t.register k u none)).regs = s.regs := by
  induction l generalizing s with
  | nil => rfl
  | cons k l ih =>
    obtain ⟨hk, hl⟩ := List.forall_mem_cons.1 h
    calc ((s.register k u none).each l (fun k t => t.register k u none)).regs
        = (s.register k u none).regs := ih fun x hx => State.lastAt_register (hl x hx)
      _ = s.regs := by simp [State.register_of_lastAt hk]

/-! ### A software fire (R94) -/

/-- What decides who may fire a channel, and when, an event leaves as it was. -/
theorem State.register_lc_sys_ctxs :
    (s.register k u a).lc = s.lc ∧ (s.register k u a).sys = s.sys ∧ (s.register k u a).ctxs = s.ctxs := by
  unfold State.register
  split <;> exact ⟨rfl, rfl, rfl⟩

theorem State.owner_ev_register : ((s.register k u a).ev x).owner = (s.ev x).owner :=
  (congrArg EvCh.owner (State.register_faultOnly.ev x) :)

theorem State.source_ev_register : ((s.register k u a).ev x).source = (s.ev x).source :=
  (congrArg EvCh.source (State.register_faultOnly.ev x) :)

/-- Which function a unit's holder belongs to is read off the contexts alone. -/
theorem State.heldByFn_congr {t : State} {f : Nat} {o : Option Nat} (h : t.ctxs = s.ctxs) : t.heldByFn f o = s.heldByFn f o := by
  cases o with
  | none => rfl
  | some c =>
    have hctx : t.ctx c = s.ctx c := by simp only [State.ctx, h]
    simp only [State.heldByFn, State.ctxOf, hctx]

/-- Function `fn` exists and holds channel `k`, whose source is SOFTWARE. -/
def State.MayFire (s : State) (fn : Fin 64) (k : Nat) : Prop :=
  s.fnLive fn = true ∧ s.heldByFn fn (s.ev k).owner = true ∧ (s.ev k).source = softSource

theorem exec_sysFnFire_of_mayFire (h : s.MayFire fn (bits v 0 8)) :
    exec (.sysFnFire fn v) s = .next (s.register (bits v 0 8) s.lc none) := by
  obtain ⟨hlive, hheld, hsource⟩ := h
  show execSysFnFire fn v s = _
  simp [execSysFnFire, State.fnFire, hlive, hheld, hsource]

theorem State.MayFire.register (h : s.MayFire fn k) : (s.register k u a).MayFire fn k := by
  obtain ⟨hlive, hheld, hsource⟩ := h
  obtain ⟨-, hsys, hctxs⟩ := State.register_lc_sys_ctxs (s := s) (k := k) (u := u) (a := a)
  refine ⟨?_, ?_, ?_⟩
  · rw [← hlive]; simp only [State.fnLive, hsys]
  · rw [State.owner_ev_register, State.heldByFn_congr hctxs, hheld]
  · rw [State.source_ev_register, hsource]

/-- Settles O60: a channel's last lane cycle is that of any event it has just taken, registered or coalesced, so every further
event of the lane cycle is counted and not registered. -/
theorem sameCycleEventsCoalesce : Obligations.SameCycleEventsCoalesce := by
  intro s k u a b q fn v
  refine ⟨⟨fun h => ⟨?_, ?_⟩, State.register_register b⟩, ?_, fun hlive hheld hsource => ?_⟩
  · rw [State.register_of_lastAt_ne h]
  · simp [State.ev_register_of_lastAt_ne h, EvCh.registered]
  · exact State.regs_each_register fun x hx => State.lastAt_each_register_of_mem hx
  · have hmay : s.MayFire fn (bits v 0 8) := ⟨hlive, hheld, hsource⟩
    refine ⟨_, exec_sysFnFire_of_mayFire hmay, rfl, ?_⟩
    rw [exec_sysFnFire_of_mayFire hmay.register, State.register_lc_sys_ctxs.1, State.register_register]
    rfl

end Sys2Proof.Machine
end

section
/-! O58: the dead time that a stamped edge starts (R378), and what a crossing does in it, in a hold-off, and outside both. -/
namespace Sys2Proof.Machine

variable {s : State} {i : Fin 16} {rising : Bool} {frac : BitVec 16} {stamp : Nat}

/-! ### What the consumers of an edge leave alone: every input -/

theorem State.inputs_register {k u : Nat} {a : Option Nat} : (s.register k u a).inputs = s.inputs :=
  State.register_faultOnly.read State.inputs

theorem State.inputs_faultS {c code : Nat} {v : Int} : (s.faultS c code v).inputs = s.inputs :=
  State.fault_faultOnly.read State.inputs

theorem State.inputs_updJump {c j : Nat} {g : Jump → Jump} : (s.updJump c j g).inputs = s.inputs := rfl

theorem State.inputs_overrunJmp {c j : Nat} : (s.overrunJmp c j).inputs = s.inputs := rfl

/-- A jump slot overruns, faults its context besides, or takes the event in place of the slots after it. -/
theorem State.inputs_jumpEvent {c j b frac : Nat} : (s.jumpEvent c j b frac).inputs = s.inputs := by
  unfold State.jumpEvent
  extract_lets settled x others
  have hothers : others.inputs = settled.inputs := State.each_keeps State.inputs fun _ _ => rfl
  split
  · exact State.inputs_overrunJmp
  split
  · exact State.inputs_faultS
  split
  · exact State.inputs_overrunJmp
  split
  · exact State.inputs_overrunJmp
  · exact State.inputs_updJump.trans hothers

theorem State.inputs_feedSlot {k code t : Nat} : (s.feedSlot k code t).inputs = s.inputs := by
  unfold State.feedSlot
  extract_lets
  split <;> rfl

/-- An edge goes to event channels, jump slots and measurement slots, none of which writes an input. -/
theorem State.inputs_inputEvent {i b u frac : Nat} {primary : Bool} : (s.inputEvent i primary b u frac).inputs = s.inputs := by
  unfold State.inputEvent State.feedAll
  extract_lets chs registered js jumped
  calc _ = jumped.inputs := State.each_keeps State.inputs fun _ _ => State.inputs_feedSlot
    _ = registered.inputs := State.each_keeps State.inputs fun _ _ => State.inputs_jumpEvent
    _ = s.inputs := State.each_keeps State.inputs fun _ _ => State.inputs_register

theorem State.input_inputEvent {i b u frac k : Nat} {primary : Bool} : (s.inputEvent i primary b u frac).input k = s.input k := by
  simp only [State.input, State.inputs_inputEvent]

theorem State.input_bump {k : Nat} : s.bump.input k = s.input k := rfl

/-! ### The three outcomes of a crossing -/

/-- A crossing stamped `stamp` falls in the dead time of the input's last stamped edge (R378). -/
def Input.InDeadTime (x : Input) (stamp : Nat) : Prop := ∃ e, x.lastStamp = some e ∧ stamp < e + 131072

/-- A crossing stamped `stamp` falls in the input's hold-off, which only native conditioning has (R377). -/
def Input.InHoldOff (x : Input) (stamp : Nat) : Prop := x.legacy = false ∧ stamp < x.holdUntil

/-- The input after an edge stamped `stamp`. -/
def Input.stamped (rising : Bool) (stamp : Nat) (x : Input) : Input :=
  { x with
    edges := sat (2 ^ 32 - 1) (x.edges + 1), level := rising, lastStamp := some stamp
    holdUntil := if x.legacy then x.holdUntil else stamp + ceilDiv (x.holdoff * 1048576) 10 }

/-- The lane cycle in which the event of an edge at `frac` registers: the present one, or within 10 ps of a boundary perhaps the
one beside it (R362). -/
def State.edgeCycle (s : State) (frac : Nat) : Nat :=
  let odd := Config.freeNat s.fresh % 2
  if frac ≤ 1048 then s.lc + odd else if 64488 ≤ frac then s.lc - odd else s.lc

/-- The model's test of the dead time. -/
theorem Input.inDeadTime_iff {x : Input} :
    (x.lastStamp.map (fun l => decide (stamp < l + 131072))).getD false = true ↔ x.InDeadTime stamp := by
  cases h : x.lastStamp <;> simp [Input.InDeadTime, h]

/-- The model's test of the hold-off. -/
theorem Input.inHoldOff_iff {x : Input} : (!x.legacy && decide (stamp < x.holdUntil)) = true ↔ x.InHoldOff stamp := by
  simp [Input.InHoldOff]

/-- In a dead time, or before the comparator has settled, a crossing is counted as DEAD, whatever its polarity. -/
theorem exec_inputEdge_of_dead (hp : s.power.pwrgd = true)
    (h : (s.input i).settling = true ∨ (s.input i).InDeadTime (stampOf s.lc frac.toNat)) :
    exec (.inputEdge i rising frac) s = .next (s.updInput i (fun x => { x with dead := sat 65535 (x.dead + 1) })) := by
  show execInputEdge i rising frac s = _
  rw [← Input.inDeadTime_iff] at h
  simp [execInputEdge, hp, h]

section
variable (hp : s.power.pwrgd = true) (hs : (s.input i).settling = false)
  (hd : ¬ (s.input i).InDeadTime (stampOf s.lc frac.toNat))
include hp hs hd

theorem exec_inputEdge_of_heldOff (hh : (s.input i).InHoldOff (stampOf s.lc frac.toNat)) :
    exec (.inputEdge i rising frac) s = .next (s.updInput i (fun x => { x with heldOff := sat 65535 (x.heldOff + 1) })) := by
  show execInputEdge i rising frac s = _
  rw [← Input.inDeadTime_iff] at hd
  rw [← Input.inHoldOff_iff] at hh
  simp only [execInputEdge, hp, hs, hd, hh]
  rfl

/-- Outside both, a crossing of either polarity is stamped, and its event goes to the consumers. -/
theorem exec_inputEdge_of_stamped (hh : ¬ (s.input i).InHoldOff (stampOf s.lc frac.toNat)) :
    exec (.inputEdge i rising frac) s =
      .next (((s.updInput i (Input.stamped rising (stampOf s.lc frac.toNat))).inputEvent i ((s.input i).primary rising)
        s.lc (s.edgeCycle frac.toNat) frac.toNat).bump) := by
  show execInputEdge i rising frac s = _
  rw [← Input.inDeadTime_iff] at hd
  rw [← Input.inHoldOff_iff] at hh
  simp only [execInputEdge, hp, hs, hd, hh]
  rfl

end

/-- Settles O58: the dead time is tested before the hold-off, so a crossing in both counts as DEAD; and what a stamped edge
sets in its input stands, since no consumer of the edge writes an input. -/
theorem stampedEdgesStartADeadTime : Obligations.StampedEdgesStartADeadTime := by
  intro s i rising frac hs hp x stamp dead held
  refine ⟨fun hd => exec_inputEdge_of_dead hp (.inr hd), fun hd hh => exec_inputEdge_of_heldOff hp hs hd hh, fun hd hh => ?_⟩
  refine ⟨_, exec_inputEdge_of_stamped hp hs hd hh, ?_⟩
  rw [State.input_bump, State.input_inputEvent, State.updInput_input, if_pos rfl]
  exact ⟨rfl, rfl, rfl⟩

end Sys2Proof.Machine
end

section
/-! O59: COLDPLATE_HIGH of the top face, sensor 9, and the readings that raise it, end it and only read it (R446). -/
namespace Sys2Proof.Machine

variable {s t u : State} {v : BitVec 16} {high : Bool}

/-! ### What leaves the thermal levels alone -/

/-- `t` has the level of the device and the levels of the sensors of `s`. -/
def State.SameLevels (s t : State) : Prop := t.tmp.level = s.tmp.level ∧ ∀ k, (t.sensor k).level = (s.sensor k).level

theorem State.SameLevels.trans (h : s.SameLevels t) (k : t.SameLevels u) : s.SameLevels u := by
  obtain ⟨hdev, hsensor⟩ := h
  obtain ⟨kdev, ksensor⟩ := k
  exact ⟨kdev.trans hdev, fun i => (ksensor i).trans (hsensor i)⟩

/-- The thermal levels are none of what raising a fault touches. -/
theorem State.FaultOnly.sameLevels (h : s.FaultOnly t) : s.SameLevels t :=
  ⟨h.read fun x => x.tmp.level, fun k => h.read fun x => (x.sensor k).level⟩

/-- `s` with the given state of COLDPLATE_HIGH and of the run of readings towards its change. -/
def State.setFace (s : State) (raised : Bool) (since : Option Nat) : State :=
  { s with tmp := { s.tmp with coldRaised := raised, faceSince := since } }

theorem State.setFace_sameLevels {raised : Bool} {since : Option Nat} : s.SameLevels (s.setFace raised since) :=
  ⟨rfl, fun _ => rfl⟩

theorem State.tmpEvent_sameLevels {i : Nat} : s.SameLevels (s.tmpEvent i) := ⟨rfl, fun _ => rfl⟩

/-! ### A reading of the top face -/

/-- A reading on the other side of the bound that counts now: at or below 43 °C once COLDPLATE_HIGH is raised, above 45 °C
before. -/
def State.FaceTowards (s : State) (v : BitVec 16) : Prop :=
  if s.tmp.coldRaised then v.toInt ≤ 256 * 43 else 256 * 45 < v.toInt

/-- A run of readings that began in lane cycle `o`, if there is one, is `n` LC long in lane cycle `lc`. -/
def RunFor (o : Option Nat) (n lc : Nat) : Prop := ∃ t, o = some t ∧ t + n ≤ lc

/-- A reading that begins a run does not complete it. -/
theorem runFor_getD_iff {o : Option Nat} {n lc : Nat} (hn : 0 < n) : RunFor (some (o.getD lc)) n lc ↔ RunFor o n lc := by
  cases o with
  | none => simp [RunFor, hn.ne']
  | some t => rfl

/-- The model's test of a run. -/
theorem runFor_iff {o : Option Nat} {n lc : Nat} : (o.map (fun t => decide (t + n ≤ lc))).getD false = true ↔ RunFor o n lc := by
  cases o <;> simp [RunFor]

/-- The face has read towards the change for 1 s, which is 1,600,000,000 LC. -/
def State.FaceSecond (s : State) : Prop := RunFor s.tmp.faceSince 1600000000 s.lc

/-- Sensor 9 after a reading; unlike the sensors below 9 it has no runs towards a thermal level. -/
def Sensor.faceRead (v : BitVec 16) (x : Sensor) : Sensor :=
  { x with reading := v, max := if x.max.toInt < v.toInt then v else x.max }

/-- A reading of the face writes sensor 9, and begins, continues or ends the run of readings towards the change. -/
theorem State.readSensor_face [Decidable (s.FaceTowards v)] :
    s.readSensor 9 v = (s.updSensor 9 (Sensor.faceRead v)).setFace s.tmp.coldRaised
      (if s.FaceTowards v then some (s.tmp.faceSince.getD s.lc) else none) := by
  cases h : s.tmp.coldRaised <;>
    simp [State.readSensor, State.setFace, State.updSensor, State.FaceTowards, Sensor.faceRead, h]

theorem State.updSensor_faceRead_sameLevels : s.SameLevels (s.updSensor 9 (Sensor.faceRead v)) := by
  refine ⟨rfl, fun k => ?_⟩
  rw [State.updSensor_sensor]
  exact ite_read (π := Sensor.level) fun _ => rfl

theorem State.readSensor_face_sameLevels : s.SameLevels (s.readSensor 9 v) := by
  classical
  rw [State.readSensor_face]
  exact State.updSensor_faceRead_sameLevels.trans State.setFace_sameLevels

theorem State.readSensor_face_coldRaised : (s.readSensor 9 v).tmp.coldRaised = s.tmp.coldRaised := by
  classical
  rw [State.readSensor_face]; rfl

theorem State.readSensor_face_log : (s.readSensor 9 v).log = s.log := by
  classical
  rw [State.readSensor_face]; rfl

/-- The second is over after a reading exactly when the reading is towards the change and the second was over before it. -/
theorem State.faceSecond_readSensor_iff : (s.readSensor 9 v).FaceSecond ↔ s.FaceTowards v ∧ s.FaceSecond := by
  classical
  rw [State.readSensor_face]
  by_cases htow : s.FaceTowards v
  · rw [if_pos htow, and_iff_right htow]
    exact runFor_getD_iff (by decide)
  · simp [State.FaceSecond, State.setFace, RunFor, htow]

/-! ### The three outcomes of a report on sensor 9 -/

section
variable (hp : s.power.pwrgd = true)
include hp

/-- A report before the second is over, with a reading on the wrong side of the bound, or of the state that COLDPLATE_HIGH is
in already, is only a reading. -/
theorem exec_coldplateHigh_reads (h : ¬ (s.FaceTowards v ∧ s.FaceSecond) ∨ high = s.tmp.coldRaised) :
    exec (.coldplateHigh v high) s = .next (s.readSensor 9 v) := by
  show execColdplateHigh v high s = _
  rw [← State.faceSecond_readSensor_iff, State.FaceSecond, ← runFor_iff, Bool.not_eq_true, ← State.readSensor_face_coldRaised (v := v)] at h
  simp [execColdplateHigh, hp, h]

section
variable (htow : s.FaceTowards v) (hsec : s.FaceSecond)
include htow hsec

theorem exec_coldplateHigh_raises (hr : s.tmp.coldRaised = false) :
    exec (.coldplateHigh v true) s =
      let t := ((s.readSensor 9 v).tmpEvent 3).setFace true none
      .next (t.fault 0xB06 0 .p none 9 (detT t.tmp.level v 11520)) := by
  show execColdplateHigh v true s = _
  have h := runFor_iff.2 (State.faceSecond_readSensor_iff.2 ⟨htow, hsec⟩)
  rw [← State.readSensor_face_coldRaised (v := v)] at hr
  simp only [execColdplateHigh, hp, h, hr]
  rfl

theorem exec_coldplateHigh_ends (hr : s.tmp.coldRaised = true) :
    exec (.coldplateHigh v false) s = .next ((s.readSensor 9 v).setFace false none) := by
  show execColdplateHigh v false s = _
  have h := runFor_iff.2 (State.faceSecond_readSensor_iff.2 ⟨htow, hsec⟩)
  rw [← State.readSensor_face_coldRaised (v := v)] at hr
  simp only [execColdplateHigh, hp, h, hr]
  rfl

end
end

/-- Settles O59: once COLDPLATE_HIGH is raised a report of it is only a reading, and neither a reading nor the change of what
is raised nor its record writes a level. -/
theorem coldPlateIsReportedOnce : Obligations.ColdPlateIsReportedOnce := by
  intro s v hp raise levels second towards
  have hread : s.SameLevels (s.readSensor 9 v) := State.readSensor_face_sameLevels
  refine ⟨fun hr htow hsec => ?_, fun hr => ?_, fun hr htow hsec => ?_, fun high h => ?_⟩
  · let t := ((s.readSensor 9 v).tmpEvent 3).setFace true none
    have hfault : t.FaultOnly (raise t) := State.fault_faultOnly
    have hlevels : s.SameLevels t := hread.trans (State.tmpEvent_sameLevels.trans State.setFace_sameLevels)
    exact ⟨t, exec_coldplateHigh_raises hp htow hsec hr, hfault.read fun x => x.tmp.coldRaised, State.readSensor_face_log (v := v),
      hlevels.trans hfault.sameLevels⟩
  · exact ⟨_, exec_coldplateHigh_reads hp (.inr hr.symm), State.readSensor_face_log, State.readSensor_face_coldRaised.trans hr,
      hread⟩
  · exact ⟨_, exec_coldplateHigh_ends hp htow hsec hr, State.readSensor_face_log (v := v), rfl, hread.trans State.setFace_sameLevels⟩
  · exact ⟨_, exec_coldplateHigh_reads hp (.inl h), State.readSensor_face_log, State.readSensor_face_coldRaised, hread⟩

end Sys2Proof.Machine
end

section
/-! O1 to O5: what a step does with the queue, and what every command keeps. -/
namespace Sys2Proof.Machine

variable {c : Instr} {s t : State}

/-- A command that is no store completes, and keeps the queue and both memories. -/
theorem exec_kept (h : mayStore c = false) : outKept (exec c s) = some s.kept.2 := by
  cases c
  all_goals first | (cases h; done) | (unfold exec; simp)

/-- A command that may store completes, keeps the queue, and leaves canonical memories canonical. -/
theorem exec_good_of_mayStore (h : mayStore c = true) : outGood s.kept.2 (exec c s) := by
  cases c
  case memDiag p => exact execMemDiag_good p s _ .refl
  all_goals first | (cases h; done) | (unfold exec; simp)

/-- Every command completes, keeps the queue, and leaves canonical memories canonical. -/
theorem exec_good (c : Instr) (s : State) : outGood s.kept.2 (exec c s) := by
  cases h : mayStore c
  case false => exact .of_kept (exec_kept h)
  case true => exact exec_good_of_mayStore h

/-- Settles O4: every command is good, and what is good keeps the queue. -/
theorem everyCommandCompletesAndLeavesTheQueue : Obligations.EveryCommandCompletesAndLeavesTheQueue := by
  intro c s
  obtain ⟨t, ht, hg⟩ := exec_good c s
  exact ⟨t, ht, hg.1⟩

/-- A lane cycle with no command stores nothing. -/
theorem idle_kept : (idle s).kept = s.kept := by
  unfold idle
  split
  · exact State.tick_kept s
  · rfl

/-- Settles O2: a step is a command, which is good, or an idle lane cycle, which stores nothing. -/
theorem everyStepKeepsMemoryCanonical : Obligations.EveryStepKeepsMemoryCanonical := by
  intro s t hwf hstep
  unfold step at hstep
  split at hstep
  · cases hstep
    exact State.memWf_iff.2 (by rw [idle_kept]; exact State.memWf_iff.1 hwf)
  · obtain ⟨u, hu, hg⟩ := exec_good _ _
    cases hu.symm.trans hstep
    exact hg.2 hwf

/-- Settles O3: after reset nothing is listed. -/
theorem resetMemoryCanonical : Obligations.ResetMemoryCanonical := ⟨⟨rfl, rfl⟩, rfl, rfl, rfl⟩

/-- Settles O5: a command that is no store keeps the two memories whole, so each of their bytes. -/
theorem otherCommandsLeaveMemoryUnchanged : Obligations.OtherCommandsLeaveMemoryUnchanged := by
  intro c s t hc ht a
  have hk : t.kept.2 = s.kept.2 := by simpa [ht] using exec_kept (s := s) hc
  obtain ⟨hd, hr⟩ : t.sql.dram = s.sql.dram ∧ t.bnk.ram = s.bnk.ram := by
    simpa [State.kept, -State.kept_eta'] using congrArg Prod.snd hk
  rw [hd, hr]
  exact ⟨rfl, rfl⟩

end Sys2Proof.Machine
end

section
/-! O1, O6 to O9, O11, O12: the order of checks of a packet (R491), and the packets of Table 4.20. -/
namespace Sys2Proof.Machine

variable {c : Instr} {op : Op} {p : Pkt} {s t : State} {st : Status} {res : Nat} {m : Meaning}

/-- One lane cycle forward, the streams of the channels run one lane cycle. -/
theorem State.tick_eq (s : State) : s.tick = { s with
    lc := s.lc + 1, tb := s.tb + 1, lockmon := s.lockmonIn 1, summers := (State.cycles 1 s).summers, conv := (State.cycles 1 s).conv } := by
  have hlc : s.lc < s.lc + 1 := Nat.lt_succ_self _
  simp [State.tick, State.advanceTo, hlc, State.tbAt]

/-- Settles O1: the queue decides, and an idle lane cycle is one tick. -/
theorem stepRunsFrontCommand : Obligations.StepRunsFrontCommand := by
  refine ⟨fun c cs s h => ?_, fun s h hp => ?_, fun s h hp => ?_⟩
  · simp [step, h]
  · simp [step, h, idle, hp, State.tick_eq]
  · simp [step, h, idle, hp]

/-! ### Packets turned away and packets that wait -/

/-- Settles O6: the checks decide before anything else is looked at. -/
theorem packetTurnedAwayOnlyCompletes : Obligations.PacketTurnedAwayOnlyCompletes := by
  intro c op p s st res hc hp hm hb h
  rw [exec_turnedAway hc hp hm hb h, complete_run s.seen st res]
  rfl

/-- How a packet is taken in: without power good not at all, held back it waits, else it is launched. -/
theorem submit_eq : submit op m p s =
    if s.power.pwrgd = false then s.seen
    else if s.mgmtUp = false ∨ blocked (newRun op p s) s.seen = true then { s.seen with waiting := s.waiting ++ [newRun op p s] }
    else launch m (newRun op p s) s.seen := by
  have hu : submit op m p s =
      if (!s.power.pwrgd) = true then s.seen
      else if (!s.mgmtUp || blocked (newRun op p s) s.seen) = true then { s.seen with waiting := s.seen.waiting ++ [newRun op p s] }
      else launch m (newRun op p s) s.seen := rfl
  rw [hu]
  simp

/-- Settles O7: each reason to wait comes before the launch. -/
theorem packetWaitsItsTurn : Obligations.PacketWaitsItsTurn := by
  intro c op p s hc
  refine ⟨fun hp hw => ?_, fun hp => ?_⟩
  · rw [exec_packet hc, submit_eq, if_neg (by simp [hp]), if_pos hw]
  · rw [exec_packet hc, submit_eq, if_pos hp]

/-- Settles O11: each clause is the first of the checks that fails. -/
theorem deviceStateAndPermissionChecks : Obligations.DeviceStateAndPermissionChecks := by
  intro c op p s hc hp hm hb hf
  have turned {st : Status} (h : preChecks (newRun op p s) s.seen = some (st, 0)) :
      ∃ t, exec c s = .next t ∧ t.held = s.held ++ [finalOf op p st 0 s.seen] := by
    refine ⟨_, exec_turnedAway hc hp hm hb h, ?_⟩
    rw [complete_run s.seen st 0]
    rfl
  have ready (hrec : s.sys.recovery = false) (hrdy : s.sys.ready = true) :
      preChecks (newRun op p s) s.seen = permCheck op p s.seen := by
    rw [preChecks_of_formCheck hf, deviceCheck_of_ready (s := s.seen) hrec hrdy]; rfl
  refine ⟨fun hrec h1 h2 h3 h4 h5 h6 => turned ?_, fun hrec hrdy h1 h2 h3 h4 h5 => turned ?_,
    fun hrec hrdy hop hfn => turned ?_, fun hrec hrdy hctx hst hfn => turned ?_⟩
  · simp [preChecks_of_formCheck hf, deviceCheck, hrec, h1, h2, h3, h4, h5, h6, orElse]
  · simp [preChecks_of_formCheck hf, deviceCheck, hrec, hrdy, h1, h2, h3, h4, h5, orElse]
  · rw [ready hrec hrdy, permCheck_of_pf0Only hop hfn]
  · simp [ready hrec hrdy, permCheck, hctx, hst, hfn]

/-! ### Timed packets -/

/-- What keeps a packet out of the scheduler (R17). -/
def State.schedFull (s : State) (fn : Fin 64) : Prop :=
  4096 ≤ s.countSched (fun t => t.run.timed) ∨ 1024 ≤ s.countSched (fun t => t.run.timed && decide (t.run.p.fn = fn))

/-- A timed packet in time that passes the checks made at acceptance goes to the scheduler. -/
theorem exec_holdTimed (hc : packetOf c = some (op, p)) (hp : s.power.pwrgd = true) (hm : s.mgmtUp = true)
    (hb : blocked (newRun op p s) s.seen = false) (h1 : preChecks (newRun op p s) s.seen = none)
    (h2 : (meaningOf op).accept (newRun op p s) s.seen = none) (ha : p.act ≠ 0) (hl : s.tb.toNat + leadOf op ≤ p.act.toNat) :
    exec c s = .next (holdTimed (meaningOf op) (newRun op p s) p.act (repeatOf op p) 0 s.seen) := by
  rw [exec_packet hc, submit_launch hp hm hb]
  have k : ¬ p.act.toNat < s.tb.toNat + leadOf op := by omega
  simp only [launch, h1, h2, orElse]
  exact next_eq ((if_neg ha).trans (if_neg k))

theorem holdTimed_of_full {r : Run} {act : W64} {reps k : Nat} (h : s.schedFull r.p.fn) :
    holdTimed m r act reps k s = s.complete r .noResource 0 := by
  unfold holdTimed
  rw [if_pos (by simpa [State.schedFull] using h)]

/-- What acceptance does to the scheduler besides holding the packet: an AOC_CTRL NEUTRAL withdraws its channel's timed COMMITs (R403),
any other packet nothing. -/
def withdrawnBy (op : Op) (p : Pkt) (x : Timed) : Bool :=
  (decide (op = .aocCtrl) && decide (acAction p = 2)) &&
    (decide (x.run.op = .aocCtrl) && decide (acChan x.run.p = acChan p) && decide (acAction x.run.p = 3))

/-- A completion joins those held, whatever packet it is of. -/
theorem State.complete_held (t : State) (r : Run) (st : Status) (res : Nat) : t.held <+: (t.complete r st res).held := by
  unfold State.complete State.completeAt State.noteLast
  split <;> exact List.prefix_append _ _

/-- The timed COMMITs withdrawn leave the scheduler, each with a completion. -/
theorem State.dropCommit_sched (s : State) (k : Nat) :
    (s.dropCommit k).sched = s.sched.filter (fun x => !(decide (x.run.op = .aocCtrl) && decide (acChan x.run.p = k) && decide (acAction x.run.p = 3))) ∧
    s.held <+: (s.dropCommit k).held ∧
    (s.sched.all (fun x => !(decide (x.run.op = .aocCtrl) && decide (acChan x.run.p = k) && decide (acAction x.run.p = 3))) = true →
      (s.dropCommit k).held = s.held) := by
  have hsched {l : List Timed} {u : State} : (l.foldl (fun s t => s.complete t.run .busy 0) u).sched = u.sched :=
    State.foldl_keeps State.sched fun _ _ => by unfold State.complete State.completeAt State.noteLast; split <;> rfl
  have hheld {l : List Timed} {u : State} : u.held <+: (l.foldl (fun s t => s.complete t.run .busy 0) u).held := by
    induction l generalizing u with
    | nil => exact List.prefix_refl _
    | cons t l ih => exact (State.complete_held u t.run .busy 0).trans ih
  unfold State.dropCommit
  extract_lets hit ts s1 s2
  have h2s : s2.sched = s.sched.filter (fun x => !hit x) := hsched
  have h2h : s.held <+: s2.held := hheld (u := s1)
  refine ⟨?_, ?_, fun hall => ?_⟩
  · split <;> exact h2s
  · split <;> exact h2h
  · have hts : ts = [] := List.filter_eq_nil_iff.2 fun x hx => by
      have hkeep : (!hit x) = true := List.all_eq_true.1 hall x hx
      simpa using hkeep
    have h2 : s2 = s1 := by simp [s2, hts]
    simp [hts, h2, s1]

/-- Settles O8: the scheduler's room decides, and only a NEUTRAL does more than being held. -/
theorem timedPacketIsAcceptedAndHeld : Obligations.TimedPacketIsAcceptedAndHeld := by
  intro c op p s hc hp hm hb h1 h2 ha hl
  refine ⟨fun h3 h4 => ?_, fun hfull => ?_⟩
  · have hacc : acceptsNow op p s = true := acceptsNow_iff.2 ⟨hp, hm, hb, ha, hl, h1, h2, h3, h4⟩
    intro neutral out now
    let e : Timed := { run := { newRun op p s with timed := true, seq := s.seq + 1 }, act := p.act, period := periodOf op p, reps := repeatOf op p }
    have hsched : (s.accepting op p).sched = s.sched ++ [e] := rfl
    have hheld : (s.accepting op p).held = s.held ++ [now] := rfl
    refine ⟨_, e, exec_accept hc hacc, ?_⟩
    by_cases hn : op = .aocCtrl ∧ acAction p = 2
    · obtain ⟨rfl, hn⟩ := hn
      have he : out e = false := by simp [out, e, hn]
      have hhold : (meaningOf .aocCtrl).hold e.run (s.accepting .aocCtrl p) = (s.accepting .aocCtrl p).dropCommit (acChan p) := by
        simp [meaningOf, mAocCtrl, e, hn]
      obtain ⟨ks, kh, kn⟩ := State.dropCommit_sched (s.accepting .aocCtrl p) (acChan p)
      have hout : ∀ x, out x = (decide (x.run.op = .aocCtrl) && decide (acChan x.run.p = acChan p) && decide (acAction x.run.p = 3)) := by
        simp [out, neutral, hn]
      simp only [← hout] at ks kn
      rw [hhold]
      refine ⟨?_, rfl, rfl, rfl, rfl, rfl, rfl, ?_, ?_⟩
      · rw [ks, hsched]; simp [he]
      · rw [← hheld]; exact kh
      · intro hall
        rw [kn (by rw [hsched]; simpa [he] using hall), hheld]
    · have hout : ∀ x, out x = false := by
        intro x; simp only [out, neutral, Bool.and_eq_false_iff, decide_eq_false_iff_not]; tauto
      have hfilter : s.sched.filter (fun x => !out x) = s.sched := by simp [hout]
      have hhold : ((meaningOf op).hold e.run (s.accepting op p)).sched = s.sched ++ [e] ∧
          ((meaningOf op).hold e.run (s.accepting op p)).held = s.held ++ [now] := by
        cases op
        case aocCtrl =>
          have hn : ¬ acAction p = 2 := fun h => hn ⟨rfl, h⟩
          simp only [meaningOf, mAocCtrl]
          split
          · exact ⟨rfl, rfl⟩
          · next h => exact absurd h hn
          · exact ⟨rfl, rfl⟩
        all_goals exact ⟨rfl, rfl⟩
      rw [hfilter]
      exact ⟨hhold.1, rfl, rfl, rfl, rfl, rfl, rfl, by rw [hhold.2], fun _ => hhold.2⟩
  · refine ⟨_, exec_holdTimed hc hp hm hb h1 h2 ha hl, ?_⟩
    rw [holdTimed_of_full (by exact hfull), complete_run s.seen .noResource 0]
    exact ⟨rfl, rfl⟩

/-! ### Late packets -/

/-- Raising faults between is seen neither by the completions decided nor by the firmware's registers. -/
theorem State.FaultOnly.withHeld (h : s.FaultOnly t) (l : List Cpl) (f : Fw) :
    State.FaultOnly { s with held := l, fw := f } { t with held := l, fw := f } where
  calm := congrArg (fun x : State => { x with held := l, fw := f }) h.calm
  ctx := h.ctx
  fn := h.fn
  cq := h.cq
  sys := h.sys
  ev := h.ev
  regs := h.regs

/-- A late packet that passes its checks and says REJECT is logged and completes with LATE. -/
theorem launch_late_reject {r : Run} (h1 : preChecks r s = none) (h2 : m.accept r s = none) (h3 : periodCheck r.op r.p = none)
    (h4 : m.check r s = none) (ha : r.p.act ≠ 0) (hl : r.p.act.toNat < s.tb.toNat + leadOf r.op) (hr : r.p.late = 0) :
    launch m r s = (logLate r .late 0 s).complete r .late 0 := by
  simp only [launch, h1, h2, orElse]
  rw [if_neg ha, if_pos hl]
  simp [late, h3, h4, hr, orElse]

/-- Settles O9: the record and the completion are all there is, and the completion is the one the packet had without the record. -/
theorem latePacketIsRejectedAndLogged : Obligations.LatePacketIsRejectedAndLogged := by
  intro c op p s hc hp hm hb h1 h2 h3 h4 ha hl hr r
  have hfault : s.seen.FaultOnly (logLate (newRun op p s) .late 0 s.seen) := State.fault_faultOnly
  have hheld : (logLate (newRun op p s) .late 0 s.seen).held = s.held := hfault.read State.held
  have hfw : (logLate (newRun op p s) .late 0 s.seen).fw = s.fw := hfault.read State.fw
  have hseq : (logLate (newRun op p s) .late 0 s.seen).seq = s.seq + 1 := hfault.read State.seq
  refine ⟨_, by rw [exec_packet hc, submit_launch hp hm hb, launch_late_reject h1 h2 h3 h4 ha hl hr], fun ho => ?_, ?_⟩
  · have hent : s.seen.Enters (logLate (newRun op p s) .late 0 s.seen) r := State.fault_enters hm ho
    rw [complete_run _ .late 0 hseq]
    exact hent
  · rw [complete_run _ .late 0 hseq, hheld, hfw, hfault.finalOf]
    exact hfault.withHeld _ _

/-! ### The packets of Table 4.20 -/

/-- An unknown opcode fails the check of form. -/
theorem preChecks_unknown {b : BitVec 8} : preChecks (newRun (.unknown b) p s) s.seen = some (.badOpcode, 0) := by
  simp [preChecks, formCheck, known, orElse]

/-- Settles O12: each packet's effect is its opcode's meaning. -/
theorem housekeepingPacketsComplete : Obligations.HousekeepingPacketsComplete := by
  intro p s
  refine ⟨fun h => ?_, fun h => ?_, fun h => ?_, fun h => ?_, fun b hp hm hb => ?_⟩
  · rw [exec_act rfl rfl h]
    exact next_answered rfl
  · rw [exec_act rfl rfl h]
    exact next_answered (by simp [meaningOf, mPing, pf, bits]; rfl)
  · rw [exec_act rfl rfl h]
    rfl
  · intro named
    have hact : exec (.schedCancel p) s = .next (actSchedCancel (newRun .schedCancel p s) s.seen) := exec_act rfl rfl h
    have htarget : cancelTarget (newRun .schedCancel p s) s.seen = s.sched.find? named := rfl
    refine ⟨fun hnone => ?_, fun e he => ?_⟩
    · have hfind : s.sched.find? named = none := by simpa [List.find?_eq_none] using hnone
      rw [hact]
      exact next_answered (by simp only [actSchedCancel, htarget, hfind]; rfl)
    · rw [hact]
      refine next_answered (by simp only [actSchedCancel, htarget, he]; rfl) (hs := State.seq_seen ?_)
      rw [State.undoTimed_kept]; rfl
  · rw [exec_turnedAway (by rfl) hp hm hb preChecks_unknown]
    exact next_answered rfl (hop := by simp)

end Sys2Proof.Machine
end

section
/-! O13, O15, O16: the clock and the timebase (spec/03_clocking_timebase.md). -/
namespace Sys2Proof.Machine

variable {op : Op} {p : Pkt} {s t : State} {st : Status} {res : Nat}

/-! ### What the shared operations leave of the clock, the time and the order of acceptance -/

/-- A reading of what ending packets in execution does not touch. -/
theorem State.endJobs_read {β : Type} (π : State → β) {q : Job → Bool}
    (h : ∀ (t : State) a b c, π { t with held := a, fw := b, jobs := c } = π t := by intros; rfl) :
    π (s.endJobs q st res) = π s := by
  obtain ⟨he, -, -⟩ := State.endJobs_effect (s := s) (q := q) (st := st) (res := res)
  rw [← h (s.endJobs q st res) [] {} [], he, h]

theorem State.endKind_read {β : Type} (π : State → β) {q : JobKind → Bool}
    (h : ∀ (t : State) a b c, π { t with held := a, fw := b, jobs := c } = π t := by intros; rfl) :
    π (s.endKind q st res) = π s := State.endJobs_read π h

theorem State.flushNco_read {β : Type} (π : State → β) (h : ∀ (t : State) v, π { t with voices := v } = π t := by intros; rfl) :
    π s.flushNco = π s := by rw [← h s.flushNco [], State.flushNco_frame, h]

theorem State.tmuLoad_read {β : Type} (π : State → β)
    (h : ∀ (t : State) a b, π { t with slots := a, jobs := b } = π t := by intros; rfl) : π s.tmuLoad = π s := by
  rw [← h s.tmuLoad [] [], State.tmuLoad_frame, h]

theorem State.laneSwitch_read {β : Type} (π : State → β) {d : Bool}
    (h : ∀ (t : State) a b, π { t with clk := a, slots := b } = π t := by intros; rfl) : π (s.laneSwitch d) = π s := by
  rw [← h (s.laneSwitch d) {} [], State.laneSwitch_frame, h]

theorem State.advanceTo_read {β : Type} (π : State → β) {l : Nat}
    (h : ∀ (t : State) a b c d e, π { t with lc := a, tb := b, lockmon := c, summers := d, conv := e } = π t := by intros; rfl) :
    π (s.advanceTo l) = π s := by
  unfold State.advanceTo
  split
  · exact h s _ _ _ _ _
  · rfl

/-! ### The clock packets -/

/-- CLK_CONFIG's disable: a DCO that a SELF holds stays, any other is released. -/
theorem actClkConfig_off (hoff : clkOn p = false) {r : Run} (hr : r.p = p) :
    let s0 := s.endKind (fun k => decide (k = .clkLock) || decide (k = .clkSlew)) .busy 1
    let u := s0.traceLost.laneSwitch false
    actClkConfig r s = (if s.clk.selfHold then { s0 with clk := { s.clk with enable := false, q := 0, qualified := false } } else
      { u with clk := { u.clk with
        locked := false, refSrc := 0, band := 0, slewEnd := none, rangeWarn := false, align := .free, slewing := u.clk.rampEnd.isSome
        enable := false, q := 0, qualified := false } }).complete r .ok 0 := by
  subst hr
  intro s0 u
  have hclk : s0.clk = s.clk := State.endKind_read State.clk
  unfold actClkConfig
  simp only [hoff]
  cases hself : s.clk.selfHold
  case true => simp [s0, hclk, hself, State.updClk]
  case false => simp [s0, u, hclk, hself, State.updClk, State.unlock, State.fixSlew]

/-- CLK_CONFIG of another reference, or of a DCO that does not follow one, takes the new one and acquires. -/
theorem actClkConfig_acquires (hon : clkOn p = true) (h : s.clk.following = false ∨ clkChanges p s.clk = true) {r : Run} (hr : r.p = p) :
    let u := (s.endKind (fun k => decide (k = .clkLock) || decide (k = .clkSlew)) .busy 1).traceLost.laneSwitch false
    actClkConfig r s = ({ u with clk := { u.clk with
      locked := false, band := 0, slewEnd := none, rangeWarn := false, slewing := u.clk.rampEnd.isSome
      enable := true, refHz := (pw p 5).toNat, bw := BitVec.ofNat 2 (pf p 4 1 2), retHost := pb p 4 3, phaseOffset := BitVec.ofNat 16 (pf p 4 16 16)
      q := ratioQ (pw p 5).toNat, align := .acquiring, refSrc := 1, offset := 0, qualified := false } } : State).addJob r .clkLock := by
  subst hr
  intro u
  have hclk : (s.endKind (fun k => decide (k = .clkLock) || decide (k = .clkSlew)) .busy 1).clk = s.clk := State.endKind_read State.clk
  have hstay : (s.clk.following && !clkChanges r.p s.clk) = false := by
    rcases h with h | h <;> simp [h]
  unfold actClkConfig
  simp only [hon, hclk, hstay]
  simp [u, State.unlock, State.updClk, State.fixSlew]

/-- CLK_CONFIG with the reference kept: the grid stands at its offset, or slews to it. -/
theorem actClkConfig_keeps (hon : clkOn p = true) (hf : s.clk.following = true) (hc : clkChanges p s.clk = false) {r : Run} (hr : r.p = p) :
    let s0 := s.endKind (fun k => decide (k = .clkLock) || decide (k = .clkSlew)) .busy 1
    let off := BitVec.ofNat 16 (pf p 4 16 16)
    let old := s.clk.offsetNow s.lc
    let back := decide (s.clk.align = .lost ∧ s.clk.qualified = true)
    let k := { s.clk with
      retHost := pb p 4 3, phaseOffset := off, slewEnd := none, align := if back then .returning else s.clk.align
      refSrc := if back then 1 else s.clk.refSrc, slewing := s.clk.rampEnd.isSome || decide (s.clk.align = .returning) || back }
    actClkConfig r s = if old = off then ({ s0 with clk := k } : State).complete r .ok 0 else ({ s0 with clk := { k with
      slewEnd := some (s.lc + slewLc old off), slewFrom := old, slewAt := s.lc, slewing := true } } : State).addJob r .clkSlew := by
  subst hr
  intro s0 off old back k
  have hclk : (s.endKind (fun k => decide (k = .clkLock) || decide (k = .clkSlew)) .busy 1).clk = s.clk := State.endKind_read State.clk
  have hlc : (s.endKind (fun k => decide (k = .clkLock) || decide (k = .clkSlew)) .busy 1).lc = s.lc := State.endKind_read State.lc
  have hstay : (s.clk.following && !clkChanges r.p s.clk) = true := by simp [hf, hc]
  unfold actClkConfig
  simp only [hon, hclk, hlc, hstay]
  by_cases ha : s.clk.align = .lost <;> cases hq : s.clk.qualified <;>
    simp [s0, off, old, k, back, ha, hq, hclk, hlc, State.fixSlew, State.updClk, State.startReturn]

/-- Settles O13: each packet is its opcode's meaning, with CLK_CONFIG's three cases. -/
theorem clockPacketsTakeEffect : Obligations.ClockPacketsTakeEffect := by
  intro p s
  refine ⟨fun h => ?_, fun h => ?_, fun h => ?_, fun h => ?_⟩
  · intro u
    have hclk : s.seen.flushNco.clk = s.clk := State.flushNco_read State.clk
    have htb : s.seen.flushNco.tb = s.tb := State.flushNco_read State.tb
    rw [exec_act rfl rfl h]
    refine next_answered (s := s) ?_ (hs := ?_)
    · simp only [meaningOf, mTimeSet, actTimeSet, State.updClk, hclk, htb]
      rfl
    · rw [State.fault_faultOnly.read State.seq]
      exact (State.tmuLoad_read State.seq).trans (State.flushNco_read State.seq)
  · intro s0 u off
    have hact : exec (.clkConfig p) s = .next (actClkConfig (newRun .clkConfig p s) s.seen) := exec_act rfl rfl h
    have hs0 : s0.seq = s.seq + 1 := State.endKind_read State.seq
    have hu : u.seq = s.seq + 1 := (State.laneSwitch_read State.seq).trans hs0
    rw [hact]
    refine ⟨fun hoff hself => ?_, fun hoff hself => ?_, fun hon hch => ?_, fun hon hf hch => ?_⟩
    · refine next_answered ?_ (hs := hs0)
      rw [actClkConfig_off hoff rfl, if_pos (by exact hself)]; rfl
    · refine next_answered ?_ (hs := hu)
      rw [actClkConfig_off hoff rfl, if_neg (by simp [hself])]
    · exact next_eq (actClkConfig_acquires (s := s.seen) hon hch rfl)
    · intro old back k
      have hkeeps := actClkConfig_keeps (s := s.seen) (r := newRun .clkConfig p s) hon hf hch rfl
      exact ⟨fun heq => next_answered (hkeeps.trans (if_pos heq)) (hs := hs0), fun hne => next_eq (hkeeps.trans (if_neg hne))⟩
  · have hact : exec (.clkStep p) s = .next (actClkStep (newRun .clkStep p s) s.seen) := exec_act rfl rfl h
    rw [hact]
    refine ⟨fun hno => next_eq ?_, fun hramp => next_eq ?_⟩
    · simp only [actClkStep, State.seen_fields, hno]
      rfl
    · have : s.clk.rampEnd.isSome = true := Option.isSome_iff_ne_none.2 hramp
      simp only [actClkStep, State.seen_fields, this, if_true]
      rfl
  · have hact : exec (.clkSync p) s = .next (actClkSync (newRun .clkSync p s) s.seen) := exec_act rfl rfl h
    rw [hact]
    refine ⟨fun harm => next_eq ?_, fun harm hno => next_answered ?_, fun a harm ha hm => next_answered (s := s) ?_ (hs := ?_)⟩
    · simp only [actClkSync, newRun_fields, harm, if_true]
      rfl
    · rcases hno with hno | ⟨a, ha, hm⟩
      · simp [actClkSync, harm, hno]
      · simp [actClkSync, harm, ha, hm]
    · simp only [actClkSync, newRun_fields, harm, State.seen_fields, ha, hm]
      rfl
    · exact State.endKind_read State.seq

end Sys2Proof.Machine
end

section
/-! O15, O16: what happens to the ADPLL, the reference and the timebase (spec/03_clocking_timebase.md). -/
namespace Sys2Proof.Machine

variable {s t : State} {st : Status} {res : Nat}

/-! ### The ADPLL (Table 3.6) -/

theorem State.stopForLock_clk {c : Nat} : (stopForLock c s).clk = s.clk := by
  have h : (s.hwStopAt c (s.lc + 1)).clk = s.clk := by
    unfold State.hwStopAt
    split
    case h_3 => exact State.endKind_read State.clk
    all_goals rfl
  unfold stopForLock
  split <;> first | exact h | rfl

/-- Stopping channels leaves the clock alone. -/
theorem State.each_stopForLock_clk {l : List Nat} : (s.each l stopForLock).clk = s.clk :=
  State.each_keeps State.clk fun _ _ => State.stopForLock_clk

/-- A lane-clock switch leaves what a SELF holds and the ramp in progress. -/
theorem State.laneSwitch_clk_fields {d : Bool} : (s.laneSwitch d).clk.selfHold = s.clk.selfHold ∧ (s.laneSwitch d).clk.q = s.clk.q ∧
    (s.laneSwitch d).clk.rampEnd = s.clk.rampEnd := by
  rw [State.laneSwitch_clk]
  exact ⟨rfl, rfl, rfl⟩

theorem execAdpllLock_acquiring {band : BitVec 8} {tune : BitVec 16} (he : s.clk.enable = true) (ha : s.clk.align = .acquiring) :
    let u := s.laneSwitch true
    execAdpllLock band tune s = .next (({ u with clk := { u.clk with
      locked := true, refSrc := 1, align := if s.clk.q = 1 then .aligned else .locked, band := band
      tuning := some (band, tune), locks := sat 65535 (s.clk.locks + 1), offset := 0
      events := orBits s.clk.events 0 } } : State).endKind (fun k => decide (k = .clkLock)) .ok 0) := by
  intro u
  unfold execAdpllLock
  rw [if_pos ⟨he, ha⟩]
  simp only [u, State.updClk, State.clkEvent, State.laneSwitch_clk]

/-- The loss of the DCO's lock, where a loss of the reference does not decide. -/
theorem execLossOfLock_unlocks (hl : s.clk.locked = true) (hd : s.refDecides = false) :
    let owners := s.mutedOwners
    let u := (s.each (Tbl.keysWhere (fun _ _ => true) s.fchs) stopForLock).laneSwitch false
    let v := ({ u with clk := { u.clk with
      locked := false, refSrc := if u.clk.selfHold then 0 else 1, align := if u.clk.selfHold then .free else .acquiring
      losses := sat 65535 (u.clk.losses + 1), selfHold := false, slewEnd := none, offset := 0, rangeWarn := false
      events := orBits u.clk.events 1, slewing := u.clk.rampEnd.isSome } } : State).abandonBatch 2
    let w := if u.clk.selfHold then { v with clk := { v.clk with band := 0 } } else v
    let x := if owners.isEmpty then w.fault 0x501 2 .p none 0 [] else owners.foldl (fun s c => s.fault 0x501 2 .cAndP (some c) 0 []) w
    execLossOfLock s = .next (x.fireSrc (srcIs 7 2048) x.lc) := by
  intro owners u v w x
  have hself : (s.each (Tbl.keysWhere (fun _ _ => true) s.fchs) stopForLock).clk.selfHold = u.clk.selfHold :=
    State.laneSwitch_clk_fields.1.symm
  unfold execLossOfLock
  rw [if_neg (by simp [hl, hd])]
  simp only [State.updClk, State.clkEvent, State.fixSlew, hself]
  by_cases hh : u.clk.selfHold = true
  · simp [x, w, v, owners, hh, u]
  · simp [x, w, v, owners, hh, u]

/-- Settles O15: each event's guard, then the next state as its meaning gives it. -/
theorem lockAndReferenceEvents : Obligations.LockAndReferenceEvents := by
  intro s band tune ok gap ppb dev
  refine ⟨fun he ha => execAdpllLock_acquiring he ha, fun h => if_neg h, fun he hl => if_pos ⟨he, hl⟩, fun h => if_neg h,
    fun hl hd => execLossOfLock_unlocks hl hd, fun h => if_pos ?_, fun h => ?_, fun h => ?_, fun h => ?_, fun h => if_neg h,
    fun h hg hp => ?_, fun h hin => ?_, fun h => if_neg h, fun h => ?_, fun h => if_neg h⟩
  · rcases h with h | h <;> simp [h]
  · intro r
    let u : State := { s.traceLost with clk := { s.clk with
      before := if s.clk.align = .returning then s.clk.before else s.clk.align
      align := .lost, refSrc := 2, rangeWarn := false, qualified := false, losses := sat 65535 (s.clk.losses + 1), refLostAt := some s.lc
      events := orBits s.clk.events 2, slewing := s.clk.rampEnd.isSome || s.clk.slewEnd.isSome } }
    have hexec : exec .lossOfReference s =
        .next ((u.fault 0x502 3 .a none 0 []).fireSrc (srcIs 7 3072) (u.fault 0x502 3 .a none 0 []).lc) := by
      show Host.Outcome.next s.loseRef = _
      unfold State.loseRef
      simp only
      rw [if_pos h]
      simp [u, State.updClk, State.clkEvent, State.fixSlew, State.traceLost, State.updCal]
    refine ⟨_, hexec, State.fault_faultOnly.trans State.fireSrc_faultOnly, fun hm ho => ?_⟩
    have hent : u.Enters (u.fault 0x502 3 .a none 0 []) r := State.fault_enters hm ho
    unfold State.Enters
    rw [State.fireSrc_log]
    exact hent
  · exact next_eq (if_neg h)
  · refine (if_pos h).trans (next_eq ?_)
    cases hr : s.clk.retHost <;> simp [State.updClk, State.clkEvent, State.startReturn, State.fixSlew, hr]
  · have hin : (decide (gap * s.clk.q ≤ 150000000) && decide (ppb ≤ 50)) = true := by simp [hg, hp]
    refine ⟨_, (if_pos h).trans (next_eq (congrArg State.fixSlew (if_pos hin))), rfl, rfl, rfl, rfl⟩
  · have hin : ¬ (decide (gap * s.clk.q ≤ 150000000) && decide (ppb ≤ 50)) = true := by simpa using hin
    refine ⟨_, (if_pos h).trans (next_eq (congrArg State.fixSlew (if_neg hin))), rfl, rfl, rfl, rfl⟩
  · intro u
    have hwarn : (ppm500 < (dev.toInt.natAbs : Int)) = (549755813 < dev.toInt.natAbs) := by
      unfold ppm500; exact propext ⟨fun _ => by omega, fun _ => by omega⟩
    have hmeas : exec (.refDeviationMeasure dev) s = .next (if 604731395 < dev.toInt.natAbs then u.loseRef else u) := by
      refine (if_pos h).trans (next_eq ?_)
      simp only [hwarn]
      rfl
    rw [hmeas]
    exact ⟨fun hd => next_eq (if_neg (by omega)), fun hd => next_eq (if_pos hd)⟩

/-! ### Ramps, slews, SYNC, timers and reads -/

/-- Time moves to a later lane cycle, and never back. -/
theorem State.advanceTo_of_lt {l : Nat} (h : s.lc < l) : s.advanceTo l = { s with
    lc := l, tb := s.tbAt l, lockmon := s.lockmonIn (l - s.lc)
    summers := (State.cycles (l - s.lc) s).summers, conv := (State.cycles (l - s.lc) s).conv } := if_pos h

theorem State.advanceTo_of_le {l : Nat} (h : l ≤ s.lc) : s.advanceTo l = s := if_neg (by omega)

theorem State.advanceTo_clk {l : Nat} : (s.advanceTo l).clk = s.clk := State.advanceTo_read State.clk

theorem execClkStepRampEnd_some {e : Nat} (h : s.clk.rampEnd = some e) :
    let u := ({ s.advanceTo e with clk := { s.clk with
      rampEnd := none, offset := s.clk.offset + s.clk.rampDelta, events := orBits s.clk.events 7
      slewing := s.clk.slewEnd.isSome || decide (s.clk.align = .returning) } } : State).endJobs
        (fun j => isStep j.kind && decide (j.run.seq = s.clk.rampSeq)) .ok 0
    execClkStepRampEnd s = .next (nextRamp (u.jobs.filter (fun j => isStep j.kind)) u) := by
  simp [execClkStepRampEnd, h, State.updClk, State.clkEvent, State.fixSlew, State.advanceTo_clk]

theorem execSyncMark_armed {m f : BitVec 16} {a : Arm} (ha : s.clk.arm = some a) (hm : a.mark = none) :
    execSyncMark m f s = .next { s with clk := { s.clk with
      arm := some { a with mark := some (s.lc + 128 +
        (if s.clk.q ≤ 1 then (f.toNat + s.clk.phaseOffset.toNat + 32768) / 65536 else (f.toNat + s.clk.phaseOffset.toNat) / 65536)) }
      syncMargin := m, events := if m.toInt < 250 then orBits s.clk.events 6 else s.clk.events } } := by
  by_cases hlow : m.toInt < 250 <;> simp [execSyncMark, ha, hm, hlow, State.updClk, State.clkEvent]

theorem execSyncLoad_marked {a : Arm} {b : Nat} (ha : s.clk.arm = some a) (hm : a.mark = some b) :
    let u := if a.loadTb then ({ (s.advanceTo b).flushNco with tb := a.tbValue } : State).tmuLoad else s.advanceTo b
    execSyncLoad s = .next (({ u with
      clk := { u.clk with arm := none, align := .aligned, tbState := if a.loadTb then .synced else u.clk.tbState, events := orBits u.clk.events 5 }
      divAt := u.lc } : State).endKind (fun k => decide (k = .sync)) .ok 0) := by
  obtain ⟨ld, v, w, t, mark⟩ := a
  cases hm
  cases ld <;> simp [execSyncLoad, ha, State.updClk, State.clkEvent]

theorem execClkSyncWaitExpiry_unmarked {a : Arm} (ha : s.clk.arm = some a) (hm : a.mark = none) :
    execClkSyncWaitExpiry s = .next ((s.jobs.filter (fun j => decide (j.kind = .sync))).foldl (fun s j => s.timeoutRun j.run 0)
      (({ s.advanceTo (a.armedAt + a.waitLc) with clk := { s.clk with arm := none } } : State).dropJobs (fun j => decide (j.kind = .sync)))) := by
  obtain ⟨ld, v, w, t, mark⟩ := a
  cases hm
  have hj : (s.advanceTo (t + w)).jobs = s.jobs := State.advanceTo_read State.jobs
  simp [execClkSyncWaitExpiry, ha, State.updClk, State.advanceTo_clk, hj]

/-- Settles O16: what is pending decides, and each end is given whole. -/
theorem rampSlewSyncAndTimerEvents : Obligations.RampSlewSyncAndTimerEvents := by
  refine ⟨fun s l h => State.advanceTo_of_lt h, fun s l h => State.advanceTo_of_le h, fun s h => ?_, fun s e h => execClkStepRampEnd_some h,
    fun s h => ?_, fun s e h => ?_, fun s m f h => ?_, fun s m f a ha hm => execSyncMark_armed ha hm, fun s h => ?_,
    fun s a b ha hm => execSyncLoad_marked ha hm, fun s h => ?_, fun s a ha hm => execClkSyncWaitExpiry_unmarked ha hm, fun s k => rfl,
    fun s => rfl, fun s f => rfl⟩
  · show execClkStepRampEnd s = _
    simp [execClkStepRampEnd, h]
  · show execPhaseSlewEnd s = _
    simp [execPhaseSlewEnd, h]
  · show execPhaseSlewEnd s = _
    simp [execPhaseSlewEnd, h, State.updClk, State.advanceTo_clk]
  · show execSyncMark m f s = _
    rcases h with h | ⟨a, ha, hm⟩
    · simp [execSyncMark, h]
    · simp [execSyncMark, ha, Option.isSome_iff_ne_none.2 hm]
  · show execSyncLoad s = _
    rcases h with h | ⟨⟨ld, v, w, t, mark⟩, ha, hm⟩
    · simp [execSyncLoad, h]
    · cases hm; simp [execSyncLoad, ha]
  · show execClkSyncWaitExpiry s = _
    rcases h with h | ⟨⟨ld, v, w, t, mark⟩, ha, hm⟩
    · simp [execClkSyncWaitExpiry, h]
    · obtain ⟨b, rfl⟩ := Option.ne_none_iff_exists'.1 hm
      simp [execClkSyncWaitExpiry, ha]

end Sys2Proof.Machine
end

section
/-! O14, O56: what a fault does to the log (R428, R431, R435), and what reset leaves. -/
namespace Sys2Proof.Machine

variable {s t : State} {r : FaultRec} {p i : Nat}

/-- A count that stays at its limit. -/
theorem sat_eq_min (m n : Nat) : sat m n = min m n := by
  unfold sat
  split <;> omega

/-! ### Entering a record -/

theorem State.fireSrc_ctxs {q : BitVec 16 → Bool} {n : Nat} : (s.fireSrc q n).ctxs = s.ctxs :=
  State.each_keeps State.ctxs fun _ _ => by unfold State.register; split <;> rfl

theorem State.notice_ctxs {f : Nat} : (s.notice i r f).ctxs = s.ctxs := by
  unfold State.notice
  extract_lets s1
  have h1 : s1.ctxs = s.ctxs := by unfold s1; split <;> rfl
  repeat' split
  all_goals exact h1

/-- The counts of a record's context (Table 5.8). -/
def Ctx.countFault (r : FaultRec) (i : Nat) (c : Ctx) : Ctx :=
  if r.code = 0x101#12 then { c with late := sat 65535 (c.late + 1), lastIdx := some i, faulted := true }
  else { c with other := sat 65535 (c.other + 1), lastIdx := some i, faulted := true }

theorem Ctx.countFault_marks {c : Ctx} : (c.countFault r i).faulted = true ∧ (c.countFault r i).lastIdx = some i := by
  unfold Ctx.countFault
  split <;> exact ⟨rfl, rfl⟩

/-- Entering a record counts it for its context and touches no other. -/
theorem State.enterRec_ctx (c : Nat) : (s.enterRec r).ctx c =
    if r.noCtx = false ∧ c = r.ctx then (s.ctx c).countFault r s.log.next else s.ctx c := by
  have hrest : (s.enterRec r).ctxs =
      if r.noCtx then s.ctxs else Tbl.set {} s.ctxs r.ctx ((s.ctx r.ctx).countFault r s.log.next) := by
    unfold State.enterRec
    extract_lets idx r' g log s1 s2 s3
    have h3 : s3.ctxs = if r.noCtx then s.ctxs else Tbl.set {} s.ctxs r.ctx ((s.ctx r.ctx).countFault r s.log.next) := by
      unfold s3
      split
      · rfl
      · exact State.fireSrc_ctxs
    split
    · exact h3
    · exact (State.each_keeps State.ctxs fun _ _ => State.notice_ctxs).trans h3
  unfold State.ctx
  rw [hrest]
  cases r.noCtx
  case true => simp
  case false =>
    rw [if_neg (by simp), Tbl.get_set]
    by_cases hc : c = r.ctx
    · subst hc; simp [State.ctx]
    · simp [hc]

/-- Where no record of the lane cycle comes after it, the record entered stays where it was entered. -/
theorem State.takeRec_inOrder (h : s.InOrder r) :
    ∃ n, s.takeRec r = ({ s with log := { s.log with burstAt := s.lc, burst := n } } : State).enterRec r := by
  let n := if s.log.burstAt = s.lc then s.log.burst else 0
  let u : State := { s with log := { s.log with burstAt := s.lc, burst := n + 1 } }
  have htake : s.takeRec r = (u.enterRec r).settleRec s.log.next n := rfl
  have hsettle : ∀ k, n = k → (u.enterRec r).settleRec s.log.next k = u.enterRec r := ?_
  · exact ⟨n + 1, htake.trans (hsettle n rfl)⟩
  intro k hn
  cases k with
  | zero => rfl
  | succ m =>
    have hb : s.log.burstAt = s.lc := by by_contra hb; simp [n, hb] at hn
    have hne : (s.log.next + 4095) % 4096 ≠ s.log.next := by omega
    have hl : (u.enterRec r).log.recs = Tbl.set {} s.log.recs s.log.next { r with seq := s.log.seq } := by
      rw [State.enterRec_log]
    have hstay : ¬ (Tbl.get {} (u.enterRec r).log.recs s.log.next).before (Tbl.get {} (u.enterRec r).log.recs ((s.log.next + 4095) % 4096)) = true := by
      rw [hl, Tbl.get_set_self, Tbl.get_set_ne hne]
      rcases h hb with h | h
      · simp [n, hb, h] at hn
      · simpa [FaultRec.before] using h
    exact if_neg hstay

/-! ### Records that change places -/

theorem FaultRec.swapCause_of_code_ne (h : r.code ≠ 0x106#12) (a b : Nat) : r.swapCause a b = r := by
  simp [FaultRec.swapCause, h]

theorem FaultRec.ne_default_of_code_ne (h : r.code ≠ 0) : r ≠ {} := fun he => h (by rw [he])

/-- A record that is no CONTEXT_RESET stays as it is where causes are renumbered. -/
theorem Tbl.get_renumbered {l : Tbl FaultRec} {f : FaultRec → Bool} {k a b : Nat} (h0 : (Tbl.get {} l k).code ≠ 0)
    (hr : (Tbl.get {} l k).code ≠ 0x106#12) :
    Tbl.get {} (Tbl.mapVals {} (fun _ r => if f r then r.swapCause a b else r) l) k = Tbl.get {} l k := by
  have hsame : (if f (Tbl.get {} l k) then (Tbl.get {} l k).swapCause a b else Tbl.get {} l k) = Tbl.get {} l k := by
    rw [FaultRec.swapCause_of_code_ne hr]; split <;> rfl
  have hne := FaultRec.ne_default_of_code_ne h0
  rw [Tbl.get_mapVals hne (by rw [hsame]; exact hne), hsame]

theorem State.swapRecs_log : (s.swapRecs p i).log = { s.log with
    recs := Tbl.mapVals {} (fun _ r => if decide ((s.log.seq - r.seq).toNat ≤ s.log.burst) then r.swapCause p i else r)
      (Tbl.set {} (Tbl.set {} s.log.recs p { Tbl.get {} s.log.recs i with seq := (Tbl.get {} s.log.recs p).seq }) i
        { Tbl.get {} s.log.recs p with seq := (Tbl.get {} s.log.recs i).seq }) } := by
  unfold State.swapRecs
  refine (State.each_keeps State.log fun _ _ => ?_).trans ?_
  · rfl
  · repeat' split
    all_goals rfl

/-- Two records that change places, each with the other's sequence number. -/
theorem State.swapRecs_swaps (hpi : p ≠ i)
    (ha : (Tbl.get {} s.log.recs p).code ≠ 0) (ha' : (Tbl.get {} s.log.recs p).code ≠ 0x106#12)
    (hb : (Tbl.get {} s.log.recs i).code ≠ 0) (hb' : (Tbl.get {} s.log.recs i).code ≠ 0x106#12) :
    Tbl.get {} (s.swapRecs p i).log.recs p = { Tbl.get {} s.log.recs i with seq := (Tbl.get {} s.log.recs p).seq } ∧
    Tbl.get {} (s.swapRecs p i).log.recs i = { Tbl.get {} s.log.recs p with seq := (Tbl.get {} s.log.recs i).seq } ∧
    (s.swapRecs p i).log.next = s.log.next ∧ (s.swapRecs p i).log.seq = s.log.seq := by
  rw [State.swapRecs_log]
  let a := Tbl.get {} s.log.recs p
  let b := Tbl.get {} s.log.recs i
  let recs := Tbl.set {} (Tbl.set {} s.log.recs p { b with seq := a.seq }) i { a with seq := b.seq }
  have hp : Tbl.get {} recs p = { b with seq := a.seq } := by unfold recs; rw [Tbl.get_set_ne hpi, Tbl.get_set_self]
  have hi : Tbl.get {} recs i = { a with seq := b.seq } := Tbl.get_set_self
  refine ⟨?_, ?_, rfl, rfl⟩
  · exact (Tbl.get_renumbered (by rw [hp]; exact hb) (by rw [hp]; exact hb')).trans hp
  · exact (Tbl.get_renumbered (by rw [hi]; exact ha) (by rw [hi]; exact ha')).trans hi

/-- Settles O14: the record is entered at the end of the log; one earlier record of the lane cycle that comes after it changes places with
it; and while the management processor is down the record is held. -/
theorem faultIsEnteredOrHeld : Obligations.FaultIsEnteredOrHeld := by
  intro s code rung unit on ctx n d t r
  have hup (hm : s.mgmtUp = true) : t = s.takeRec r := if_pos hm
  have hdown (hm : s.mgmtUp = false) : t = if s.log.hold.length < 256 then { s with log := { s.log with hold := s.log.hold ++ [r] } }
      else { s with log := { s.log with dropped := min 65535 (s.log.dropped + 1), droppedNow := true } } := by
    rw [← sat_eq_min]; exact if_neg (by simp [hm])
  refine ⟨State.faultAt_faultOnly, fun hm ho => ?_, fun hm hat hburst => ?_, fun hm hl => ?_, fun hm hl => ?_⟩
  · refine ⟨State.faultAt_enters hm ho, ?_⟩
    obtain ⟨k, hk⟩ := State.takeRec_inOrder ho
    rw [hup hm, hk, State.enterRec_log]
    refine ⟨fun k hk => Tbl.get_set_ne hk, Tbl.get_set_self.trans (sat_eq_min _ _), Tbl.get_set_self.trans (sat_eq_min _ _), fun c hc => ?_, fun c hc => ?_⟩
    · subst hc
      rw [State.enterRec_ctx, if_pos ⟨rfl, rfl⟩]
      exact Ctx.countFault_marks
    · rw [State.enterRec_ctx, if_neg]
      · rfl
      · rintro ⟨hno, rfl⟩
        cases ctx with
        | none => cases hno
        | some c => exact hc rfl
  · intro j x hbefore hx hx' hr hr'
    have hne : j ≠ s.log.next := by simp only [j]; omega
    let u := ({ s with log := { s.log with burstAt := s.lc, burst := 2 } } : State).enterRec r
    have hu : u.log.recs = Tbl.set {} s.log.recs s.log.next { r with seq := s.log.seq } := by simp only [u, State.enterRec_log]
    have huj : Tbl.get {} u.log.recs j = x := by rw [hu, Tbl.get_set_ne hne]
    have hun : Tbl.get {} u.log.recs s.log.next = { r with seq := s.log.seq } := by rw [hu, Tbl.get_set_self]
    have ht : t = u.swapRecs j s.log.next := by
      have htake : t = u.settleRec s.log.next 1 := by
        rw [hup hm]; unfold State.takeRec; simp only [hat, hburst, if_true]; rfl
      have hswap : (Tbl.get {} u.log.recs s.log.next).before (Tbl.get {} u.log.recs j) = true := by
        rw [hun, huj]; exact hbefore
      rw [htake, State.settleRec, if_pos hswap]
      rfl
    obtain ⟨h1, h2, h3, h4⟩ := State.swapRecs_swaps (s := u) hne (by rw [huj]; exact hx) (by rw [huj]; exact hx') (by rw [hun]; exact hr) (by rw [hun]; exact hr')
    rw [ht, h1, h2, h3, h4, huj, hun]
    refine ⟨rfl, rfl, ?_, ?_⟩ <;> simp only [u, State.enterRec_log]
  · rw [hdown hm, if_pos hl]
  · rw [hdown hm, if_neg (by omega)]

/-- Settles O56: reset lists nothing but banks and processors, so every other unit reads as its default. -/
theorem resetLeavesTheSpecsValues : Obligations.ResetLeavesTheSpecsValues := by
  unfold Obligations.ResetLeavesTheSpecsValues
  refine ⟨⟨rfl, rfl, rfl, rfl, rfl⟩, fun _ => ⟨rfl, rfl⟩, fun _ => rfl, fun _ => ⟨rfl, rfl⟩, fun _ => ⟨rfl, rfl⟩, fun _ => rfl,
    fun _ => ⟨rfl, rfl, rfl⟩, fun _ => ⟨rfl, rfl, rfl⟩, fun _ => rfl, fun _ => ⟨rfl, rfl, rfl⟩, rfl, rfl, rfl, rfl, rfl, rfl, rfl, rfl, rfl⟩

end Sys2Proof.Machine
end

section
/-! O17: contexts open, are bound, reset and closed (R135 to R138). -/
namespace Sys2Proof.Machine

variable {p : Pkt} {s : State} {c : Nat}

/-- A context that has been reset is OPEN or BOUND, with no program, page, call stack or count (Table 5.5). -/
structure Ctx.Cleared (x : Ctx) : Prop where
  st : x.st = .opened ∨ x.st = .bound
  steps : x.steps = []
  pages : x.pages = []
  stack : x.stack = []
  pc : x.pc = 0
  ctrs : x.ctrs = [0, 0, 0, 0, 0, 0, 0, 0]
  preRun : x.preRun = false

theorem State.resetCtx_cleared : ((s.resetCtx c).ctx c).Cleared := by
  unfold State.resetCtx
  rw [State.updCtx_ctx, if_pos rfl]
  refine ⟨?_, rfl, rfl, rfl, rfl, rfl, rfl⟩
  simp only
  split
  · exact .inl rfl
  · exact .inr rfl

/-- The allocator's turn is no context's state. -/
theorem State.allocTurn_ctx {q a : Nat} (x : Nat) : (s.allocTurn q a).ctx x = s.ctx x :=
  State.allocTurn_read (fun t => t.ctx x) fun _ _ _ _ _ _ _ _ => rfl

theorem State.allocTurn_genWaits {q a : Nat} : (s.allocTurn q a).genWaits c = s.genWaits c :=
  State.allocTurn_read (fun t => t.genWaits c) fun _ _ _ _ _ _ _ _ => rfl

theorem State.allocTurn_seq {q a : Nat} : (s.allocTurn q a).seq = s.seq :=
  State.allocTurn_read State.seq fun _ _ _ _ _ _ _ _ => rfl

theorem exec_ctxOpen (h : startsNow .ctxOpen p s = true) (hc : openTarget p s.seen = some c) :
    let u := s.seen.allocTurn poolCtx (if openAny p then p.fn.val else c)
    exec (.ctxOpen p) s = .next (if s.genWaits c then u.going .ctxOpen p (.ctxOpenWait c) s
      else (u.openCtx c p.fn.val).complete (newRun .ctxOpen p s) .ok (c + genResult (u.openCtx c p.fn.val) c)) := by
  intro u
  have hw : u.genWaits c = s.genWaits c := State.allocTurn_genWaits
  rw [exec_act rfl rfl h]
  refine next_eq ?_
  show actCtxOpen (newRun .ctxOpen p s) s.seen = _
  simp only [actCtxOpen, newRun_fields, hc, ← hw]
  rfl

theorem exec_ctxReset (h : startsNow .ctxReset p s = true) :
    exec (.ctxReset p) s = .next (if s.genWaits p.ctx.val then s.seen.going .ctxReset p (.ctxOpenWait p.ctx.val) s
      else ((s.seen.resetCtx p.ctx.val).nextGen p.ctx.val).going .ctxReset p (.ctxReset p.ctx.val (s.ctx p.ctx.val).gen) s) := exec_act rfl rfl h

/-- `s` with the context reset for its close: CLOSING, with no thread slot (R136). -/
def State.closing (s : State) (c : Nat) : State := (s.resetCtx c).updCtx c (fun x => { x with st := .closing, engine := none, slot := 0 })

theorem exec_ctxClose (h : startsNow .ctxClose p s = true) :
    exec (.ctxClose p) s = .next ((s.seen.closing p.ctx.val).going .ctxClose p (.ctxClose p.ctx.val ((s.seen.resetCtx p.ctx.val).ctx p.ctx.val).gen) s) := by
  rw [exec_act rfl rfl h]
  simp only [meaningOf, mCtxClose, newRun_fields, State.addJob_going, State.updCtx_ctx, if_true, State.closing]

/-- Settles O17: the allocator's turn touches no context, and a reset context is cleared. -/
theorem contextsOpenBindResetClose : Obligations.ContextsOpenBindResetClose := by
  intro p s
  refine ⟨fun h c hc => ?_, fun h k hk => ?_, fun h => ⟨fun hw => ?_, fun hw => ?_⟩, fun h => ?_⟩
  · intro u
    have hu : ∀ x, u.ctx x = s.ctx x := fun x => State.allocTurn_ctx x
    refine ⟨fun hw => ?_, fun hw => ⟨_, ?_, rfl, ?_⟩⟩
    · rw [exec_ctxOpen h hc, if_pos hw]
    · rw [exec_ctxOpen h hc, if_neg (by simp [hw])]
      have hseq : u.seq = s.seq + 1 := State.allocTurn_seq
      refine next_answered (s := s) ?_ (hs := hseq)
      simp [State.openCtx, genResult, u, State.allocTurn_ctx]
    · simp only [State.answered_others, State.updCtx_ctx, hu]
      refine ⟨by simp, by simp, by simp, fun x hx => by simp [hx]⟩
  · refine ⟨_, ?_, rfl, ?_⟩
    · rw [exec_act rfl rfl h]
      have hseq : (s.seen.allocTurn poolThread p.ctx.val).seq = s.seq + 1 := State.allocTurn_seq
      refine next_answered (s := s) ?_ (hs := hseq)
      simp only [meaningOf, mCtxBind, newRun_fields, hk]
    · simp only [State.answered_others, State.updCtx_ctx, State.allocTurn_ctx]
      refine ⟨by simp, by simp, by simp, fun x hx => by simp [hx]⟩
  · rw [exec_ctxReset h, if_pos hw]
  · obtain ⟨hst, hsteps, hpages, hstack, hpc, hctrs, hpre⟩ := State.resetCtx_cleared (s := s.seen) (c := p.ctx.val)
    refine ⟨_, by rw [exec_ctxReset h, if_neg (by simp [hw])], rfl, ?_⟩
    simp only [State.going_others, State.nextGen, State.updCtx_ctx, if_true]
    exact ⟨hst, hsteps, hpages, hstack, hpc, hctrs, hpre⟩
  · obtain ⟨-, hsteps, hpages, hstack, -, hctrs, -⟩ := State.resetCtx_cleared (s := s.seen) (c := p.ctx.val)
    refine ⟨_, exec_ctxClose h, ?_⟩
    simp only [State.closing, State.going_others, State.updCtx_ctx, if_true, hsteps, hpages, hstack, hctrs, and_self]

end Sys2Proof.Machine
end

section
/-! O18: units claimed and released, a context's status, and the scenes. -/
namespace Sys2Proof.Machine

variable {op : Op} {p : Pkt} {s t : State} {st : Status} {res : Nat}

/-- A packet whose effect, with the order of acceptance kept, ends in its final completion. -/
theorem exec_answers {c : Instr} (hc : packetOf c = some (op, p)) (hper : periodic op = false) (h : startsNow op p s = true)
    (he : (meaningOf op).act (newRun op p s) s.seen = t.complete (newRun op p s) st res) (hk : t.kept = s.seen.kept)
    (hop : op ≠ .fwSchedule := by decide) : exec c s = .next (t.answered op p st res) := by
  rw [exec_act hc hper h]
  exact next_answered he hop (State.seq_seen hk)

/-- A packet whose effect ends with it still in execution. -/
theorem exec_goes {c : Instr} {k : JobKind} (hc : packetOf c = some (op, p)) (hper : periodic op = false) (h : startsNow op p s = true)
    (he : (meaningOf op).act (newRun op p s) s.seen = t.addJob (newRun op p s) k) : exec c s = .next (t.going op p k s) := by
  rw [exec_act hc hper h, he, State.addJob_going]

/-- A reply reads nothing that seeing the packet changes. -/
theorem ctxReply_seen {c : Nat} : ctxReply s.seen c = ctxReply s c := by
  have hc : ctxSummary s.seen c = ctxSummary s c := rfl
  have hv : viewSel s.seen c = viewSel s c := rfl
  unfold ctxReply
  rw [hc, hv]

/-- What `grant` does for each kind of unit (R343, R493). -/
theorem State.grant_kinds {u : State} {c k i : Nat} :
    (k = 0 → u.grant c k i = u.updFch i (fun f => { f with owner := some c, rampLc := 64 })) ∧
    (k = 1 → u.grant c k i = u.updVoice i (fun _ => { owner := some c })) ∧
    (k = 2 → u.grant c k i = u.updPch i (fun x => { x with owner := some c })) ∧
    (k = 3 → u.grant c k i = u.updEv i (fun _ => { owner := some c })) ∧
    (k = 4 → i < 0x400 → u.grant c k i = u.updCon i (fun _ => { owner := some c })) ∧
    (k = 4 → 0x400 ≤ i → u.grant c k i = u.updEo (i - 0x400) (fun e => {
      owner := some c, high := e.high, lastAt := e.lastAt, dues := e.dues, endAt := e.endAt })) ∧
    (k = 5 → u.grant c k i = u.updCell i (fun _ => { owner := some c })) ∧
    (k = 6 → u.grant c k i = u.updBank i (fun b => { b with owner := c, untouched := false, handover := none, handovers := sat 65535 (b.handovers + 1) })) ∧
    (k = 7 → u.grant c k i = u.updGroup i (fun g => { g with owner := some c })) ∧
    (k = 8 → u.grant c k i = u.updSlot i (fun _ => { owner := some c })) := by
  refine ⟨?_, ?_, ?_, ?_, ?_, ?_, ?_, ?_, ?_, ?_⟩ <;> rintro rfl
  case refine_5 => intro hi; exact if_pos hi
  case refine_6 => intro hi; exact if_neg (by omega)
  all_goals rfl

theorem exec_ctxClaim {i : Nat} (h : startsNow .ctxClaim p s = true) (hi : claimTarget p s.seen = some i) :
    exec (.ctxClaim p) s = .next (State.answered (if s.holds p.ctx.val (kindOf p) i then s.seen
      else (s.seen.allocTurn (poolUnit (kindOf p)) p.ctx.val).grant p.ctx.val (kindOf p) i) .ctxClaim p .ok i) := by
  have hholds : s.seen.holds p.ctx.val (kindOf p) i = s.holds p.ctx.val (kindOf p) i := rfl
  refine exec_answers rfl rfl h ?_ ?_
  · simp only [meaningOf, mCtxClaim, newRun_fields, hi, hholds]
    split <;> rfl
  · split
    · rfl
    · rw [State.grant_kept, State.allocTurn_kept]

/-- Settles O18: each packet is its opcode's meaning, CTX_RELEASE by the kind of the unit. -/
theorem unitsAreClaimedAndReleasedAndScenesManaged : Obligations.UnitsAreClaimedAndReleasedAndScenesManaged := by
  intro p s
  refine ⟨fun h i hi => ?_, fun h => ?_, fun h => ?_, fun h k hk => ?_, fun h => exec_accept rfl h, fun h => ?_, fun h => ?_⟩
  · exact ⟨fun hh => by rw [exec_ctxClaim h hi, if_pos hh], fun hh => ⟨_, by rw [exec_ctxClaim h hi, if_neg (by simp [hh])], State.grant_kinds⟩⟩
  · have answers {u : State} (he : actCtxRelease (newRun .ctxRelease p s) s.seen = u.complete (newRun .ctxRelease p s) .ok 0)
        (hk : u.kept = s.seen.kept) : exec (.ctxRelease p) s = .next (u.answered .ctxRelease p .ok 0) := exec_answers rfl rfl h he hk
    refine ⟨fun hk hr => exec_goes rfl rfl h ?_, fun hk hr => answers ?_ ?_, fun hk => answers ?_ ?_, fun hk hr => exec_goes rfl rfl h ?_,
      fun hk hr => answers ?_ ?_, fun hk => answers ?_ ?_, fun hk hi => answers ?_ ?_, fun hk hi => answers ?_ ?_, fun hk => answers ?_ ?_,
      fun hk => answers ?_ ?_, fun hk => answers ?_ ?_, fun hk => answers ?_ ?_⟩
    case refine_1 | refine_6 => simp only [meaningOf, mCtxRelease, actCtxRelease, newRun_fields, hk, hr, if_true]
    case refine_2 | refine_7 => simp only [actCtxRelease, newRun_fields, hk, hr, Bool.false_eq_true, if_false]
    case refine_11 => simp only [actCtxRelease, newRun_fields, hk, if_pos hi]
    case refine_13 => simp only [actCtxRelease, newRun_fields, hk, if_neg (Nat.not_lt.2 hi)]
    all_goals first | (simp only [actCtxRelease, newRun_fields, hk]; done) | simp
  · refine exec_answers (t := { s.seen with out := s.out ++ [.write p.fn.val (pq p 6) ((ctxReply s p.ctx.val).take (pw p 5).toNat)] }) rfl rfl h ?_ rfl
    rw [← ctxReply_seen]
    rfl
  · have hk' : s.seen.freeScene = some k := hk
    refine exec_answers rfl rfl h ?_ ?_
    · simp only [meaningOf, mScnDefine, newRun_fields, hk']
      rfl
    · rw [State.updScene_kept, State.allocTurn_kept]
  · refine exec_answers rfl rfl h rfl ?_
    rw [State.foldl_kept fun _ _ => State.stopCtx_kept _ _, State.cancelScene_kept]
  · exact exec_answers rfl rfl h rfl rfl

end Sys2Proof.Machine
end

section
/-! O19: the ends of drains, and space that returns (R132, R136 to R139, R344). -/
namespace Sys2Proof.Machine

variable {s t : State} {r : Run} {st : Status} {res c : Nat} {j : Job}

/-- A reading of what a final completion does not touch. -/
theorem State.complete_read {β : Type} (π : State → β) (h : ∀ (t : State) a b, π { t with held := a, fw := b } = π t := by intros; rfl) :
    π (s.complete r st res) = π s := by
  unfold State.complete State.completeAt State.noteLast
  split
  · exact h s _ _
  · exact h s _ s.fw

/-! ### Resets and closes -/

theorem State.endReset_of_ne (h : ∀ g, j.kind ≠ .ctxReset c g) : s.endReset c j = s := by
  unfold State.endReset
  split
  · next d g hk => rw [if_neg (by rintro ⟨rfl, -⟩; exact h g hk)]
  · rfl

theorem State.endReset_of_eq {g : Nat} (h : j.kind = .ctxReset c g) : s.endReset c j =
    if s.resetDone c (fun h => decide (h = g)) = true then (s.dropJobs (fun x => decide (x = j))).complete j.run .ok ((g + 1) % 256 * 65536) else s := by
  simp [State.endReset, h]

theorem State.endClose_of_ne (h : ∀ g, j.kind ≠ .ctxClose c g) : s.endClose c j = s := by
  unfold State.endClose
  split
  · next d g hk => rw [if_neg (by rintro ⟨rfl, -⟩; exact h g hk)]
  · rfl

theorem State.endClose_of_eq {g : Nat} (h : j.kind = .ctxClose c g) : s.endClose c j =
    if s.drained c (fun h => decide (h = g)) = true then (s.dropJobs (fun x => decide (x = j))).complete j.run .ok 0 else s := by
  simp [State.endClose, h]

/-- A drain is judged by the reset and by the orphans. -/
theorem State.drained_iff {q : Nat → Bool} : s.drained c q = true ↔ s.resetDone c q = true ∧ s.noOrphans c q = true := by
  simp [State.drained]

/-- A close whose drain has finished completes, and then the context is freed where nothing of it is left. -/
theorem execCloseDrainEnd_of {c : Fin 1024} {u : State} (hu : s.jobs.foldl (fun s j => s.endClose c j) s = u) :
    execCloseDrainEnd c s = .next (if (u.ctx c).st = .closing ∧ (u.ctx c).genDue = 0 ∧ u.resetDone c (fun _ => true) = true ∧
      u.noOrphans c (fun _ => true) = true then u.updCtx c (fun x => { x with st := .free, fn := 0 }) else u) := by
  unfold execCloseDrainEnd
  simp only [hu, State.drained_iff]

theorem execOrphansReclaimed_waits {c : Fin 1024} (hw : s.genWaits c = false) (hd : (s.ctx c).genDue = 0) {j : Job}
    (hj : s.findJob (fun k => decide (k = .ctxOpenWait c)) = some j) :
    let u := s.dropJobs (fun x => decide (x = j))
    execOrphansReclaimed c s = .next (if j.run.op = .ctxOpen then (u.openCtx c j.run.p.fn.val).complete j.run .ok
      (c.val + ((s.ctx c).gen + 1) % 256 * 65536) else u.doReset j.run c) := by
  intro u
  have hgen : genResult (u.openCtx c j.run.p.fn.val) c = ((s.ctx c).gen + 1) % 256 * 65536 := by
    simp only [genResult, State.openCtx, State.updCtx_ctx, if_true]
    rfl
  rw [← hgen]
  by_cases ho : j.run.op = .ctxOpen <;> simp [execOrphansReclaimed, hw, hd, hj, ho, u]

/-! ### Zeroed space -/

/-- The repairs ahead of the zeroing write nothing where the list is empty. -/
theorem State.owlAhead_dram_of_repair_nil (h : s.mem.repair = []) : s.owlAhead.sql.dram = s.sql.dram := by
  have hkept : s.owlAhead.kept = s.kept := by
    unfold State.owlAhead
    rw [State.writeBacks_kept, h]
    rfl
  exact (State.kept_iff.1 hkept).2.2.1

/-- A range of a memory that is zeroed reads as zeros. -/
theorem Memory.read_zero {m : Memory} {k n a : Nat} : Memory.read (Memory.zero m k n) a = if k ≤ a ∧ a < k + n then 0 else Memory.read m a :=
  Tbl.get_clear a

/-- Settles O19: each event's guard decides, and what waits is found by its kind. -/
theorem drainsEndAndSpaceReturns : Obligations.DrainsEndAndSpaceReturns := by
  intro s c b e n
  refine ⟨fun h1 h2 => if_pos ⟨h1, h2⟩, fun h => if_neg h, fun j g hj hk => ?_, fun h => ?_, fun j g hj hk h1 h2 => ?_, fun h1 h2 => ?_,
    fun h => if_pos h, fun hw hd => ?_, fun hw hd => ?_, fun hd hj => ?_, fun j hw hd hj => ?_, fun hq ho => ?_, fun h => ?_,
    fun hz hr => ?_, fun h => ?_, fun hr ht hs => ?_, fun h => ?_, rfl⟩
  · refine next_eq ((foldl_only (fun b a ha => State.endReset_of_ne fun g hg => ?_) hj).trans (State.endReset_of_eq hk))
    simp [hg] at ha
  · refine next_eq (foldl_none fun a ha => ?_)
    by_cases hk : ∃ g, a.kind = .ctxReset c g
    · obtain ⟨g, hk⟩ := hk
      rw [State.endReset_of_eq hk, if_neg (by simp [h a ha g hk])]
    · exact State.endReset_of_ne fun g hg => hk ⟨g, hg⟩
  · intro u
    have hu : s.jobs.foldl (fun s j => s.endClose c j) s = u := by
      rw [foldl_only (fun b a ha => State.endClose_of_ne fun g hg => ?_) hj, State.endClose_of_eq hk, if_pos (State.drained_iff.2 ⟨h1, h2⟩)]
      simp [hg] at ha
    have hctx : u.ctx c = s.ctx c := State.complete_read fun t => t.ctx c
    have hreset : u.resetDone c = s.resetDone c := State.complete_read fun t => t.resetDone c
    have horphans : u.noOrphans c = s.noOrphans c := State.complete_read fun t => t.noOrphans c
    rw [← hctx, ← hreset, ← horphans]
    exact execCloseDrainEnd_of hu
  · have hu : s.jobs.foldl (fun s j => s.endClose c j) s = s := foldl_none fun a ha => by
      by_cases hk : ∃ g, a.kind = .ctxClose c g
      · obtain ⟨g, hk⟩ := hk
        rw [State.endClose_of_eq hk, if_neg (by rw [State.drained_iff]; exact h1 a ha g hk)]
      · exact State.endClose_of_ne fun g hg => hk ⟨g, hg⟩
    refine (execCloseDrainEnd_of hu).trans (next_eq (if_neg ?_))
    rintro ⟨-, -, h⟩
    exact h2 h
  · exact (if_neg (by simp [hw])).trans (if_pos hd)
  · exact (if_neg (by simp [hw])).trans ((if_neg (by simp [hd])).trans (if_pos hd))
  · show execOrphansReclaimed c s = _
    unfold execOrphansReclaimed
    simp [hd, hj]
  · intro u
    have h := execOrphansReclaimed_waits hw hd hj
    exact ⟨fun ho => h.trans (next_eq (if_pos ho)), fun ho => h.trans (next_eq (if_neg ho))⟩
  · obtain ⟨hram, hquar, hdram⟩ := State.returnExtents_frame (s := s.owlAhead) (e := e) (n := n)
    refine ⟨_, if_pos (by simp [hq, ho]), hquar, hram.trans State.owlAhead_ram, fun a => ?_, fun h => State.owlAhead_dram_of_repair_nil h⟩
    rw [hdram]
    exact Memory.read_zero
  · exact if_neg (by simpa using h)
  · refine ⟨_, if_pos (by simp [hz, hr]), ?_, rfl, fun x hx => ?_, fun a => Memory.read_zero⟩
    · rw [State.updBank_bank, if_pos rfl]; rfl
    · rw [State.updBank_bank, if_neg hx]; rfl
  · exact if_neg (by simpa using h)
  · have hgoes : exec (.zeroingComplete (.bank b)) s = .next (((s.zeroBank b 0 (2 ^ 20)).setOwner b 0x7FF).updBank b (fun k => { k with
        st := .hibernate, releasing := false, zeroing := [], used := [] })) := if_pos (by simp [hr, ht, hs])
    refine ⟨_, hgoes, ?_, ?_, ?_, ?_, ?_, rfl, fun x hx => ?_, fun a => Memory.read_zero⟩
    case refine_6 => simp only [State.updBank_bank, if_neg hx, State.setOwner]; rfl
    all_goals simp only [State.updBank_bank, if_true, State.setOwner]
  · exact if_neg (by simpa [and_assoc] using h)

end Sys2Proof.Machine
end

section
/-! O20: the packets of the segment family (R148 to R155, R279 to R282). -/
namespace Sys2Proof.Machine

variable {s : State} {p : Pkt}

/-- A placed segment takes the slot freed the longest and answers it with the generation it keeps (R149, R279). -/
theorem segPut_complete {u : State} {pool n c : Nat} {r : Run} {h : Seg} {l : List Nat} (hg : u.seg n = s.seg n) :
    let t := ({ (u.allocTurn pool c).updSeg n (fun x => { h with used := true, gen := x.gen, ctx := c }) with segFree := l } : State)
    t.complete r .ok (segValue t n) = t.complete r .ok (n + 65536 * (s.seg n).gen) := by
  intro t
  have ht : t.seg n = { h with used := true, gen := ((u.allocTurn pool c).seg n).gen, ctx := c } := by
    refine Eq.trans (b := ((u.allocTurn pool c).updSeg n (fun x => { h with used := true, gen := x.gen, ctx := c })).seg n) rfl ?_
    rw [State.updSeg_seg, if_pos rfl]
  have hturn : (u.allocTurn pool c).seg n = u.seg n := State.allocTurn_read (fun t => t.seg n) fun _ _ _ _ _ _ _ _ => rfl
  rw [segValue, ht, hturn, hg]

theorem State.allocTurn_fitBank {q c b n : Nat} : (s.allocTurn q c).fitBank b n = s.fitBank b n :=
  State.allocTurn_read (fun t => t.fitBank b n) fun _ _ _ _ _ _ _ _ => rfl

theorem State.setOwner_fitBank {b o n : Nat} : (s.setOwner b o).fitBank b n = s.fitBank b n := by
  unfold State.fitBank State.setOwner
  rw [State.updBank_bank, if_pos rfl]

/-- Settles O20: each act is its branch. -/
theorem segmentPacketsTakeEffect : Obligations.SegmentPacketsTakeEffect := by
  intro p s c k g
  refine ⟨fun h n hn => ?_, fun h => exec_goes rfl rfl h rfl, fun h => ⟨fun hb => ?_, fun hb => ?_⟩, fun h => ?_,
    fun h => ⟨fun b o hu hb ho => ?_, fun b o d hu hp hw => ?_, fun hu hp => ?_⟩, fun h => ⟨fun he => ?_, fun e he hfit => ?_⟩⟩
  · intro put
    refine ⟨fun o hplace ho => ?_, fun e hplace he => ?_⟩
    · refine exec_answers rfl rfl h (Eq.trans ?_ (segPut_complete (s := s) (u := s.seen.takeBank (allocBank p) o g.bytes) rfl)) (by simp)
      show actSegAlloc (newRun .segAlloc p s) s.seen = _
      have hn' : s.seen.freeSegSlot = some n := hn
      have ho' : s.seen.fitBank (allocBank p) (allocSeg p).bytes = some o := ho
      simp only [actSegAlloc, newRun_fields, hn', hplace, if_true, ho']
      rfl
    · refine exec_answers rfl rfl h (Eq.trans ?_ (segPut_complete (s := s) (u := s.seen.takeExtents e g.extents) rfl)) (by simp)
      show actSegAlloc (newRun .segAlloc p s) s.seen = _
      have hn' : s.seen.freeSegSlot = some n := hn
      have he' : s.seen.fitExtents (allocSeg p).extents = some e := he
      simp only [actSegAlloc, newRun_fields, hn', hplace, he', if_false, Bool.false_eq_true]
      rfl
  · refine (exec_act rfl rfl h).trans (next_eq (if_pos hb))
  · refine (exec_act rfl rfl h).trans (next_eq (if_neg ?_))
    show ¬ (s.seg k).bank.isSome = true
    rw [hb]
    exact Bool.false_ne_true
  · exact exec_answers rfl rfl h rfl (by simp)
  · intro u
    refine (exec_act rfl rfl h).trans (next_eq ?_)
    have hb' : pinBank p s.seen (s.seen.seg (slotOf (pw p 4))).bytes = some b := hb
    show actSegPin (newRun .segPin p s) s.seen = _
    have hfit : u.fitBank b (s.seg k).bytes = some o := by
      refine Eq.trans ?_ ho
      show State.fitBank (if (s.bank b).owner = 0x7FF then (s.seen.allocTurn poolBank c).setOwner b c else s.seen.allocTurn poolBank c) b _ = _
      split
      · exact State.setOwner_fitBank.trans State.allocTurn_fitBank
      · exact State.allocTurn_fitBank
    have hu' : (if decide ((s.seen.bank b).owner = 2047) = true then (s.seen.allocTurn poolBank c).setOwner b c else s.seen.allocTurn poolBank c) = u :=
      if_congr decide_eq_true_iff rfl rfl
    simp only [actSegPin, newRun_fields, hu, Bool.false_eq_true, if_false, hb']
    have hfit' : u.fitBank b (s.seen.seg (slotOf (pw p 4))).bytes = some o := hfit
    rw [hu', hfit']
    rfl
  · refine exec_answers rfl rfl h ?_ (by simp)
    show actSegPin (newRun .segPin p s) s.seen = _
    have hp' : (s.seen.seg (slotOf (pw p 4))).pin = some (b, o, d) := hp
    have hw' : (s.seen.seg (slotOf (pw p 4))).unpinning = false := hw
    simp only [actSegPin, newRun_fields, hu, if_true, hp', hw', if_false, Bool.false_eq_true]
    rfl
  · refine exec_answers rfl rfl h ?_ (by simp)
    show actSegPin (newRun .segPin p s) s.seen = _
    simp only [actSegPin, newRun_fields, hu, if_true]
    split
    · next b o d hpin =>
      have hpin' : (s.seg k).pin = some (b, o, d) := hpin
      exact if_pos (hp.resolve_left (by simp [k, hpin']))
    · rfl
  · exact exec_answers rfl rfl h (if_pos he) (by simp)
  · refine (exec_act rfl rfl h).trans (next_eq ((if_neg he).trans ?_))
    have hfit' : s.seen.fitExtents (mirrorTarget p s.seen).extents = some e := hfit
    simp only [newRun_fields, hfit']
    rfl

end Sys2Proof.Machine
end

section
/-! O21: the packets of the program family (R128 to R134, R157, R169, R175 to R184, R298 to R301). -/
namespace Sys2Proof.Machine

variable {s : State} {p : Pkt}

/-- The context of an armed program (R130, R134, R157). -/
def Ctx.armedBy (x : Ctx) (t : State) (p : Pkt) : Ctx :=
  { x with
    st := .armed, entry := pf p 4 0 16, policy := policyOf (pf p 4 16 2), forced := !t.fits, pc := pf p 4 0 16, stack := []
    ctrs := [0, 0, 0, 0, 0, 0, 0, 0], cache := x.fillCache (pf p 4 0 16) }

/-- The state an armed program leaves, before its completion (R301). -/
def State.armedBy (s t : State) (p : Pkt) : State :=
  let u := ((s.noteCheck t).commitProgram p.ctx).updCtx p.ctx (fun x => x.armedBy t p)
  if (!t.fits) = true then u.updSql (fun q => { q with arms := sat 65535 (q.arms + 1) }) else u

theorem State.armedBy_ctxs {t : State} :
    (s.armedBy t p).ctxs = (((s.noteCheck t).commitProgram p.ctx).updCtx p.ctx (fun x => x.armedBy t p)).ctxs := by
  unfold State.armedBy
  extract_lets u
  split <;> rfl

theorem State.armedBy_ctx {t : State} (x : Nat) :
    (s.armedBy t p).ctx x = (((s.noteCheck t).commitProgram p.ctx).updCtx p.ctx (fun x => x.armedBy t p)).ctx x := by
  unfold State.ctx
  rw [State.armedBy_ctxs]

/-- An armed program changes the contexts and the records of the check only. -/
theorem State.armedBy_eq {t : State} : s.armedBy t p = { s with
    ctxs := (s.armedBy t p).ctxs, bnk := { s.bnk with checkBank := t.badBank, checkSett := t.badSett }
    sql := { s.sql with lastCause := t.dramCause, arms := if t.fits then s.sql.arms else sat 65535 (s.sql.arms + 1) } } := by
  obtain ⟨l, hl⟩ : ∃ l, ((s.noteCheck t).commitProgram p.ctx).updCtx p.ctx (fun x => x.armedBy t p) = { s.noteCheck t with ctxs := l } := ⟨_, rfl⟩
  rw [State.armedBy_ctxs]
  unfold State.armedBy
  rw [hl]
  cases t.fits <;> rfl

theorem State.allocTurn_bnk {q c : Nat} : (s.allocTurn q c).bnk = s.bnk := State.allocTurn_read State.bnk fun _ _ _ _ _ _ _ _ => rfl

theorem State.allocTurn_sql {q c : Nat} : (s.allocTurn q c).sql = s.sql := State.allocTurn_read State.sql fun _ _ _ _ _ _ _ _ => rfl

/-- Settles O21: each act is its branch. -/
theorem programPacketsTakeEffect : Obligations.ProgramPacketsTakeEffect := by
  intro p s c
  refine ⟨fun h u hu => ?_, fun h => exec_answers rfl rfl h rfl (by simp), fun h => ?_, fun h => ?_, fun h => ?_, fun h => ?_,
    fun h => exec_answers rfl rfl h rfl (by simp)⟩
  · refine exec_goes rfl rfl h ?_
    show actPrgLoad (newRun .prgLoad p s) s.seen = _
    simp only [actPrgLoad, newRun_fields]
    rw [show s.seen.takePages p.ctx (newPages p (s.seen.ctx p.ctx)) = some u from hu]
    rfl
  · intro t
    refine ⟨fun hf => ?_, fun hf hn => ?_⟩
    · have hact : exec (.prgArm p) s = .next (((s.seen.allocTurn poolBudget c).armedBy t p).answered .prgArm p .ok 0) := by
        refine exec_answers rfl rfl h (if_pos ?_) ?_
        · simpa [newRun_fields] using hf
        · unfold State.armedBy
          simp
      refine ⟨_, hact, ?_, ?_, ?_, ?_, ?_, ?_, fun x hx => ?_, ?_⟩
      case refine_7 =>
        rw [State.armedBy_ctx, State.updCtx_ctx, if_neg hx]
        unfold State.commitProgram
        rw [State.updCtx_ctx, if_neg hx]
        exact State.allocTurn_ctx (a := c) x
      case refine_8 =>
        have h := State.armedBy_eq (s := s.seen.allocTurn poolBudget c) (t := t) (p := p)
        rwa [State.allocTurn_bnk, State.allocTurn_sql] at h
      all_goals rw [State.armedBy_ctx, State.updCtx_ctx, if_pos rfl, Ctx.armedBy]
    · refine exec_answers rfl rfl h (if_neg ?_) (by simp)
      have hf' : ((s.seen.commitProgram p.ctx).fits || p.force) = false := by rw [hn, Bool.or_false]; exact hf
      simpa [newRun_fields] using hf'
  · exact exec_goes rfl rfl h rfl
  · intro begun
    refine ⟨fun hm hb hw hp => ?_, fun hn => ?_⟩
    · exact exec_answers rfl rfl h (congrArg (fun u : State => u.complete (newRun .prgStop p s) .ok 0) (if_pos ⟨hm, hb, hw, hp⟩)) (by simp)
    · exact exec_answers rfl rfl h (congrArg (fun u : State => u.complete (newRun .prgStop p s) .ok 0) (if_neg hn)) (by simp)
  · intro j k u put
    refine ⟨fun hd => exec_answers rfl rfl h (if_pos hd) (by simp [u]), fun hd hb => ?_, fun b o hd hb hc ho => ?_⟩
    · refine exec_answers rfl rfl h ?_ (by simp [put, u])
      refine (if_neg ?_).trans (if_pos hb)
      simpa using hd
    · refine (exec_act rfl rfl h).trans (next_eq ((if_neg ?_).trans ((if_neg ?_).trans ?_)))
      · simpa using hd
      · have hb' : ((((s.seen.dropArming c j).disarm c j).seg k).inBank.isSome) ≠ true := by simpa using hb
        exact hb'
      · have hc' : s.seen.copyBank p.ctx (sf ((s.seen.ctx p.ctx).step (jentry p)) 0 8 8) = some b := hc
        have ho' : ((s.seen.dropArming p.ctx (jslot p)).disarm p.ctx (jslot p)).fitBank b 16384 = some o := ho
        simp only [newRun_fields, hc', ho']
        rfl

end Sys2Proof.Machine
end

section
/-! O22: the ends of the pin, mirror and jump-slot copies (R154, R155, R181, R282, R319). -/
namespace Sys2Proof.Machine

variable {s t : State} {g : Seg} {j : Job}

theorem State.dram_of_kept (h : s.kept = t.kept) : s.sql.dram = t.sql.dram := (State.kept_iff.1 h).2.2.1

theorem State.ram_of_kept (h : s.kept = t.kept) : s.bnk.ram = t.bnk.ram := (State.kept_iff.1 h).2.2.2

/-- A byte no write of the list goes to keeps its value. -/
theorem Memory.read_foldl_write {l : List Nat} {v : Byte} {a : Nat} (h : a ∉ l) :
    Memory.read (l.foldl (fun s d => s.updSql (fun q => { q with dram := Memory.write q.dram d v })) s).sql.dram a = Memory.read s.sql.dram a := by
  induction l generalizing s with
  | nil => rfl
  | cons d ds ih =>
    rw [List.foldl_cons, ih fun hm => h (List.mem_cons_of_mem d hm)]
    exact Tbl.get_set_ne fun he => h (he ▸ List.mem_cons_self)

/-- Bytes written to a segment's placement in DRAM reach their own addresses only. -/
theorem State.writeDram_read {d : List Byte} {o a : Nat} (h : ∀ i, i < d.length → a ∉ g.dpasOf (o + i)) :
    Memory.read (s.writeDram g o d).sql.dram a = Memory.read s.sql.dram a := by
  induction d generalizing s o with
  | nil => rfl
  | cons v vs ih =>
    refine (ih fun i hi => ?_).trans (Memory.read_foldl_write (h 0 (Nat.zero_lt_succ _)))
    have := h (i + 1) (Nat.succ_lt_succ hi)
    rwa [show o + 1 + i = o + (i + 1) by omega]

/-- A write to DRAM changes nothing else. -/
theorem State.writeDram_others {d : List Byte} {o : Nat} {β : Type} (π : State → β) (hπ : ∀ (t : State) f, π (t.updSql f) = π t) :
    π (s.writeDram g o d) = π s := by
  induction d generalizing s o with
  | nil => rfl
  | cons v vs ih => exact ih.trans (State.foldl_keeps π fun t _ => hπ t _)

/-- Bytes written to a bank are read back from their places, and elsewhere nothing changes. -/
theorem State.writeBank_read {b o a : Nat} {d : List Byte} : Memory.read (s.writeBank b o d).bnk.ram a =
    if bankKey b o ≤ a ∧ a < bankKey b o + d.length then d.getD (a - bankKey b o) 0 else Memory.read s.bnk.ram a := Tbl.get_setMany a

/-- Settles O22: a copy's guard is `heldUp`, and its target is the one range it writes. -/
theorem copiesEndAndStoreOnlyTheirTarget : Obligations.CopiesEndAndStoreOnlyTheirTarget := by
  intro s slot c n k
  refine ⟨fun j hh => ⟨fun hj => ?_, fun hj => ?_, fun hj => ?_⟩, fun h => ?_, fun j hj hh => ?_, fun h => ?_, fun j hj hh => ?_, fun h => ?_, fun j hj hh => ?_⟩
  · show execPinCopyEnd slot s = _
    unfold execPinCopyEnd
    simp only [hj, k, hh, if_true]
  · show execMirrorCopyEnd slot s = _
    unfold execMirrorCopyEnd
    simp only [hj, k, hh, if_true]
  · show execJmpArmCopyEnd c n s = _
    unfold execJmpArmCopyEnd
    simp only [hj, hh, if_true]
  · show execPinCopyEnd slot s = _
    unfold execPinCopyEnd
    simp only [h, k]
  · intro u
    have hx : execPinCopyEnd slot s = match (u.seg k).pin with
        | some (b, o, false) =>
          .next ((((u.writeBank b o (u.loadSeg k 0 (u.seg k).bytes)).updSeg k (fun g => { g with pin := some (b, o, true) })).liftSeg k).complete j.run .ok b)
        | _ => .next (u.complete j.run .staleGen 0) := by
      unfold execPinCopyEnd
      simp only [hj, k, hh, Bool.false_eq_true, if_false]
      rfl
    refine ⟨fun b o hp => ?_, fun hp => hx.trans ?_⟩
    · intro d
      refine ⟨_, hx.trans ?_, rfl, ?_, fun a => ?_⟩
      · have hp' : (u.seg k).pin = some (b, o, false) := hp
        rw [hp']
        rfl
      · rw [State.dram_of_kept (State.complete_kept _ _ _ _)]
        rfl
      · rw [State.ram_of_kept (State.complete_kept _ _ _ _)]
        exact State.writeBank_read
    · split
      · next b o hb => exact absurd hb (hp b o)
      · rfl
  · show execMirrorCopyEnd slot s = _
    unfold execMirrorCopyEnd
    simp only [h, k]
  · intro u
    refine ⟨fun e m he => ?_, fun he => ?_⟩
    · intro g d
      have hseg : u.updSeg k (fun x => { x with ext := e, nExt := m, mirrored := !(u.seg k).mirrored, newExt := none }) = u.updSeg k (fun _ => g) := rfl
      have hg : (u.updSeg k (fun _ => g)).seg k = g := by rw [State.updSeg_seg, if_pos rfl]
      have hx : execMirrorCopyEnd slot s = .next ((((((u.updSeg k (fun _ => g)).writeDram g 0 d).enqueueRange g 4 0 (s.seg k).bytes).freeExtents
          (s.seg k).ext (s.seg k).nExt).liftSeg k).complete j.run .ok 0) := by
        have he' : (u.seg k).newExt = some (e, m) := he
        unfold execMirrorCopyEnd
        simp only [hj, k, hh, Bool.false_eq_true, if_false]
        rw [show (((s.dropJobs (fun x => decide (x = j))).endBulk j.run.seq).seg slot.toNat).newExt = some (e, m) from he]
        show Host.Outcome.next (((((((u.updSeg k _).writeDram ((u.updSeg k _).seg k) 0 d).enqueueRange _ 4 0 _).freeExtents _ _).liftSeg k).complete j.run .ok 0)) = _
        rw [hseg, hg]
        rfl
      refine ⟨_, hx, rfl, ?_, fun a ha => ?_⟩
      · rw [State.ram_of_kept (t := (u.updSeg k (fun _ => g)).writeDram g 0 d) (by simp), State.writeDram_others (fun t => t.bnk.ram) (by intros; rfl)]
        rfl
      · rw [State.dram_of_kept (t := (u.updSeg k (fun _ => g)).writeDram g 0 d) (by simp), State.writeDram_read (by simpa using ha)]
        rfl
    · show execMirrorCopyEnd slot s = _
      unfold execMirrorCopyEnd
      simp only [hj, k, hh, Bool.false_eq_true, if_false]
      rw [show (((s.dropJobs (fun x => decide (x = j))).endBulk j.run.seq).seg slot.toNat).newExt = none from he]
  · show execJmpArmCopyEnd c n s = _
    unfold execJmpArmCopyEnd
    simp only [h]
  · intro u x
    have hx : execJmpArmCopyEnd c n s = match x.copy with
        | some (b, o) => .next (((u.writeBank b o (u.loadSeg x.seg 0 (s.seg x.seg).headBytes)).updJump c n (fun y => { y with st := 2 })).complete j.run .ok 0)
        | none => .next ((u.updJump c n (fun y => { y with st := if y.st = 1 then 2 else y.st })).complete j.run .ok 0) := by
      unfold execJmpArmCopyEnd
      simp only [hj, hh, Bool.false_eq_true, if_false]
      rfl
    refine ⟨fun b o hp => ?_, fun hp => hx.trans ?_⟩
    · intro d
      refine ⟨_, hx.trans ?_, rfl, ?_, fun a => ?_⟩
      · rw [hp]
      · rw [State.dram_of_kept (State.complete_kept _ _ _ _)]
        rfl
      · rw [State.ram_of_kept (State.complete_kept _ _ _ _)]
        exact State.writeBank_read
    · rw [hp]

end Sys2Proof.Machine
end

section
/-! O23 and O24: the packets of the channel, measurement and event families. -/
namespace Sys2Proof.Machine

variable {s u : State} {p : Pkt} {op : Op}

/-- A packet with a PERIOD completes after its last repetition, and otherwise waits for the next (R113). -/
theorem exec_repeats {c : Instr} (hc : packetOf c = some (op, p)) (hper : periodic op = true) (h : startsNow op p s = true)
    (he : (meaningOf op).act (newRun op p s) s.seen = u) (hk : u.kept = s.seen.kept) (hop : op ≠ .fwSchedule := by decide) :
    (repeatOf op p ≤ 1 → exec c s = .next (u.answered op p .ok 0)) ∧
    (1 < repeatOf op p → exec c s = .next { u with sched := u.sched ++ [{
      run := newRun op p s, act := s.tb + BitVec.ofNat 64 (periodOf op p), period := periodOf op p, reps := repeatOf op p - 1 }] }) := by
  have hx : exec c s = .next (finishRep (newRun op p s) s.tb (periodOf op p) (repeatOf op p) u) := by
    rw [exec_packet hc, submit_startsNow h, if_pos hper, he]
  constructor
  · intro hn
    rw [hx]
    refine next_answered ?_ hop (State.seq_seen hk)
    exact if_pos hn
  · intro hn
    rw [hx]
    exact next_eq (if_neg (by omega))

/-- The boundary of a start reads only the channel's ramp. -/
theorem State.startCount_updFch {c : Nat} {g : Fch → Fch} (hg : ∀ f, (g f).rampEnd = f.rampEnd) : (s.updFch c g).startCount c = s.startCount c := by
  unfold State.startCount
  rw [State.updFch_fch, if_pos rfl, hg]
  rfl

/-- An untimed PCH_LOAD puts each code into its holding register (R259). -/
theorem actPchLoad_eq : (loadSel p).foldl (fun u n => u.loadHold (newRun .pchLoad p s) n) u =
    ((List.range 16).filter (fun n => pb p 4 n)).foldl (fun u n => u.updPch n (fun c => { c with
      holdCode := (pw p (5 + n)).setWidth 20, holdFresh := true, holdSrc := 0 })) u := rfl

/-- A PCH_CONFIG that switches no range (R250, R253). -/
theorem actPchConfig_eq {r : Run} (hs : pcSwitches r.p (s.pch (pcOf_ r.p)) = false) :
    let n := pcOf_ r.p
    let u := s.updPch n (fun c => c.configure r.p s.lc)
    let v := u.endKind (fun k => decide (k = .pchDisable n)) .ok 0
    (pcEnable r.p = true → (s.pch n).st = .ramping → actPchConfig r s =
      (v.updPch n (fun c => { c.freeze v.lc with st := .enabled, ticksOff := false })).complete r .ok 0) ∧
    (pcEnable r.p = true → (s.pch n).st ≠ .ramping → actPchConfig r s = (u.updPch n (fun c => { c with st := .enabled, ticksOff := false })).complete r .ok 0) ∧
    (pcEnable r.p = false → (s.pch n).st = .enabled → actPchConfig r s = (u.rampPch n).addJob r (.pchDisable n)) ∧
    (pcEnable r.p = false → (s.pch n).st ≠ .enabled → actPchConfig r s = u.complete r .ok 0) := by
  intro n u v
  unfold actPchConfig
  simp only [hs, Bool.false_eq_true, if_false]
  refine ⟨fun he hst => ?_, fun he hst => ?_, fun he hst => ?_, fun he hst => ?_⟩
  · rw [if_pos he]
    simp only [n] at hst
    rw [hst]
  · rw [if_pos he]
    split
    · next h => exact absurd h hst
    · rfl
  · rw [if_neg (by simp [he]), if_pos hst]
  · rw [if_neg (by simp [he]), if_neg hst]

/-- Settles O23: each act is its branch. -/
theorem channelPacketsTakeEffect : Obligations.ChannelPacketsTakeEffect := by
  intro p s
  refine ⟨fun h => ?_, fun h => ?_, fun h => ?_, fun h => ?_, fun h => ?_, fun h => exec_goes rfl rfl h rfl, fun h => ?_⟩
  · intro c u
    have hst : (u.fch c).st = (s.fch c).st := by simp [u]
    have hre : (u.fch c).rampEnd = (s.fch c).rampEnd := by simp [u]
    have hseen : s.seen.startCount c = s.startCount c := rfl
    have hcount : u.startCount c = s.startCount c :=
      (State.startCount_updFch (s := s.seen) (g := fun f => { f with rampLc := pf p 5 0 11 }) fun f => rfl).trans hseen
    refine ⟨fun ho hm => ?_, fun ho hm => ?_, fun ho => ?_⟩
    · rw [← hst] at hm
      refine exec_goes rfl rfl h ((if_pos ho).trans ((if_pos hm).trans ?_))
      rw [← hcount, ← hre]
      rfl
    · rw [← hst] at hm
      exact exec_answers rfl rfl h ((if_pos ho).trans (if_neg hm)) (by simp [u])
    · exact exec_answers rfl rfl h (if_neg (by simpa using ho)) (by simp [u])
  · intro c
    exact ⟨fun hf => exec_answers rfl rfl h (if_pos hf) (by simp), fun hf => exec_answers rfl rfl h (if_neg hf) (by simp)⟩
  · intro n c u
    refine ⟨fun hd hr => exec_goes rfl rfl h (if_pos ?_), fun hn => ?_⟩
    · exact Bool.and_eq_true_iff.2 ⟨decide_eq_true hd, decide_eq_true hr⟩
    · have hsw : pcSwitches (newRun .pchConfig p s).p (s.seen.pch (pcOf_ p)) = false := by
        rw [Bool.eq_false_iff]
        exact fun hsw => hn ((Bool.and_eq_true_iff.1 hsw).imp of_decide_eq_true of_decide_eq_true)
      obtain ⟨h1, h2, h3, h4⟩ := actPchConfig_eq hsw
      exact ⟨fun he hst => exec_answers rfl rfl h (h1 he hst) (by simp [u]), fun he hst => exec_answers rfl rfl h (h2 he hst) (by simp [u]),
        fun he hst => exec_goes rfl rfl h (h3 he hst), fun he hst => exec_answers rfl rfl h (h4 he hst) (by simp [u])⟩
  · exact exec_answers rfl rfl h (congrArg (fun u : State => u.complete (newRun .pchLoad p s) .ok 0) actPchLoad_eq) (by simp)
  · intro u
    exact exec_repeats rfl rfl h rfl (by simp [u])
  · intro v u
    exact ⟨fun hh => exec_answers rfl rfl h (congrArg (fun u : State => u.complete (newRun .vocConfig p s) .ok 0) (if_neg (by simpa using hh))) (by simp [u]),
      fun hh => exec_answers rfl rfl h (congrArg (fun u : State => u.complete (newRun .vocConfig p s) .ok 0) (if_pos hh)) (by simp [u])⟩

/-- What a routing answers: the channel's fan-out (R358). -/
def State.routed (t : State) (r : Run) : State := t.complete r .ok (t.ev (erChannel r.p)).fanout

/-- EVT_ROUTE adds or removes one consumer (R357, R358). -/
theorem actEvtRoute_eq {r : Run} :
    let k := erChannel r.p
    let u := s.snapRegs k
    let v := u.updEv k (fun e => { e with source := erSource r.p, direct := erDirect r.p })
    (erRemove r.p = true → u.consChannel (erCons r.p) = some k → actEvtRoute r s =
      ((u.updEv k (fun e => { e with cons := e.cons.filter (fun x => decide (x ≠ erCons r.p)) })).unattach (erCons r.p)).routed r) ∧
    (erRemove r.p = true → u.consChannel (erCons r.p) ≠ some k → actEvtRoute r s = u.routed r) ∧
    (erRemove r.p = false → (erNone r.p = true ∨ v.consChannel (erCons r.p) = some k) → actEvtRoute r s = v.routed r) ∧
    (erRemove r.p = false → erNone r.p = false → v.consChannel (erCons r.p) ≠ some k → actEvtRoute r s =
      ((v.updEv k (fun e => { e with cons := e.cons ++ [erCons r.p] })).attach (erCons r.p) k).routed r) := by
  intro k u v
  have hx : actEvtRoute r s = (if erRemove r.p = true then
      (if u.consChannel (erCons r.p) = some k then (u.updEv k (fun e => { e with cons := e.cons.filter (fun x => decide (x ≠ erCons r.p)) })).unattach (erCons r.p) else u)
      else if (erNone r.p || decide (v.consChannel (erCons r.p) = some k)) = true then v
      else (v.updEv k (fun e => { e with cons := e.cons ++ [erCons r.p] })).attach (erCons r.p) k).routed r := rfl
  rw [hx]
  refine ⟨fun hr hc => ?_, fun hr hc => ?_, fun hr hc => ?_, fun hr hn hc => ?_⟩
  · rw [if_pos hr, if_pos hc]
  · rw [if_pos hr, if_neg hc]
  · rw [if_neg (by simp [hr]), if_pos (by simpa using hc)]
  · rw [if_neg (by simp [hr]), if_neg (by simp [hn, hc])]

/-- EVT_FIRE, accepted, registers its event (R374). -/
theorem actEvtFire_of (h : (meaningOf .evtFire).accept (newRun .evtFire p s) s.seen = none) :
    (meaningOf .evtFire).act (newRun .evtFire p s) s.seen = s.seen.register (erChannel p) s.lc none := by
  refine if_pos ?_
  have h' : orElse (periodCheck .evtFire p) (firstOf [(!s.seen.holds p.ctx 3 (erChannel p), .notOwner, 0),
    (decide ((s.seen.ev (erChannel p)).source ≠ softSource), .busy, 0)]) = none := h
  cases hper : periodCheck .evtFire p with
  | some e => simp [orElse, hper] at h'
  | none =>
    cases hh : s.seen.holds p.ctx 3 (erChannel p) with
    | false => simp [orElse, firstOf, hper, hh] at h'
    | true => exact ⟨hh, by simpa [orElse, firstOf, hper, hh] using h'⟩

/-- Settles O24: each act is its branch. -/
theorem measurementAndEventPacketsTakeEffect : Obligations.MeasurementAndEventPacketsTakeEffect := by
  intro p s
  refine ⟨fun h => exec_goes rfl rfl h rfl, fun h => exec_goes rfl rfl h rfl, fun h => ?_, fun h => ?_, fun h => ?_, fun h => ?_⟩
  · intro d
    exact exec_answers (t := { s.seen with out := s.out ++ [.write p.fn.val (pq p 6) (d.take (pw p 5).toNat)] }) rfl rfl h rfl (State.kept_iff.2 ⟨rfl, rfl, rfl, rfl⟩)
  · intro k u v
    obtain ⟨h1, h2, h3, h4⟩ := actEvtRoute_eq (s := s.seen) (r := newRun .evtRoute p s)
    exact ⟨fun hr hc => exec_answers rfl rfl h (h1 hr hc) (by simp [u]), fun hr hc => exec_answers rfl rfl h (h2 hr hc) (by simp [u]),
      fun hr hc => exec_answers rfl rfl h (h3 hr hc) (by simp [u, v]), fun hr hn hc => exec_answers rfl rfl h (h4 hr hn hc) (by simp [u, v])⟩
  · intro l u
    exact exec_answers rfl rfl h rfl (by simp [u])
  · intro k u
    exact exec_repeats rfl rfl h (actEvtFire_of (startsNow_iff.1 h).2.2.2.2.2.1) (by simp [u])

end Sys2Proof.Machine
end

section
/-! O25: the packets of calibration, correction and the banks (R346 to R351, R399 to R409). -/
namespace Sys2Proof.Machine

variable {s : State} {p : Pkt}

/-- The four actions of AOC_CTRL (R403). -/
theorem actAocCtrl_eq {r : Run} :
    let c := acChan r.p
    (acAction r.p = 0 → actAocCtrl r s = (s.updAoc c (fun a => { a with freeze := false })).complete r .ok 0) ∧
    (acAction r.p = 1 → actAocCtrl r s = (s.updAoc c (fun a => { a with freeze := true })).complete r .ok 0) ∧
    (acAction r.p = 2 → actAocCtrl r s = ((s.dropCommit c).updAoc c (fun a => { a.hostDecides s.lc with
      inForce := {}, pendSet := {}, pending := 0, lastSmall := false, windows := 0, last := s.tb, host := sat 255 (a.host + 1) })).complete r .ok 0) ∧
    (acAction r.p = 3 → actAocCtrl r s = (s.updAoc c (fun a => { (a.hostDecides s.lc).commit s.tb with host := sat 255 (a.host + 1) })).complete r .ok 0) := by
  intro c
  refine ⟨fun h => ?_, fun h => ?_, fun h => ?_, fun h => ?_⟩ <;> simp only [actAocCtrl, h] <;> rfl

/-- Settles O25: each act is its branch. -/
theorem calibrationAndBankPacketsTakeEffect : Obligations.CalibrationAndBankPacketsTakeEffect := by
  intro p s b c
  refine ⟨fun h => ⟨fun hk => ?_, fun hk => ?_⟩, fun h => exec_goes rfl rfl h rfl, fun h => exec_goes rfl rfl h rfl, fun h => ?_, fun h => ?_, fun h => ?_, fun h => ?_⟩
  · refine exec_answers rfl rfl h ?_ (State.kept_iff.2 ⟨rfl, rfl, rfl, rfl⟩)
    show actCalRun _ _ = _
    simp only [actCalRun, newRun_fields, hk]
    rfl
  · intro u
    refine exec_goes rfl rfl h ?_
    show actCalRun _ _ = _
    unfold actCalRun
    split
    · next hk' => exact absurd hk' hk
    · rfl
  · obtain ⟨h0, h1, h2, h3⟩ := actAocCtrl_eq (s := s.seen) (r := newRun .aocCtrl p s)
    exact ⟨fun ha => exec_answers rfl rfl h (h0 ha) (by simp), fun ha => exec_answers rfl rfl h (h1 ha) (by simp),
      fun ha => exec_answers rfl rfl h (h2 ha) (by simp), fun ha => exec_answers rfl rfl h (h3 ha) (by simp)⟩
  · rw [exec_accept rfl h]
    refine next_eq ?_
    show (match acAction p with
      | 3 => (s.accepting .aocCtrl p).updAoc c (fun a => { a with pending := 2 })
      | 2 => (s.accepting .aocCtrl p).dropCommit c
      | _ => s.accepting .aocCtrl p) = _
    split
    · next h3 => rw [h3, if_pos rfl]
    · next h2 => rw [h2]; rfl
    · next h3 h2 => rw [if_neg h3, if_neg h2]
  · refine ⟨fun hw => ?_, fun ht hr hst => ?_, fun ht hr hst => ?_⟩
    · exact exec_goes rfl rfl h (if_pos hw)
    · exact exec_answers rfl rfl h ((if_neg (by simp [ht, hr, b])).trans (if_pos hst)) (by simp)
    · exact exec_goes rfl rfl h ((if_neg (by simp [ht, hr, b])).trans (if_neg hst))
  · exact ⟨fun ho => exec_answers rfl rfl h (if_pos ho) (by simp), fun ho => exec_goes rfl rfl h (if_neg ho)⟩

end Sys2Proof.Machine
end

section
/-! O26: the packets of firmware, the log and the memory diagnosis (R332, R333, R437, R438, R457 to R465). -/
namespace Sys2Proof.Machine

variable {s : State} {p : Pkt} {r : Run}

/-- A MEM_DIAG that acts on a frozen pseudo-channel: after its 10 ms the timeout has decided (R332). -/
theorem actMemDiag_frozen {t : Nat} (ha : diagAction r.p ≠ 0) (hf : (s.pc (diagPc r.p)).frozen = some t) : actMemDiag r s =
    if t + 16000000 ≤ s.lc then (s.freezeOver (diagPc r.p) t).endDiag r 0
    else if (s.pc (diagPc r.p)).unfreeze.isSome then s.endDiag r 0
    else if diagAction r.p = 1 then (s.unfreezePc (diagPc r.p) 0).endDiag r 1
    else if ((s.retireCaptured (diagPc r.p) 1).pc (diagPc r.p)).copying.isSome then (s.retireCaptured (diagPc r.p) 1).addJob r (.memRetire (diagPc r.p))
    else (s.retireCaptured (diagPc r.p) 1).endDiag r 1 := by
  unfold actMemDiag
  extract_lets k q
  split
  case h_1 _ h0 => exact absurd h0 ha
  case h_2 t' h1 ht =>
    obtain rfl : t' = t := Option.some.inj (ht.symm.trans hf)
    simp only [h1, if_true]
    rfl
  case h_3 hn => exact absurd (hn.symm.trans hf) (by simp)
  case h_4 _ t' ht h0 h1 =>
    obtain rfl : t' = t := Option.some.inj (ht.symm.trans hf)
    have h1' : diagAction r.p ≠ 1 := h1
    simp only [if_neg h1']
    rfl
  case h_5 _ hn _ _ => exact absurd (hn.symm.trans hf) (by simp)

/-- A MEM_DIAG that acts on a pseudo-channel in service retires the captured row, where it can (R333). -/
theorem actMemDiag_live (ha : diagAction r.p = 2) (hf : (s.pc (diagPc r.p)).frozen = none) : actMemDiag r s =
    match (s.pc (diagPc r.p)).capture with
    | some c =>
      if s.rowLive (diagPc r.p) c.bank c.row && (s.pc (diagPc r.p)).copying.isNone then
        (if ((s.startRetire (diagPc r.p) c.bank c.row).pc (diagPc r.p)).copying.isSome then (s.startRetire (diagPc r.p) c.bank c.row).addJob r (.memRetire (diagPc r.p))
        else (s.startRetire (diagPc r.p) c.bank c.row).endDiag r 0)
      else s.endDiag r 0
    | none => s.endDiag r 0 := by
  unfold actMemDiag
  simp only [hf, ha] <;> rfl

/-- Settles O26: each act is its branch. -/
theorem firmwareLogAndDiagnosticPacketsTakeEffect : Obligations.FirmwareLogAndDiagnosticPacketsTakeEffect := by
  intro p s r k
  refine ⟨fun h => exec_goes rfl rfl h rfl, fun h => exec_accept rfl h, fun h => exec_act rfl rfl h, fun h => ⟨fun t ht hs hl => ?_, fun hn => ?_⟩,
    fun h => exec_goes rfl rfl h rfl, fun h => ?_, fun h => ?_⟩
  · refine exec_answers rfl rfl h ?_ (by simp)
    show actFwCancel _ _ = _
    unfold actFwCancel
    rw [show s.seen.activation = some t from ht]
    exact if_pos ⟨hs, hl⟩
  · refine exec_answers rfl rfl h ?_ rfl
    show actFwCancel _ _ = _
    unfold actFwCancel
    split
    · next t ht => exact if_neg (hn t ht)
    · rfl
  · intro x u
    refine exec_answers rfl rfl h rfl ?_
    simp [u]
  · have hx : exec (.memDiag p) s = .next (actMemDiag r s.seen) := exec_act rfl rfl h
    rw [hx]
    refine ⟨fun ha => ?_, fun t ha hf ht => ?_, fun t ha hf ht hu => ?_, fun t ha hf ht hu => ?_, fun ha hf => ?_, fun t ha hf ht hu => ?_,
      fun c ha hf hc hl hcp => ?_, fun ha hf hc => ?_⟩
    · unfold actMemDiag
      simp only [show diagAction r.p = 0 from ha]
      rfl
    · rw [actMemDiag_frozen (s := s.seen) (r := r) ha hf]
      exact next_eq (if_pos ht)
    · rw [actMemDiag_frozen (s := s.seen) (r := r) ha hf]
      exact next_eq ((if_neg (show ¬ t + 16000000 ≤ s.seen.lc from Nat.not_le.2 ht)).trans (if_pos hu))
    · have ha0 : diagAction r.p ≠ 0 := by rw [show diagAction r.p = 1 from ha]; decide
      have hu' : ¬ (s.seen.pc (diagPc r.p)).unfreeze.isSome = true := by simp [hu, r, k]
      rw [actMemDiag_frozen (s := s.seen) (r := r) ha0 hf, if_neg (show ¬ t + 16000000 ≤ s.seen.lc from Nat.not_le.2 ht), if_neg hu', if_pos (show diagAction r.p = 1 from ha)]
      rfl
    · unfold actMemDiag
      simp only [show diagAction r.p = 1 from ha, show (s.seen.pc (diagPc r.p)).frozen = none from hf]
    · intro u
      have ha0 : diagAction r.p ≠ 0 := by rw [show diagAction r.p = 2 from ha]; decide
      have ha1 : diagAction r.p ≠ 1 := by rw [show diagAction r.p = 2 from ha]; decide
      have hu' : ¬ (s.seen.pc (diagPc r.p)).unfreeze.isSome = true := by simp [hu, r, k]
      rw [actMemDiag_frozen (s := s.seen) (r := r) ha0 hf, if_neg (show ¬ t + 16000000 ≤ s.seen.lc from Nat.not_le.2 ht), if_neg hu', if_neg ha1]
      rfl
    · intro u
      rw [actMemDiag_live (s := s.seen) (r := r) ha hf]
      have hcond : (s.seen.rowLive (diagPc r.p) c.bank c.row && (s.seen.pc (diagPc r.p)).copying.isNone) = true :=
        Bool.and_eq_true_iff.2 ⟨hl, Option.isNone_iff_eq_none.2 hcp⟩
      rw [show (s.seen.pc (diagPc r.p)).capture = some c from hc]
      dsimp only
      rw [if_pos hcond]
      rfl
    · rw [actMemDiag_live (s := s.seen) (r := r) ha hf]
      refine next_eq ?_
      split
      · next c hc' =>
        refine if_neg fun hb => hc c hc' ?_
        obtain ⟨hl, hcp⟩ := Bool.and_eq_true_iff.1 hb
        exact ⟨hl, Option.isNone_iff_eq_none.1 hcp⟩
      · rfl

end Sys2Proof.Machine
end

section
/-! O27: the ends, failures and timeouts of transfers (R106, R120, R121, R150, R154). -/
namespace Sys2Proof.Machine

variable {s : State} {g : Seg}

/-- A reading of neither memory's contents nor its bookkeeping survives the bytes that arrive for a DRAM segment. -/
theorem State.storeDram_others {β : Type} (π : State → β) (h : ∀ (t : State) q m, π { t with sql := q, mem := m } = π t) {k o : Nat} {d : List Byte} :
    π ((((s.writeDram g o d).clearUnits g o d.length).moveMirror k o d).enqueueRange g 3 o d.length) = π s := by
  have hs : ∀ (t : State) f, π (t.updSql f) = π t := fun t f => h t _ t.mem
  have hm : ∀ (t : State) f, π (t.updMem f) = π t := fun t f => h t t.sql _
  rw [State.enqueueRange_read π fun t m l => h t _ m]
  have hmove : ∀ t : State, π (t.moveMirror k o d) = π t := by
    intro t
    unfold State.moveMirror
    split
    · exact State.writeDram_others π hs
    · rfl
  rw [hmove]
  refine Eq.trans (State.foldl_keeps π fun t x => hm t _) ?_
  exact State.writeDram_others π hs

/-- The bytes a SEG_WRITE brings to a DRAM segment reach that segment's placements only (R150, R280). -/
theorem State.storeSeg_dram {k o a : Nat} {d : List Byte}
    (h : (s.seg k).bank = none → ∀ i, i < d.length → a ∉ (s.seg k).dpasOf (o + i) ∧
      ∀ e n, (s.seg k).newExt = some (e, n) → a ∉ { s.seg k with ext := e, nExt := n, mirrored := !(s.seg k).mirrored : Seg }.dpasOf (o + i)) :
    Memory.read (s.storeSeg k o d).sql.dram a = Memory.read s.sql.dram a := by
  unfold State.storeSeg
  extract_lets g t
  split
  · rfl
  · next hb =>
    have hfold : ∀ (t : State) (l : List (Nat × Nat × Nat)), (l.foldl (fun s c => if o < c.2.2 then s.writeBank c.1 (c.2.1 + o) (d.take (c.2.2 - o)) else s) t).sql.dram =
        t.sql.dram := fun t l => State.foldl_keeps (fun t => t.sql.dram) fun t c => by split <;> rfl
    rw [hfold, State.dram_of_kept (State.enqueueRange_kept _ _ _ _ _)]
    have hseg : ((s.writeDram g o d).clearUnits g o d.length).seg k = g := by
      refine Eq.trans (State.foldl_keeps (fun t => t.seg k) fun t x => rfl) ?_
      exact State.writeDram_others (fun t => t.seg k) fun _ _ => rfl
    have hmove : ∀ t : State, t.seg k = g → Memory.read (t.moveMirror k o d).sql.dram a = Memory.read t.sql.dram a := by
      intro t ht
      unfold State.moveMirror
      rw [ht]
      split
      · next e n he => exact State.writeDram_read fun i hi => (h hb i hi).2 e n he
      · rfl
    rw [hmove _ hseg, State.dram_of_kept (State.clearUnits_kept _ _ _ _)]
    exact State.writeDram_read fun i hi => (h hb i hi).1

/-- Of the banks it reaches the segment's place, or its pinned and jump-slot copies (R154, R181). -/
theorem State.storeSeg_ram {k o a : Nat} {d : List Byte}
    (hbank : ∀ b x, (s.seg k).bank = some (b, x) → ¬ (bankKey b (x + o) ≤ a ∧ a < bankKey b (x + o) + d.length))
    (hcopies : (s.seg k).bank = none → ∀ c ∈ s.copiesOf k, ¬ (bankKey c.1 (c.2.1 + o) ≤ a ∧ a < bankKey c.1 (c.2.1 + o) + min (c.2.2 - o) d.length)) :
    Memory.read (s.storeSeg k o d).bnk.ram a = Memory.read s.bnk.ram a := by
  unfold State.storeSeg
  extract_lets g t
  split
  · next b x hb => exact State.writeBank_read.trans (if_neg (hbank b x hb))
  · next hb =>
    have hfold : ∀ (l : List (Nat × Nat × Nat)) (t : State),
        (∀ c ∈ l, ¬ (bankKey c.1 (c.2.1 + o) ≤ a ∧ a < bankKey c.1 (c.2.1 + o) + min (c.2.2 - o) d.length)) →
        Memory.read (l.foldl (fun s c => if o < c.2.2 then s.writeBank c.1 (c.2.1 + o) (d.take (c.2.2 - o)) else s) t).bnk.ram a = Memory.read t.bnk.ram a := by
      intro l
      induction l with
      | nil => exact fun _ _ => rfl
      | cons c l ih =>
        intro t hl
        rw [List.foldl_cons, ih _ fun x hx => hl x (List.mem_cons_of_mem c hx)]
        split
        · rw [State.writeBank_read, if_neg]
          rw [List.length_take]
          exact hl c List.mem_cons_self
        · rfl
    have hcopy : t.copiesOf k = s.copiesOf k := State.storeDram_others (fun t => t.copiesOf k) fun _ _ _ => rfl
    have hram : t.bnk.ram = s.bnk.ram := State.storeDram_others (fun t => t.bnk.ram) fun _ _ _ => rfl
    rw [hfold _ _ (hcopy ▸ hcopies hb), hram]

/-- Settles O27: the packet that a transfer names is found by its ring and tag, and `finishTransfer` is its opcode's branch. -/
theorem transfersEndFailOrTimeOut : Obligations.TransfersEndFailOrTimeOut := by
  intro s fn ring tag data at_
  refine ⟨fun h => ⟨?_, ?_⟩, fun j hj => ?_, fun he hr => ?_, fun h => ?_, fun h => ?_, fun j hj => ?_⟩
  · show execHostTransferEnd fn ring tag data s = _
    unfold execHostTransferEnd
    rw [show s.jobOf fn ring tag (fun k => decide (k = .transfer)) = none from h]
  · show execHostReadFailure (.data fn ring tag data) s = _
    unfold execHostReadFailure
    dsimp only
    rw [show s.jobOf fn ring tag (fun k => decide (k = .transfer)) = none from h]
  · intro u ends
    have hj' : s.jobOf fn ring tag (fun k => decide (k = .transfer)) = some j := hj
    have hx : exec (.hostTransferEnd fn ring tag data) s = .next (if s.heldUp j.run then s else finishTransfer j.run data u) := by
      show execHostTransferEnd fn ring tag data s = _
      unfold execHostTransferEnd
      rw [hj']
    have hf : exec (.hostReadFailure (.data fn ring tag data)) s = if reads j.run.op then
        .next (((dropTransfer j.run data .fault data.length u).fault 0x903 1 (.f fn) (if usesCtx j.run.op then some j.run.p.ctx.val else none) ring
          (detQ j.run .fault data.length data.length)).complete j.run .fault data.length) else .next s := by
      show execHostReadFailure (.data fn ring tag data) s = _
      unfold execHostReadFailure
      dsimp only
      rw [hj']
    have hends : ∀ t, finishTransfer j.run data u = t → ends t := by
      intro t ht hh
      rw [hx, if_neg (by simp [hh]), ht]
    refine ⟨fun hh => hx.trans (next_eq (if_pos hh)), fun ho => ?_, fun ho => hends _ ?_, fun ho => hends _ ?_, fun ho => hends _ ?_, fun ho => hends _ ?_,
      fun ho => hends _ ?_, fun ho => hends _ ?_, fun ho => hends _ ?_, fun ho => hends _ ?_, fun hr => hf.trans (if_pos hr), fun hr => hf.trans (if_neg (by simp [hr]))⟩
    · intro k g o d
      refine ⟨_, hends _ ?_, rfl, fun a ha => ?_, fun a hb hc => ?_⟩
      · unfold finishTransfer
        rw [ho]
        rfl
      · rw [State.dram_of_kept (State.complete_kept _ _ _ _)]
        exact State.storeSeg_dram ha
      · rw [State.ram_of_kept (State.complete_kept _ _ _ _)]
        exact State.storeSeg_ram hb hc
    all_goals
      unfold finishTransfer
      simp only [ho]
    · exact congrArg (fun t : State => t.complete j.run .ok 0) rfl
    · exact congrArg (fun t : State => t.complete j.run .ok blobLen) rfl
    · rfl
    · rfl
  · exact if_neg (by rw [he, hr]; decide)
  · refine if_pos ?_
    cases he : (s.ring fn ring).enable with
    | false => rfl
    | true =>
      cases hr : (s.ring fn ring).error with
      | true => rfl
      | false => exact absurd ⟨he, hr⟩ h
  · show execCommandTimeout fn ring tag data s = _
    unfold execCommandTimeout
    rw [show s.jobOf fn ring tag (fun k => !ownTimeout k) = none from h]
  · show execCommandTimeout fn ring tag data s = _
    unfold execCommandTimeout
    rw [show s.jobOf fn ring tag (fun k => !ownTimeout k) = some j from hj]
    dsimp only
    split <;> rfl

end Sys2Proof.Machine
end

section
/-! O28: the scheduler takes the earliest action (R113, R114, R491). -/
namespace Sys2Proof.Machine

variable {s : State}

/-- The order of the scheduler (R113): by activation count, and of equals by acceptance. -/
def Timed.NotAfter (t x : Timed) : Prop := t.act.toNat < x.act.toNat ∨ (t.act = x.act ∧ t.run.seq ≤ x.run.seq)

theorem Timed.NotAfter.refl (t : Timed) : t.NotAfter t := .inr ⟨rfl, Nat.le_refl _⟩

theorem Timed.NotAfter.trans {t x y : Timed} (h : t.NotAfter x) (g : x.NotAfter y) : t.NotAfter y := by
  obtain h | ⟨h, h'⟩ := h <;> obtain g | ⟨g, g'⟩ := g
  · exact .inl (Nat.lt_trans h g)
  · exact .inl (g ▸ h)
  · exact .inl (h ▸ g)
  · exact .inr ⟨h.trans g, Nat.le_trans h' g'⟩

theorem Timed.notAfter_of_before {t x : Timed} (h : t.before x = true) : t.NotAfter x := by
  simp only [Timed.before, Bool.or_eq_true, Bool.and_eq_true, decide_eq_true_eq] at h
  exact h.imp_right fun ⟨ha, hs⟩ => ⟨ha, Nat.le_of_lt hs⟩

theorem Timed.notAfter_of_not_before {t x : Timed} (h : ¬ t.before x = true) : x.NotAfter t := by
  simp only [Timed.before, Bool.or_eq_true, Bool.and_eq_true, decide_eq_true_eq, not_or, not_and, Nat.not_lt] at h
  obtain ⟨hle, hs⟩ := h
  obtain hlt | he := Nat.lt_or_eq_of_le hle
  · exact .inl hlt
  · have he' : t.act = x.act := (BitVec.eq_of_toNat_eq he).symm
    exact .inr ⟨he'.symm, hs he'⟩

/-- The scheduler's choice between the best so far and the next. -/
def nextOf (b : Option Timed) (t : Timed) : Option Timed :=
  match b with
  | none => some t
  | some x => if t.before x then some t else some x

/-- The choice is one of the actions, and none of them is before it. -/
theorem foldl_nextOf {l : List Timed} {x : Timed} : ∃ t ∈ x :: l, l.foldl nextOf (some x) = some t ∧ ∀ y ∈ x :: l, t.NotAfter y := by
  induction l generalizing x with
  | nil => exact ⟨x, List.mem_cons_self, rfl, by simp [Timed.NotAfter.refl]⟩
  | cons z l ih =>
    have hz : ∃ w, nextOf (some x) z = some w ∧ (w = x ∨ w = z) ∧ w.NotAfter x ∧ w.NotAfter z := by
      unfold nextOf
      by_cases hb : z.before x = true
      · exact ⟨z, if_pos hb, .inr rfl, Timed.notAfter_of_before hb, .refl z⟩
      · exact ⟨x, if_neg hb, .inl rfl, .refl x, Timed.notAfter_of_not_before hb⟩
    obtain ⟨w, hw, hm, hx, hzw⟩ := hz
    obtain ⟨t, ht, hf, ha⟩ := ih (x := w)
    refine ⟨t, ?_, by rw [List.foldl_cons, hw, hf], ?_⟩
    · obtain rfl | h := List.mem_cons.1 ht
      · obtain rfl | rfl := hm <;> simp
      · simp [h]
    · have hwt := ha w List.mem_cons_self
      intro y hy
      obtain rfl | rfl | h : y = x ∨ y = z ∨ y ∈ l := by simpa using hy
      · exact hwt.trans hx
      · exact hwt.trans hzw
      · exact ha y (List.mem_cons_of_mem w h)

theorem State.nextTimed_eq : s.nextTimed = (s.sched.filter (fun t => decide (t.run.op ≠ .fwSchedule))).foldl nextOf none := rfl

/-- Settles O28. -/
theorem timedActionsTakeEffectInOrder : Obligations.TimedActionsTakeEffectInOrder := by
  intro s
  refine ⟨fun h => ?_, fun h => ?_⟩
  · have hf : s.sched.filter (fun t => decide (t.run.op ≠ .fwSchedule)) = [] := by
      simpa [List.filter_eq_nil_iff] using h
    show execTimedActionActivation s = _
    unfold execTimedActionActivation
    rw [State.nextTimed_eq, hf]
    rfl
  · obtain ⟨x, l, hl⟩ : ∃ x l, s.sched.filter (fun t => decide (t.run.op ≠ .fwSchedule)) = x :: l := by
      refine List.exists_cons_of_ne_nil fun hn => ?_
      obtain ⟨y, hy, hop⟩ := List.all_eq_false.1 h
      exact List.filter_eq_nil_iff.1 hn y hy (by simpa using hop)
    obtain ⟨t, ht, hf, ha⟩ := foldl_nextOf (l := l) (x := x)
    rw [← hl] at ht ha
    have hnext : s.nextTimed = some t := by rw [State.nextTimed_eq, hl]; exact hf
    obtain ⟨hmem, hop⟩ := List.mem_filter.1 ht
    refine ⟨t, hmem, of_decide_eq_true hop, fun y hy hop => ha y (List.mem_filter.2 ⟨hy, decide_eq_true hop⟩), ?_⟩
    intro w u r m
    have hx : exec .timedActionActivation s = .next { perform m r t.reps t.act u with actAt := some u.lc } := by
      show execTimedActionActivation s = _
      unfold execTimedActionActivation
      rw [hnext]
    refine ⟨fun st res hc => ?_, fun hc hp => ?_, fun hc hp => ?_⟩
    · rw [hx]; unfold perform; rw [hc]
    · rw [hx]; unfold perform; rw [hc]; dsimp only; rw [if_neg (by rw [hp]; exact Bool.false_ne_true)]
    · intro v
      rw [hx]; unfold perform; rw [hc]; dsimp only; rw [if_pos hp]; rfl

end Sys2Proof.Machine
end

section
/-! O29 and O30: the rings, and the doorbells of a function's window (R95 to R109, R115). -/
namespace Sys2Proof.Machine

variable {s : State}

/-- A rotation finds the first of its places that answers. -/
theorem findSome?_rotation {β : Type} {f : Nat → Option β} {g : Nat → Nat} {n : Nat} {b : β}
    (h : ((List.range n).map g).findSome? f = some b) : ∃ i, f (g i) = some b ∧ ∀ j < i, f (g j) = none := by
  induction n generalizing b with
  | zero => simp at h
  | succ n ih =>
    rw [List.range_succ, List.map_append, List.findSome?_append] at h
    cases hn : ((List.range n).map g).findSome? f with
    | some c =>
      rw [hn] at h
      obtain rfl : c = b := by simpa using h
      exact ih hn
    | none =>
      rw [hn] at h
      have hb : f (g n) = some b := by
        cases hg : f (g n) <;> simp [hg] at h ⊢
        exact h
      refine ⟨n, hb, fun j hj => ?_⟩
      exact List.findSome?_eq_none_iff.1 hn _ (List.mem_map_of_mem (List.mem_range.2 hj))

/-- The ring whose turn it is in a function is ready, and no ring of an earlier turn is (R95). -/
theorem State.ringTurn_eq_some {f r : Nat} (h : s.ringTurn f = some r) : s.ringReady f r = true ∧
    ∃ i, ((s.fnWin f).fromRing + i) % 16 = r ∧ ∀ j < i, ¬ s.ringReady f (((s.fnWin f).fromRing + j) % 16) = true := by
  unfold State.ringTurn at h
  rw [List.find?_eq_findSome?_guard] at h
  obtain ⟨i, hi, hj⟩ := findSome?_rotation h
  rw [Option.guard_eq_some_iff] at hi
  obtain ⟨hi, hr⟩ := hi
  exact ⟨hi ▸ hr, i, hi, fun j hji hready => Option.some_ne_none _ ((Option.guard_eq_some_iff.2 ⟨rfl, hready⟩).symm.trans (hj j hji))⟩

/-- A function has no turn to give exactly where none of its rings is ready. -/
theorem State.ringTurn_eq_none {f : Nat} : s.ringTurn f = none ↔ ∀ r < 16, ¬ s.ringReady f r = true := by
  unfold State.ringTurn
  rw [List.find?_eq_none]
  constructor
  · intro h r hr
    refine h r (List.mem_map.2 ⟨(r + 16 - (s.fnWin f).fromRing % 16) % 16, List.mem_range.2 (Nat.mod_lt _ (by decide)), ?_⟩)
    omega
  · intro h r hr
    obtain ⟨i, -, rfl⟩ := List.mem_map.1 hr
    exact h _ (Nat.mod_lt _ (by decide))

/-- The turn of a function in the rotation of functions: passed over with 64 packets in flight (R95). -/
def State.fnTurn (s : State) (f : Nat) : Option (Nat × Nat) :=
  if 64 ≤ s.inFlight (fun x => decide (x = f)) then none else (s.ringTurn f).map (fun r => (f, r))

theorem State.fetchTurn_eq : s.fetchTurn =
    if 256 ≤ s.inFlight (fun _ => true) then none else ((List.range 64).map (fun i => (s.sys.fromFn + i) % 64)).findSome? s.fnTurn := rfl

theorem State.fnTurn_eq_some {f : Nat} {x : Nat × Nat} :
    s.fnTurn f = some x ↔ ¬ 64 ≤ s.inFlight (fun x => decide (x = f)) ∧ x.1 = f ∧ s.ringTurn f = some x.2 := by
  unfold State.fnTurn
  by_cases hl : 64 ≤ s.inFlight (fun x => decide (x = f))
  · simp [hl]
  · obtain ⟨a, b⟩ := x
    simp only [hl, if_false, not_false_eq_true, true_and, Option.map_eq_some_iff, Prod.mk.injEq]
    constructor
    · rintro ⟨r, hr, rfl, rfl⟩
      exact ⟨rfl, hr⟩
    · rintro ⟨rfl, hr⟩
      exact ⟨b, hr, rfl, rfl⟩

theorem State.fnTurn_eq_none {f : Nat} :
    s.fnTurn f = none ↔ 64 ≤ s.inFlight (fun x => decide (x = f)) ∨ ∀ r < 16, ¬ s.ringReady f r = true := by
  unfold State.fnTurn
  by_cases hl : 64 ≤ s.inFlight (fun x => decide (x = f)) <;> simp [hl, State.ringTurn_eq_none]

/-- A ready ring of a function with room is served, or another is. -/
theorem State.fetchTurn_ne_none {f r : Nat} (hf : f < 64) (hr : r < 16) (h256 : s.inFlight (fun _ => true) < 256)
    (h64 : ¬ 64 ≤ s.inFlight (fun x => decide (x = f))) (hready : s.ringReady f r = true) : s.fetchTurn ≠ none := by
  rw [State.fetchTurn_eq, if_neg (Nat.not_le.2 h256), ne_eq, List.findSome?_eq_none_iff]
  intro h
  have hm : f ∈ (List.range 64).map (fun i => (s.sys.fromFn + i) % 64) :=
    List.mem_map.2 ⟨(f + 64 - s.sys.fromFn % 64) % 64, List.mem_range.2 (Nat.mod_lt _ (by decide)), by omega⟩
  obtain h | h := State.fnTurn_eq_none.1 (h f hm)
  · exact h64 h
  · exact h r hr hready

/-- Settles O29: whose turn it is comes from the two rotations, and each write from its ring's guards. -/
theorem packetsAreFetchedAndCompletionsWritten : Obligations.PacketsAreFetchedAndCompletionsWritten := by
  intro s fn ring cq len vec k q size fetch u stop full ready serves bad short
  have hbad : lengthBad len.toNat k.sizeF.toNat = true ↔ bad := by simp [lengthBad, bad, size, or_assoc]
  have husable : q.usable = true ↔ q.enable = true ∧ q.error = false := by simp [CplRing.usable]
  have hserves : serves → exec (.packetFetch fn ring len) s =
      if !q.usable then .next (u.stopRing fn ring 5)
      else if lengthBad len.toNat k.sizeF.toNat then .next (u.stopRing fn ring 3)
      else if short then .next u
      else .next (u.updRing fn ring (fun k => { k with head := BitVec.ofNat 16 ((k.head.toNat + len.toNat / 4) % size) })) := by
    intro ⟨hm, ht⟩
    exact if_neg (by simp [hm, ht])
  refine ⟨fun h => ?_, fun h => ?_, fun h1 h2 h3 => State.fetchTurn_ne_none fn.isLt ring.isLt h1 h2 h3, fun h hu => ?_, fun h he hr => ⟨fun hb => ?_, fun hb hs => ?_, fun hb hs => ?_⟩, ?_⟩
  · refine if_pos ?_
    simp only [serves, not_and] at h
    cases hm : s.mgmtUp with
    | false => rfl
    | true => simpa using h hm
  · rw [State.fetchTurn_eq] at h
    split at h
    · exact absurd h (by simp)
    · next h256 =>
      obtain ⟨i, hi, hj⟩ := findSome?_rotation h
      obtain ⟨h64, hf, hr⟩ := State.fnTurn_eq_some.1 hi
      rw [← hf] at h64 hr
      obtain ⟨hready, hring⟩ := State.ringTurn_eq_some hr
      exact ⟨Nat.not_le.1 h256, h64, hready, ⟨i, hf.symm, fun j hji => State.fnTurn_eq_none.1 (hj j hji)⟩, hring⟩
  · rw [← husable] at hu
    exact (hserves h).trans (if_pos (by simpa using hu))
  · rw [← hbad] at hb
    exact (hserves h).trans ((if_neg (by simp [husable.2 ⟨he, hr⟩])).trans (if_pos hb))
  · rw [← hbad] at hb
    exact (hserves h).trans ((if_neg (by simp [husable.2 ⟨he, hr⟩])).trans ((if_neg hb).trans (if_pos hs)))
  · rw [← hbad] at hb
    exact (hserves h).trans ((if_neg (by simp [husable.2 ⟨he, hr⟩])).trans ((if_neg hb).trans (if_neg hs)))
  · refine ⟨fun h => ?_, fun c hc => ?_, fun h => ?_, fun n ns h => ?_, ?_⟩
    · show execCompletionWrite fn cq s = _
      unfold execCompletionWrite
      rw [h]
    · intro q u
      have hx : exec (.completionWrite fn cq) s = if c.suppressed || s.linkHeld || !q.usable then .next u.release
          else if q.full || !s.mgmtUp then .next s
          else .next (u.postEntry fn cq (pack [(0, c.tag.toNat), (16, c.ctx), (27, b2n c.interim), (28, c.ring)])
            (pack [(0, statusByte c.status), (8, c.result.toNat)]) c.time).release := by
        show execCompletionWrite fn cq s = _
        unfold execCompletionWrite
        rw [hc]
      have hq : q.usable = true ↔ q.enable = true ∧ q.error = false := by simp [CplRing.usable]
      refine ⟨fun h => hx.trans (if_pos ?_), fun hs hl he hr => ⟨fun h => hx.trans ((if_neg ?_).trans (if_pos ?_)), fun hf hm => hx.trans ((if_neg ?_).trans (if_neg ?_))⟩⟩
      · rw [← hq] at h
        simpa [or_assoc] using h
      · simp [hs, hl, hq.2 ⟨he, hr⟩]
      · simpa using h
      · simp [hs, hl, hq.2 ⟨he, hr⟩]
      · simp [hf, hm]
    · show execFaultNotice fn s = _
      unfold execFaultNotice
      rw [h]
    · intro q u go
      have hx : exec (.faultNotice fn) s = if s.linkHeld then .next u
          else if s.mgmtUp && q.usable && !q.full then .next (u.postEntry fn 0 (pack [(0, 0xFFFF), (16, n.ctx)])
            (pack [(0, 0x31), (8, n.index), (31, b2n n.noCtx)]) n.time)
          else .next s := by
        show execFaultNotice fn s = _
        unfold execFaultNotice
        rw [h]
      have hgo : (s.mgmtUp && q.usable && !q.full) = true ↔ go := by simp [CplRing.usable, go, and_assoc]
      refine ⟨fun hl => hx.trans (if_pos hl), fun hl hg => hx.trans ((if_neg (by simp [hl])).trans (if_pos (hgo.2 hg))), fun hl hg => hx.trans ((if_neg (by simp [hl])).trans (if_neg ?_))⟩
      rwa [hgo]
    · intro w last send left
      have hx : exec (.msixVectorSend fn vec) s = if !w.vecPending.contains vec.val || !w.msixOn then .next s
          else if w.msixMask || !w.vecOpen.contains vec.val then .next (s.updFn fn (fun w => { w with vecPending := left, pba := insertNat vec w.pba }))
          else if last.any (fun t => decide (s.lc < t + 3200)) then .next s
          else .next ((s.updFn fn (fun w => { w with vecPending := left, vecLast := Tbl.set none w.vecLast vec (some s.lc) })).emit
            (.msix fn vec (w64 (Tbl.get 0 w.msix (4 * vec)) (Tbl.get 0 w.msix (4 * vec + 1))) (Tbl.get 0 w.msix (4 * vec + 2)))) := rfl
      have hdue : vec.val ∈ w.vecPending → w.msixOn = true → ¬ (!w.vecPending.contains vec.val || !w.msixOn) = true := fun hv ho => by simp [hv, ho]
      have hopen : w.msixMask = false → vec.val ∈ w.vecOpen → ¬ (w.msixMask || !w.vecOpen.contains vec.val) = true := fun hm ho => by simp [hm, ho]
      refine ⟨fun hv => hx.trans (if_pos (by simp [hv])), fun ho => hx.trans (if_pos (by simp [ho])), fun hv ho hm => hx.trans ((if_neg (hdue hv ho)).trans (if_pos ?_)),
        fun hv ho hm hop hl => hx.trans ((if_neg (hdue hv ho)).trans ((if_neg (hopen hm hop)).trans (if_pos ?_))),
        fun hv ho hm hop hl => hx.trans ((if_neg (hdue hv ho)).trans ((if_neg (hopen hm hop)).trans (if_neg ?_)))⟩
      · simpa using hm
      · obtain ⟨t, ht, hlt⟩ := hl
        simpa [ht] using hlt
      · cases hlast : last with
        | none => simp
        | some t => simpa [hlast] using hl t hlast

end Sys2Proof.Machine
end

section
/-! O30: writes of the ring controls, the doorbells and SYS_COMMIT (R91, R96, R100, R102, R262, R366, R476). -/
namespace Sys2Proof.Machine

variable {s : State} {f : Nat} {v : W32}

/-- A write of a ring register in a live window reaches its ring while the management processor runs, and is held otherwise (R90). -/
theorem State.ringReg_of_dead {o : Nat} (h : s.fnLive f = false) : s.ringReg f o v = s := if_pos (by simp [h])

theorem State.ringReg_of_held {o : Nat} (h : s.fnLive f = true) (hm : s.mgmtUp = false) :
    s.ringReg f o v = s.updSys (fun y => { y with heldWrites := y.heldWrites ++ [(f, o, v)] }) :=
  (if_neg (by simp [h])).trans (if_neg (by simp [hm]))

theorem State.ringReg_of_up {o : Nat} (h : s.fnLive f = true) (hm : s.mgmtUp = true) : s.ringReg f o v = s.ringWrite f o v :=
  (if_neg (by simp [h])).trans (if_pos hm)

/-! The control registers of ring r and its doorbells (Tables 4.8 to 4.15). -/

theorem State.ringWrite_crCtrl {r : Nat} (hr : r < 16) : s.ringWrite f (0x108 + 32 * r) v = s.updRing f r (fun k => k.ctrl v) := by
  unfold State.ringWrite
  rw [if_pos (by omega), show (0x108 + 32 * r) % 32 = 0x08 by omega, show (0x108 + 32 * r - 0x100) / 32 = r by omega]
  rfl

theorem State.ringWrite_crTail {r : Nat} (hr : r < 16) : s.ringWrite f (0x10C + 32 * r) v = s.updRing f r (fun k => k.doorbell v) := by
  unfold State.ringWrite
  rw [if_pos (by omega), show (0x10C + 32 * r) % 32 = 0x0C by omega, show (0x10C + 32 * r - 0x100) / 32 = r by omega]
  rfl

theorem State.ringWrite_cqCtrl {r : Nat} (hr : r < 16) : s.ringWrite f (0x408 + 32 * r) v = s.updCq f r (fun k => k.ctrl v) := by
  unfold State.ringWrite
  rw [if_neg (by omega), if_pos (by omega), show (0x408 + 32 * r) % 32 = 0x08 by omega, show (0x408 + 32 * r - 0x400) / 32 = r by omega]
  rfl

theorem State.ringWrite_cqHead {r : Nat} (hr : r < 16) :
    s.ringWrite f (0x40C + 32 * r) v = s.updCq f r (fun k => { k with head := v.setWidth 16 }) := by
  unfold State.ringWrite
  rw [if_neg (by omega), if_pos (by omega), show (0x40C + 32 * r) % 32 = 0x0C by omega, show (0x40C + 32 * r - 0x400) / 32 = r by omega]
  rfl

/-- A write of a ring control takes BASE, SIZE and CQ into force as ENABLE rises (R96). -/
theorem CmdRing.ctrl_eq {k : CmdRing} : k.ctrl v =
    let j := { k with enable := bit v 0, size := v.extractLsb' 8 4, cq := v.extractLsb' 16 4 }
    let small := decide ((v.extractLsb' 8 4 : BitVec 4).toNat < 8)
    if bit v 0 = true ∧ k.enable = false then { j with
      head := 0, tail := 0, error := small, errCode := if small then 4 else 0, baseF := k.base, sizeF := j.size, cqF := j.cq } else j :=
  if_congr (by simp) rfl rfl

theorem CplRing.ctrl_eq {k : CplRing} : k.ctrl v =
    let j := { k with enable := bit v 0, irqEn := bit v 1, size := v.extractLsb' 8 4, vector := v.extractLsb' 16 5 }
    if bit v 0 = true ∧ k.enable = false then { j with
      head := 0, tail := 0, phase := true, error := decide ((v.extractLsb' 8 4 : BitVec 4).toNat < 8), baseF := k.base, sizeF := j.size } else j :=
  if_congr (by simp) rfl rfl

/-- A TAIL doorbell out of range stops a ring that runs (R96). -/
theorem CmdRing.doorbell_eq {k : CmdRing} : k.doorbell v =
    let j := { k with tail := v.setWidth 16 }
    if k.enable = true ∧ k.error = false ∧ 2 ^ k.sizeF.toNat ≤ j.tail.toNat then { j with error := true, errCode := 2 } else j :=
  if_congr (by simp [and_assoc]) rfl rfl

/-- A STROBE strobes the groups that the function's contexts hold, and counts the others (R262). -/
theorem State.fnStrobe_eq : s.fnStrobe f v = (groupsOf v).foldl (fun u g =>
    if u.heldByFn f (u.group g).owner = true then u.strobe g (u.boundaryFrom (u.lc + 1) 8)
    else if (u.group g).owner = none then (u.updFn f (fun w => { w with strobeRejects := sat 65535 (w.strobeRejects + 1) })).ignoreStrobe g
    else u.updFn f (fun w => { w with strobeRejects := sat 65535 (w.strobeRejects + 1) })) s := by
  unfold State.fnStrobe
  congr 1
  funext u g
  refine if_congr Iff.rfl rfl (if_congr ?_ rfl rfl)
  rw [show ((u.updFn f (fun w => { w with strobeRejects := sat 65535 (w.strobeRejects + 1) })).group g) = u.group g from rfl]
  exact Option.isNone_iff_eq_none

/-- The shadow without a write of the present lane cycle (R476). -/
theorem Sys.ripe_of_ne {y : Sys} {lc : Nat} (h : ∀ x, y.irqWas ≠ some (lc, x)) : y.ripe lc = y.irqShadow := by
  unfold Sys.ripe
  split
  · next l v hl => exact if_neg fun he => h v (by rw [hl, he])
  · rfl

theorem Sys.ripe_of_eq {y : Sys} {lc : Nat} {x : BitVec 5} (h : y.irqWas = some (lc, x)) : y.ripe lc = x := by
  unfold Sys.ripe
  rw [h]
  exact if_pos rfl

/-- Settles O30: each register at its offset, and each doorbell by who holds what it names. -/
theorem ringRegistersAndWindowDoorbells : Obligations.RingRegistersAndWindowDoorbells := by
  intro s fn r v hold
  refine ⟨fun h => ⟨next_eq (State.ringReg_of_dead h), next_eq (State.ringReg_of_dead h), next_eq (State.ringReg_of_dead h), next_eq (State.ringReg_of_dead h),
      next_eq (if_neg (by simp [h])), next_eq (if_neg (by simp [h]))⟩,
    fun h hm => ⟨next_eq (State.ringReg_of_held h hm), next_eq (State.ringReg_of_held h hm), next_eq (State.ringReg_of_held h hm), next_eq (State.ringReg_of_held h hm)⟩,
    fun h hm => ?_, fun h => ?_, fun hb hw => ?_, fun x hb hw => ?_, fun hb => next_eq (if_neg (by simp [hb]))⟩
  · intro small
    refine ⟨next_eq ?_, next_eq ?_, next_eq ?_, next_eq ?_⟩
    · rw [State.ringReg_of_up h hm, State.ringWrite_crCtrl r.isLt]
      exact congrArg (s.updRing fn r) (funext fun k => CmdRing.ctrl_eq)
    · rw [State.ringReg_of_up h hm, State.ringWrite_crTail r.isLt]
      exact congrArg (s.updRing fn r) (funext fun k => CmdRing.doorbell_eq)
    · rw [State.ringReg_of_up h hm, State.ringWrite_cqCtrl r.isLt]
      exact congrArg (s.updCq fn r) (funext fun k => CplRing.ctrl_eq)
    · rw [State.ringReg_of_up h hm, State.ringWrite_cqHead r.isLt]
  · intro k may
    have hmay : (s.heldByFn fn (s.ev k).owner && decide ((s.ev k).source = softSource)) = true ↔ may := by simp [may]
    exact ⟨fun hk => next_eq ((if_pos h).trans (if_pos (hmay.2 hk))), fun hk => next_eq ((if_pos h).trans (if_neg (by rwa [hmay]))),
      next_eq ((if_pos h).trans State.fnStrobe_eq)⟩
  · refine next_eq ((if_pos hb).trans ?_)
    show ({ s with sys := { s.sys with irqForce := s.sys.ripe s.lc } } : State) = _
    rw [Sys.ripe_of_ne hw]
  · refine next_eq ((if_pos hb).trans ?_)
    show ({ s with sys := { s.sys with irqForce := s.sys.ripe s.lc } } : State) = _
    rw [Sys.ripe_of_eq hw]

end Sys2Proof.Machine
end

section
/-! O31: requests, reads that clear, configuration requests and the shape of register writes (R90, R91, R316, R351, R352, R472, R473). -/
namespace Sys2Proof.Machine

variable {s : State}

/-- The lead is noted of the voices in turn: the smallest (R289). -/
theorem State.foldl_noteLead {l : List Nat} : l.foldl (fun s v => s.noteLead (some v)) s =
    { s with sql := { s.sql with minLead := l.foldl (fun m v => min m (s.voiceLead v)) s.sql.minLead } } := by
  induction l generalizing s with
  | nil => rfl
  | cons v l ih =>
    rw [List.foldl_cons, ih]
    rfl

/-- A maintenance request is barred while a program runs or waits to start, an activation is armed, MEMF is held, or its window is out of range (R316). -/
theorem State.maintBarred_iff {ms : Nat} : (s.anyRunning || s.fwArmed || decide ((s.proc 2).st = 2) ||
      s.sched.any (fun t => decide (t.run.op = .prgStart) || decide (t.run.op = .scnStartAt)) || decide (ms = 0) || decide (1000 < ms)) = true ↔
    (s.anyRunning = true ∨ s.fwArmed = true ∨ (s.proc 2).st = 2 ∨ (∃ t ∈ s.sched, t.run.op = .prgStart ∨ t.run.op = .scnStartAt) ∨ ms = 0 ∨ 1000 < ms) := by
  simp [or_assoc]

/-- Settles O31. -/
theorem requestsAndReadsThatClear : Obligations.RequestsAndReadsThatClear := by
  intro s p v w b fn bar2 a answer
  refine ⟨?_, rfl, rfl, ?_, ?_, fun hp r => ?_, fun hp => ?_, ?_⟩
  · show execSqlLeadRead s = _
    unfold execSqlLeadRead
    rw [State.foldl_noteLead]
    rfl
  · intro ms u barred
    have hx : s.requestMaint v = if !bit v 0 || decide (s.mem.maint = 1) then u
        else if s.anyRunning || s.fwArmed || decide ((s.proc 2).st = 2) ||
          s.sched.any (fun t => decide (t.run.op = .prgStart) || decide (t.run.op = .scnStartAt)) || decide (ms = 0) || decide (1000 < ms) then
          { u with mem := { u.mem with maint := 3 } }
        else ({ u with mem := { u.mem with
          maint := 1, maintAt := s.lc + 1600000 * ms,
          selected := (List.range 64).filter (fun k => decide ((s.pc k).phase = .service) && (bit v 1 || (s.pc k).retrainAdvised)) } } : State).startRetrains := rfl
    refine ⟨fun h => next_eq (hx.trans (if_pos (by simpa using h))), fun h1 h2 hb => next_eq (hx.trans ((if_neg (by simp [h1, h2])).trans (if_pos (State.maintBarred_iff.2 hb)))),
      fun h1 h2 hb => next_eq (hx.trans ((if_neg (by simp [h1, h2])).trans (if_neg fun h => hb (State.maintBarred_iff.1 h))))⟩
  · intro n o
    have hmay : (s.nextMay b n && !s.bankBusy b) = true ↔ s.nextMay b n = true ∧ s.bankBusy b = false := by simp
    exact ⟨fun hn ho => next_eq ((if_pos hn).trans (if_pos ho)), fun hn h1 h2 => next_eq ((if_pos hn).trans (if_neg (not_or.2 ⟨h1, h2⟩))),
      fun hn hm hb => next_eq ((if_neg hn).trans (if_pos (hmay.2 ⟨hm, hb⟩))), fun hn hm => next_eq ((if_neg hn).trans (if_neg fun h => hm (hmay.1 h)))⟩
  · exact next_eq (if_pos (by simp [hp]))
  · have hx : ∀ r, exec (.configurationRequest fn r) s = .next (match r with
      | .spaceLoaded => s.updSys (fun y => { y with cfgLoaded := true })
      | .read item => s.emit (.config (if s.sys.cfgLoaded then some (s.cfgItem fn item) else none))
      | w => if s.sys.cfgLoaded then (s.cfgWrite fn w).emit (.config (some 0)) else s.emit (.config none)) := fun r => next_eq (if_neg (by simp [hp]))
    refine ⟨hx _, fun item => hx _, rfl, ?_, rfl, ?_, rfl, rfl, rfl, rfl, ?_, ?_⟩
    · exact if_congr Fin.val_eq_zero_iff rfl rfl
    · show (if (0 : Nat) = 0 ∧ s.sys.recovery = false then 63 else 0) = _
      cases s.sys.recovery <;> rfl
    · intro hl en n ari on mask x r hr
      have hr' : r = .writeSriov en n ari ∨ r = .writeMsix on mask ∨ r = .writeTimeout x := by simpa using hr
      obtain rfl | rfl | rfl := hr' <;> exact (hx _).trans (next_eq (if_neg (by simp [hl])))
    · intro hl done
      have hdone : ∀ u : State, (if s.sys.cfgLoaded then u.emit (.config (some 0)) else s.emit (.config none)) = done u := fun u => if_pos hl
      refine ⟨fun en n ari => (hx _).trans (next_eq ((hdone _).trans (congrArg done ?_))), fun on mask => (hx _).trans (next_eq (hdone _)),
        fun x => (hx _).trans (next_eq ((hdone _).trans (congrArg done ?_)))⟩
      · exact if_congr Fin.val_eq_zero_iff rfl rfl
      · exact if_congr Fin.val_eq_zero_iff rfl rfl
  · intro put
    refine ⟨fun hp wide => next_eq (if_pos (by simp [hp])), fun hp => ⟨fun ha wide => ?_, fun ha => ?_, fun ha => ?_, fun ha => ?_⟩⟩
    · refine next_eq ((if_neg (by simp [hp])).trans ?_)
      cases wide with
      | false => exact (if_neg Bool.false_ne_true).trans (if_neg ha)
      | true => exact (if_pos rfl).trans (if_neg fun h8 => ha (by omega))
    · exact next_eq ((if_neg (by simp [hp])).trans ((if_neg Bool.false_ne_true).trans (if_pos ha)))
    · exact next_eq ((if_neg (by simp [hp])).trans ((if_pos rfl).trans (if_neg (by omega))))
    · exact next_eq ((if_neg (by simp [hp])).trans ((if_pos rfl).trans (if_pos ha)))

end Sys2Proof.Machine
end

section
/-! O32: what a register write stores (R473, R474, Tables 4.2, 4.3, 17.8 to 17.10, 19.1 and 19.2). -/
namespace Sys2Proof.Machine

variable {s : State} {v : W32}

/-- An aligned write of 4 bytes goes to the function's BAR0, or to its MSI-X table. -/
theorem exec_registerWrite {fn : Fin 64} {bar2 : Bool} {a : BitVec 22} {w : W64} (hp : s.power.pwrgd = true) (ha : a.toNat % 4 = 0) :
    exec (.registerWrite fn bar2 a false w) s = .next (if bar2 then s.writeMsix fn a.toNat (lo32 w) else s.writeBar fn a.toNat (lo32 w)) :=
  next_eq ((if_neg (by simp [hp])).trans ((if_neg Bool.false_ne_true).trans (if_pos ha)))

/-- BAR0 of PF0 is 18 windows of 64 KiB, its own window and the recovery window (Table 4.2). -/
theorem State.writeBar_block {k o : Nat} (hk : k < 18) (ho : o < 65536) : s.writeBar 0 (65536 * k + o) v = s.writeBlock k o v := by
  unfold State.writeBar
  rw [if_pos rfl, if_pos (by omega), show (65536 * k + o) / 65536 = k by omega, show (65536 * k + o) % 65536 = o by omega]

/-- A write of a register in window k of PF0. -/
theorem exec_blockWrite {a : BitVec 22} {w : W64} {k o : Nat} (hp : s.power.pwrgd = true) (hk : k < 18) (ho : o < 65536) (h4 : o % 4 = 0)
    (ha : a.toNat = 65536 * k + o) : exec (.registerWrite 0 false a false w) s = .next (s.writeBlock k o (lo32 w)) := by
  rw [exec_registerWrite hp (by omega), ha, if_neg Bool.false_ne_true]
  exact next_eq (State.writeBar_block hk ho)

/-- Outside recovery mode every window takes its writes. -/
theorem State.writeBlock_eq (hr : s.sys.recovery = false) {k o : Nat} : s.writeBlock k o v = match k with
    | 0 => s.writeSys o v
    | 1 => if o = 0x04 then s.updClk (fun k => { k with events := w1c k.events v 0 }) else s
    | 2 => if o = 0x8000 then { s with ctxSel := bits v 0 10 } else s
    | 4 => if 0x8000 ≤ o ∧ o < 0x8200 ∧ o % 16 = 0 then s.updSummer ((o - 0x8000) / 16) (fun m => m.clear v) else s
    | 5 => if o < 0x800 ∧ o % 64 = 0x0C then s.updFch (o / 64) (fun f => { f with events := w1c f.events v 0 }) else s
    | 6 => if o < 0x400 ∧ o % 64 = 0x28 then s.updPch (o / 64) (fun p => { p with events := w1c p.events v 0 }) else s
    | 7 => if o = 0x18 then s.requestMaint v else s
    | 9 => if o < 0x800 ∧ o % 16 = 4 then s.bankNext (o / 16) v else s
    | 10 => s.writeEvt o v
    | 13 => if o = 0x08 then s.writeWall false v else if o = 0x0C then s.writeWall true v else s
    | 17 => if o = 0x04 then { s with tmp := { s.tmp with events := w1c s.tmp.events v 0 } } else s
    | _ => s := if_neg (by simp [hr])

/-- The flags of a summer clear with their counts, and FIRST once both are clear (Tables 7.10, 7.11). -/
theorem Summer.clear_eq {m : Summer} : m.clear v =
    let m := if bit v 8 then { m with satSum := false, sumLc := 0 } else m
    let m := if bit v 9 then { m with satOut := false, outLc := 0 } else m
    if m.satSum = true ∨ m.satOut = true then m else { m with first := 0 } := if_congr (by simp) rfl rfl

/-- The buffer of the recovery window (Table 17.10). -/
theorem State.writeRcv_buffer {o : Nat} (ho : 0x10000 ≤ o) :
    s.writeRcv o v = s.updFw (fun f => { f with rcvBuf := Tbl.setMany 0 f.rcvBuf (o - 0x10000) (bytesOf v) }) := by
  unfold State.writeRcv
  split
  · omega
  · omega
  · omega
  · exact if_pos ho

/-- Settles O32: each offset is a register of its window. -/
theorem registerWritesReachTheirFields : Obligations.RegisterWritesReachTheirFields := by
  intro s w a fn hp v puts
  refine ⟨fun hr => ?_, fun hr => ?_, fun hf hl bar2 wide => ?_, fun hl ha h4 => ?_⟩
  · have hb : ∀ {k o : Nat} {t : State}, k < 18 → o < 65536 → o % 4 = 0 → s.writeBlock k o v = t → puts (65536 * k + o) t :=
      fun hk ho h4 ht ha => (exec_blockWrite hp hk ho h4 ha).trans (next_eq ht)
    refine ⟨hb (k := 0) (o := 0x4) (by decide) (by decide) (by decide) ?_, hb (k := 0) (o := 0x10) (by decide) (by decide) (by decide) ?_,
      hb (k := 0) (o := 0x14) (by decide) (by decide) (by decide) ?_, hb (k := 1) (o := 4) (by decide) (by decide) (by decide) ?_,
      hb (k := 2) (o := 0x8000) (by decide) (by decide) (by decide) ?_, fun k hk ha => ?_, fun c hc ha => ?_, fun n hn ha => ?_, fun n hn ha => ?_,
      fun c hc ha => ?_, fun n hn ha => ?_, hb (k := 13) (o := 8) (by decide) (by decide) (by decide) ?_, hb (k := 13) (o := 0xC) (by decide) (by decide) (by decide) ?_,
      hb (k := 17) (o := 4) (by decide) (by decide) (by decide) ?_, fun h4 hlo hw => ?_⟩
    · exact State.writeBlock_eq hr
    · exact State.writeBlock_eq hr
    · exact State.writeBlock_eq hr
    · exact State.writeBlock_eq hr
    · exact State.writeBlock_eq hr
    · refine hb (k := 4) (o := 0x8000 + 16 * k) (by decide) (by omega) (by omega) ?_ (by omega)
      rw [State.writeBlock_eq hr]
      refine (if_pos (by omega)).trans ?_
      rw [show (0x8000 + 16 * k - 0x8000) / 16 = k by omega]
      exact congrArg (s.updSummer k) (funext fun m => Summer.clear_eq)
    · refine hb (k := 5) (o := 0xC + 64 * c) (by decide) (by omega) (by omega) ?_ (by omega)
      rw [State.writeBlock_eq hr]
      refine (if_pos (by omega)).trans ?_
      rw [show (0xC + 64 * c) / 64 = c by omega]
    · refine hb (k := 6) (o := 0x28 + 64 * n) (by decide) (by omega) (by omega) ?_ (by omega)
      rw [State.writeBlock_eq hr]
      refine (if_pos (by omega)).trans ?_
      rw [show (0x28 + 64 * n) / 64 = n by omega]
    · refine hb (k := 10) (o := 0x1000 + 8 * n) (by decide) (by omega) (by omega) ?_ (by omega)
      rw [State.writeBlock_eq hr]
      refine (if_pos (by omega)).trans ?_
      rw [show (0x1000 + 8 * n - 0x1000) / 8 = n by omega]
    · refine hb (k := 10) (o := 0x3000 + 4 * c) (by decide) (by omega) (by omega) ?_ (by omega)
      rw [State.writeBlock_eq hr]
      refine (if_neg (by omega)).trans ((if_pos (by omega)).trans ?_)
      rw [show (0x3000 + 4 * c - 0x3000) / 4 = c by omega]
    · refine hb (k := 10) (o := 0x4000 + 8 * n) (by decide) (by omega) (by omega) ?_ (by omega)
      rw [State.writeBlock_eq hr]
      refine (if_neg (by omega)).trans ((if_neg (by omega)).trans ((if_pos (by omega)).trans ?_))
      rw [show (0x4000 + 8 * n - 0x4000) / 8 = n by omega]
    · exact State.writeBlock_eq hr
    · exact State.writeBlock_eq hr
    · exact State.writeBlock_eq hr
    · rw [exec_registerWrite hp h4, if_neg Bool.false_ne_true]
      exact next_eq ((if_pos rfl).trans ((if_neg (by omega)).trans ((if_neg hw).trans (if_neg (by simp [hr])))))
  · have hrcv : ∀ o, a.toNat % 4 = 0 → a.toNat = 0x300000 + o → exec (.registerWrite 0 false a false w) s = .next (s.writeRcv o v) := by
      intro o h4 ha
      rw [exec_registerWrite hp h4, if_neg Bool.false_ne_true, ha]
      refine next_eq ((if_pos rfl).trans ((if_neg (by omega)).trans ((if_neg (by omega)).trans ((if_pos ⟨by omega, hr⟩).trans ?_))))
      rw [Nat.add_sub_cancel_left]
    refine ⟨fun k o h2 h15 ho h4 ha => ?_, fun ha => ?_, fun ha => ?_, fun h4 ha => ?_⟩
    · refine (exec_blockWrite hp (by omega) ho h4 ha).trans (next_eq (if_pos ?_))
      have hk : servedInRecovery k = false := by
        simp only [servedInRecovery, List.contains_eq_mem, List.mem_cons, List.not_mem_nil, or_false, decide_eq_false_iff_not]
        omega
      rw [hr, hk]
      rfl
    · exact hrcv 0x08 (by omega) ha
    · exact hrcv 0x0C (by omega) ha
    · rw [hrcv (a.toNat - 0x300000) h4 (by omega)]
      exact next_eq ((State.writeRcv_buffer (by omega)).trans (by rw [show a.toNat - 0x300000 - 0x10000 = a.toNat - 0x310000 by omega]; rfl))
  · have hput : ∀ (o : Nat) (x : W32), (if bar2 then s.writeMsix fn o x else s.writeBar fn o x) = s := by
      intro o x
      cases bar2 with
      | true => exact (if_pos rfl).trans (if_pos (by simp [hl]))
      | false => exact (if_neg Bool.false_ne_true).trans <| (if_neg fun h => hf (Fin.val_eq_zero_iff.1 h)).trans (if_neg (by simp [hl]))
    refine next_eq ?_
    rw [if_neg (by simp [hp])]
    simp only [hput, ite_self]
  · intro k open_
    have hx : exec (.registerWrite fn true a false w) s = .next (s.writeMsix fn a.toNat v) := (exec_registerWrite hp h4).trans (next_eq (if_pos rfl))
    have hlive : ¬ (!s.fnLive fn || decide (512 ≤ a.toNat)) = true := by simp [hl]; omega
    exact ⟨fun h => hx.trans (next_eq ((if_neg hlive).trans (if_pos (by omega)))),
      fun h hb => hx.trans (next_eq ((if_neg hlive).trans ((if_neg (by omega)).trans (if_pos hb)))),
      fun h hb => hx.trans (next_eq ((if_neg hlive).trans ((if_neg (by omega)).trans (if_neg (by simp [hb])))))⟩

end Sys2Proof.Machine
end

section
/-! O33: the service UART and the SMBus target (R49, R468, Tables 2.11 and 17.11). -/
namespace Sys2Proof.Machine

variable {s : State}

/-- The UART answers while PWRGD is high (R468). -/
theorem State.uartReply_of_off {ty : BitVec 8} {st : Status} {d : List Byte} (h : s.power.pwrgd = false) : s.uartReply ty st d = s :=
  if_neg (by simp [h])

theorem State.uartReply_of_on {ty : BitVec 8} {st : Status} {d : List Byte} (h : s.power.pwrgd = true) :
    s.uartReply ty st d = { s with out := s.out ++ [.uart (ty + 0x80) (BitVec.ofNat 8 (statusByte st) :: d)] } := if_pos h

/-- The SMBus target answers while P3V3AUX is in range (R49). -/
theorem State.smbUp_iff : s.smbUp = true ↔ s.power.p3v3 = .ok := decide_eq_true_iff

theorem State.smbSend_eq {code : Byte} {d : List Byte} : s.smbSend code d =
    if s.power.p3v3 = .ok then { s with out := s.out ++ [.smb (d ++ [pecByte ([BitVec.ofNat 8 (2 * (0x58 + s.power.smbAddr.toNat) + 0), code,
      BitVec.ofNat 8 (2 * (0x58 + s.power.smbAddr.toNat) + 1)] ++ d)])] } else s := if_congr State.smbUp_iff rfl rfl

theorem State.smbRefuse_eq : s.smbRefuse =
    if s.power.p3v3 = .ok then { s with smb := { s.smb with cmlInvalid := true }, out := s.out ++ [.smbNack] } else s :=
  if_congr State.smbUp_iff rfl rfl

/-- CLEAR_FAULTS clears what no longer holds (R49). -/
theorem State.clearLatched_eq : s.clearLatched = if s.power.p3v3 = .ok then { s with smb := { s.smb with
    vinOv := s.smb.vinOv && decide (s.power.p12v = .high), vinUv := s.smb.vinUv && decide (s.power.p12v = .under)
    unitOff := s.smb.unitOff && decide (s.power.p12v = .under)
    otFault := decide (s.smb.otFault = true ∧ s.tmp.level = 3), cmlInvalid := false, cmlPec := false } } else s := by
  unfold State.clearLatched
  have hot : decide (s.smb.otFault = true ∧ s.tmp.level = 3) = (s.smb.otFault && decide (s.tmp.level = 3)) := by simp
  rw [hot]
  by_cases h : s.power.p3v3 = .ok
  · rw [if_pos h, if_neg (by simp [State.smbUp_iff.2 h])]
  · rw [if_neg h, if_pos (by rw [Bool.not_eq_true', Bool.eq_false_iff, ne_eq, State.smbUp_iff]; exact h)]

/-- Only CLEAR_FAULTS with one byte after it carries an error checking byte. -/
theorem clearPec_eq_none {code : BitVec 8} {xfer : SmbXfer} (h : code ≠ 0x03 ∨ ∀ p, xfer ≠ .write [p]) : clearPec code xfer = none := by
  unfold clearPec
  split
  · next p => exact if_neg (h.resolve_right fun hx => hx p rfl)
  · rfl

/-- Settles O33: each frame and each command code by its guards. -/
theorem uartAndSmbusAnswers : Obligations.UartAndSmbusAnswers := by
  intro s echo off image final type code data first count badCrc xfer rd pec up head gives refuses answer
  refine ⟨rfl, fun hp => ?_, fun hp => ?_, ?_, next_eq State.smbSend_eq, next_eq State.smbSend_eq, next_eq State.smbSend_eq, next_eq State.smbSend_eq,
    next_eq State.smbSend_eq, next_eq State.smbSend_eq, next_eq State.smbSend_eq, next_eq State.smbSend_eq, next_eq State.smbSend_eq, fun h => ?_, rfl⟩
  · refine ⟨next_eq (State.uartReply_of_off hp), next_eq (if_pos (by simp [hp])), next_eq (State.uartReply_of_off hp), next_eq (if_pos (by simp [hp])),
      next_eq ?_, next_eq ?_, next_eq ((if_neg (by simp [hp])).trans State.smbRefuse_eq), next_eq ((if_neg (by simp [hp])).trans State.smbRefuse_eq)⟩
    · simp only [State.uartReply_of_off hp, ite_self]
    · simp only [State.uartReply_of_off hp, ite_self]
  · have hon : ∀ {x : State}, x = (if s.power.pwrgd = true then x else s) := fun {x} => (if_pos hp).symm
    refine ⟨next_eq (State.uartReply_of_on hp), next_eq (State.uartReply_of_on hp), fun h1 h2 h3 => next_eq ((if_pos (by simp [h1, h2, h3])).trans (State.uartReply_of_on hp)),
      fun h => next_eq ((if_neg (by simpa [and_assoc] using h)).trans (State.uartReply_of_on hp)), fun hr => ⟨next_eq ?_, next_eq ?_⟩, fun hr => ?_,
      next_eq ((if_pos rfl).trans (State.uartReply_of_on hp)), fun h => next_eq ((if_neg Bool.false_ne_true).trans (if_pos (by simpa using h))),
      fun h => next_eq ((if_neg Bool.false_ne_true).trans ((if_neg (by simpa using h)).trans (State.uartReply_of_on hp))),
      next_eq ((if_pos hp).trans State.smbSend_eq), next_eq ((if_pos hp).trans State.smbSend_eq)⟩
    · exact (if_neg (by simp [hp])).trans ((if_pos (by simp [hr])).trans (State.uartReply_of_on hp))
    · exact (if_neg (by simp [hp])).trans ((if_pos (by simp [hr])).trans (State.uartReply_of_on hp))
    · intro fits
      have hx : exec (.uartWrite image final off data) s = .next (if !fits then s.uartReply 0x02 .badParam [] else if s.staging image.toNat then s.uartReply 0x02 .busy []
          else (s.writeSlot image.toNat off.toNat data (decide (final = 1))).uartReply 0x02 .ok []) :=
        next_eq ((if_neg (by simp [hp])).trans (if_neg (by simp [hr])))
      refine ⟨fun hf => hx.trans (next_eq ((if_pos (by simp [hf])).trans (State.uartReply_of_on hp))),
        fun hf hs => hx.trans (next_eq ((if_neg (by simp [hf])).trans ((if_pos hs).trans (State.uartReply_of_on hp)))),
        fun hf hs => hx.trans (next_eq ((if_neg (by simp [hf])).trans (if_neg (by simp [hs])))), next_eq ?_⟩
      refine (if_neg (by simp [hp])).trans ((if_neg (by simp [hr])).trans ?_)
      rw [State.uartReply_of_on hp]
      rfl
  · intro hot temp input low high clears
    have hlow : s.statusLow = low := by
      have hcml : decide (s.statusCml ≠ 0) = (s.smb.cmlInvalid || s.smb.cmlPec) := by
        unfold State.statusCml
        cases s.smb.cmlInvalid <;> cases s.smb.cmlPec <;> rfl
      unfold State.statusLow
      rw [hcml]
      rfl
    refine ⟨next_eq State.clearLatched_eq, next_eq ((if_pos ⟨rfl, rfl⟩).trans State.clearLatched_eq), fun hpec => next_eq ?_, fun hpec => next_eq ?_,
      next_eq State.smbSend_eq, next_eq ?_, next_eq ?_, next_eq State.smbSend_eq, next_eq State.smbSend_eq, next_eq State.smbSend_eq⟩
    · exact (if_neg (by simp)).trans ((if_pos hpec).trans State.clearLatched_eq)
    · exact (if_neg (by simp)).trans ((if_neg hpec).trans (if_congr State.smbUp_iff rfl rfl))
    · rw [← hlow]
      exact State.smbSend_eq
    · rw [← hlow]
      exact State.smbSend_eq
  · refine next_eq ((if_neg ?_).trans ?_)
    · rintro ⟨hx, hc⟩
      exact h.elim (fun h => h hc) fun h => h.1 hx
    · rw [clearPec_eq_none (h.imp_right fun h => h.2)]
      exact State.smbRefuse_eq

end Sys2Proof.Machine
end

section
/-! O34: power-up, PWRGD, supply faults and the opening of the output switches (R43 to R48, R82, R439, R445). -/
namespace Sys2Proof.Machine

variable {s : State}

/-- A run over units that brings each from one condition to another, and disturbs neither elsewhere, brings every unit of the list there. -/
theorem State.each_reaches {P Q : Nat → State → Prop} {f : Nat → State → State} {l : List Nat} (hq : ∀ j k s, Q k s → Q k (f j s))
    (hp : ∀ j k s, P k s → P k (f j s)) (hm : ∀ k s, Q k s → P k (f k s)) {k : Nat} (hk : k ∈ l) (h : Q k s) : P k (s.each l f) := by
  induction l generalizing s with
  | nil => exact absurd hk (List.not_mem_nil)
  | cons a l ih =>
    obtain rfl | hk := List.mem_cons.1 hk
    · have hkeep : ∀ (l : List Nat) (t : State), P k t → P k (t.each l f) := by
        intro l
        induction l with
        | nil => exact fun _ h => h
        | cons b l ih => exact fun t h => ih _ (hp b k t h)
      exact hkeep l _ (hm k s h)
    · exact ih hk (hq a k s h)

/-- CLRn low holds every fast channel that has not failed CLEARED (R240). -/
def holdFch (c : Nat) (s : State) : State := if (s.fch c).st = .failed then s else s.updFch c (fun f => { f with st := .cleared })

/-- CLRn low holds every precision channel that has not failed CLEARED (R267). -/
def holdPch (n : Nat) (s : State) : State := if (s.pch n).st = .failed then s else s.updPch n (fun p => { p with st := .cleared })

theorem holdFch_st (j k : Nat) : ((holdFch j s).fch k).st = if j = k ∧ (s.fch k).st ≠ .failed then .cleared else (s.fch k).st := by
  unfold holdFch
  by_cases hf : (s.fch j).st = .failed
  · rw [if_pos hf, if_neg]
    rintro ⟨rfl, h⟩
    exact h hf
  · rw [if_neg hf, State.updFch_fch]
    by_cases hk : k = j
    · subst hk
      rw [if_pos rfl, if_pos ⟨rfl, hf⟩]
    · rw [if_neg hk, if_neg fun h => hk h.1.symm]

theorem holdPch_st (j k : Nat) : ((holdPch j s).pch k).st = if j = k ∧ (s.pch k).st ≠ .failed then .cleared else (s.pch k).st := by
  unfold holdPch
  by_cases hf : (s.pch j).st = .failed
  · rw [if_pos hf, if_neg]
    rintro ⟨rfl, h⟩
    exact h hf
  · rw [if_neg hf, State.updPch_pch]
    by_cases hk : k = j
    · subst hk
      rw [if_pos rfl, if_pos ⟨rfl, hf⟩]
    · rw [if_neg hk, if_neg fun h => hk h.1.symm]

theorem holdFch_pch (j k : Nat) : (holdFch j s).pch k = s.pch k := by
  unfold holdFch; split <;> rfl

theorem holdPch_fch (j k : Nat) : (holdPch j s).fch k = s.fch k := by
  unfold holdPch; split <;> rfl

theorem State.holdClear_eq (h : s.power.clrnLow = true) : s.holdClear = (s.each (List.range 32) holdFch).each (List.range 16) holdPch := if_pos h

theorem State.holdClear_fch (h : s.power.clrnLow = true) {k : Nat} (hk : k < 32) (hf : (s.fch k).st ≠ .failed) : (s.holdClear.fch k).st = .cleared := by
  rw [State.holdClear_eq h, State.each_keeps (fun s => (s.fch k).st) fun j t => congrArg Fch.st (holdPch_fch j k)]
  refine State.each_reaches (P := fun k s => (s.fch k).st = .cleared) (Q := fun k s => (s.fch k).st ≠ .failed) ?_ ?_ ?_ (List.mem_range.2 hk) hf
  · intro j k s hq
    rw [holdFch_st]
    split
    · simp
    · exact hq
  · intro j k s hp
    rw [holdFch_st]
    split
    · rfl
    · exact hp
  · intro k s hq
    rw [holdFch_st, if_pos ⟨rfl, hq⟩]

theorem State.holdClear_pch (h : s.power.clrnLow = true) {n : Nat} (hn : n < 16) (hf : (s.pch n).st ≠ .failed) : (s.holdClear.pch n).st = .cleared := by
  rw [State.holdClear_eq h]
  refine State.each_reaches (P := fun k s => (s.pch k).st = .cleared) (Q := fun k s => (s.pch k).st ≠ .failed) ?_ ?_ ?_ (List.mem_range.2 hn) ?_
  · intro j k s hq
    rw [holdPch_st]
    split
    · simp
    · exact hq
  · intro j k s hp
    rw [holdPch_st]
    split
    · rfl
    · exact hp
  · intro k s hq
    rw [holdPch_st, if_pos ⟨rfl, hq⟩]
  · show ((s.each (List.range 32) holdFch).pch n).st ≠ .failed
    rwa [State.each_keeps (fun s => s.pch n) fun j t => holdFch_pch j n]

/-- Records entered touch no channel. -/
theorem State.foldl_enterRec_faultOnly {l : List FaultRec} : s.FaultOnly (l.foldl (fun t r => t.enterRec r) s) := by
  induction l generalizing s with
  | nil => exact .refl s
  | cons r l ih => exact State.enterRec_faultOnly.trans ih

/-- Settles O34. -/
theorem powerUpFaultsAndPowerDown : Obligations.PowerUpFaultsAndPowerDown := by
  intro s c keeps loss down rises x y bad
  have hkeeps : ∀ t, keeps t = t.powerLost := fun _ => rfl
  have hdown : ∀ t k, down t k = t.shutdown k [] := fun _ _ => rfl
  have hrise : ∀ hot, rises → exec (.pwrgdRise hot) s = .next (if hot then ({ y with smb := { y.smb with otFault := true } } : State).shutdown 5 [] else y) :=
    fun hot h => if_pos h
  have hfault : exec (.supplyFault c) s = execSupplyFault c s := rfl
  refine ⟨fun h => if_pos h, fun h => if_neg h, fun h => ⟨?_, ?_⟩, fun h => if_neg (by rw [show x.power.clrnLow = s.power.clrnLow from rfl, h]; exact Bool.false_ne_true),
    fun h => ⟨fun k hk => ?_, fun n hn => ?_⟩, fun h hot => if_neg h, fun h => ?_, fun h => if_neg h, fun h => ?_, fun h => ?_, fun h h5 hd => ?_, fun h hn => ?_, fun h => ?_, fun h => ?_, fun h => if_neg h, ?_⟩
  · rw [hrise _ h, if_neg Bool.false_ne_true]
  · rw [hrise _ h, if_pos rfl, hdown]
  · have hx : y.fch k = x.holdClear.fch k := (State.foldl_enterRec_faultOnly (s := { x.holdClear with log := { x.log with mramRecs := [] } })).read fun t => t.fch k
    rw [hx]
    have hreset : (x.fch k).st = .muted := rfl
    exact State.holdClear_fch (s := x) h hk (by rw [hreset]; decide)
  · have hx : y.pch n = x.holdClear.pch n := (State.foldl_enterRec_faultOnly (s := { x.holdClear with log := { x.log with mramRecs := [] } })).read fun t => t.pch n
    rw [hx]
    have hreset : (x.pch n).st = .disabled := rfl
    exact State.holdClear_pch (s := x) h hn (by rw [hreset]; decide)
  · rw [hkeeps]
    exact if_pos h
  · rw [hfault, execSupplyFault, h, hdown]
  · rw [hfault, execSupplyFault]
    obtain h | h := h <;> rw [h]
  · rw [hfault, execSupplyFault, h]
    have hcond : bad.power.cause = 5 ∧ bad.power.downAt = bad.lc := by
      cases c <;> exact ⟨h5, hd⟩
    exact if_pos hcond
  · rw [hfault, execSupplyFault, h]
    have hcond : ¬ (bad.power.cause = 5 ∧ bad.power.downAt = bad.lc) := by
      cases c <;> exact hn
    exact if_neg hcond
  · rw [hfault, execSupplyFault, h]
  · intro u
    rw [hkeeps]
    exact if_pos h
  · rfl

end Sys2Proof.Machine
end

section
/-! O35 to O37: the link and function resets, the boot, the warm restart and recovery writes (R44, R97 to R99, R450 to R467). -/
namespace Sys2Proof.Machine

variable {s : State}

/-- Settles O35: each event by PWRGD, LINK_HOLD and the functions that exist. -/
theorem linkEventsAndFunctionResets : Obligations.LinkEventsAndFunctionResets := by
  intro s width speed e fn p counted mayReset
  have hmay : (s.power.pwrgd && decide (fn.val ≠ 0) && s.fnLive fn) = true ↔ mayReset := by simp [mayReset, and_assoc]
  refine ⟨fun h => if_pos h, fun h => if_neg (by simp [h]), fun h => ⟨?_, fun he => ?_⟩, fun h hl => ?_, fun h hl => ?_, fun h => ⟨?_, ?_⟩, fun h => ⟨?_, ?_⟩,
    fun h => next_eq (if_pos h), fun h => next_eq (if_neg (by simp [h])), ?_⟩
  · exact (if_pos (by simp [h])).trans (next_eq (if_pos rfl))
  · exact (if_pos (by simp [h])).trans (next_eq (if_neg (by simpa using he)))
  · exact (if_neg (by simp [h])).trans (if_pos hl)
  · exact (if_neg (by simp [h])).trans (if_neg (show ¬ p.sys.linkHold = true by rw [show p.sys.linkHold = s.sys.linkHold from rfl, hl]; exact Bool.false_ne_true))
  · exact next_eq (if_pos (hmay.2 h))
  · exact next_eq (if_pos (hmay.2 h))
  · exact next_eq (if_neg fun hb => h (hmay.1 hb))
  · exact next_eq (if_neg fun hb => h (hmay.1 hb))
  · rfl

/-- Processors change state in a reset or a start, and nothing of the firmware does. -/
theorem State.setProcs_fw {ps : List Nat} {st : Nat} : (s.setProcs ps st).fw = s.fw := by
  refine State.each_keeps State.fw fun k t => ?_
  split <;> rfl

/-- A check noted changes no choice of a set. -/
theorem State.setCheck_trying {ty : Nat} {c : BitVec 8} : (s.setCheck ty c).fw.trying = s.fw.trying := by
  unfold State.setCheck
  split <;> rfl

/-- Settles O36: each event's guard, and the first failure or a second. -/
theorem bootChoosesItsSet : Obligations.BootChoosesItsSet := by
  intro s low set mgmt cs un dig ty u samples starts loads late code codes checked
  have hsamples : samples ↔ (u.power.pwrgd = true ∧ u.fw.boot = 0 ∧ u.fw.warm = false ∧ u.fw.firstFail.isNone = true) :=
    and_congr Iff.rfl (and_congr Iff.rfl (and_congr Iff.rfl Option.isNone_iff_eq_none.symm))
  refine ⟨fun h => ?_, fun h => if_neg fun hc => h (hsamples.2 hc), fun h hc => ?_, fun h hc => ?_, fun h => if_neg h, fun h ht => ?_,
    fun h ht => ?_, fun h => if_neg h, fun k x ht hp => ?_, fun k x h => if_pos h, fun h => if_pos h, fun h => if_neg h, fun res b => ?_⟩
  · intro v
    exact if_pos (hsamples.1 h)
  · refine (if_pos h).trans (next_eq ?_)
    rw [show s.checkOf 0 mgmt.code = 0 from hc]
    exact if_pos rfl
  · refine (if_pos h).trans (next_eq ((if_neg hc).trans (if_congr ?_ rfl rfl)))
    rw [State.setCheck_trying]
  · exact (if_pos h).trans (if_pos ht)
  · have hloads : s.power.pwrgd = true ∧ s.fw.boot = 1 ∧ s.sys.recovery = false := h
    have hexec : exec (.bootImagesLoaded cs un dig) s = execBootImagesLoaded cs un dig s := rfl
    rw [hexec, execBootImagesLoaded, if_pos hloads, if_neg ht]
    dsimp only
    refine ⟨fun code t hb => ?_, fun i j hb hu => ?_, fun hb hu => ?_⟩
    · rw [show firstBad (s.checksOf cs) 1 = some (code, t) from hb]
    · rw [show firstBad (s.checksOf cs) 1 = none from hb, show (markChecks (s.checksOf cs) 1 s).untestedPair un = some (i, j) from hu]
    · rw [show firstBad (s.checksOf cs) 1 = none from hb, show (markChecks (s.checksOf cs) 1 s).untestedPair un = none from hu]
  · exact if_neg (by simp [hp, Nat.not_le.2 ht])
  · intro f
    have hprocs : (s.setProcs (List.range 8) 1).fw = s.fw := State.setProcs_fw
    unfold State.failSet
    generalize s.setProcs (List.range 8) 1 = q at hprocs ⊢
    intro w
    have hw : (q.updFw (fun x => { x with boot := 0 })).fw = { s.fw with boot := 0 } := by rw [State.updFw_fw, hprocs]
    refine ⟨fun hn => ?_, fun r b' hs => ?_⟩
    · have hfirst : s.fw.firstSet = w.fw.firstSet := by rw [hw]
      simp only [hw, hn, hfirst]
      rfl
    · simp only [hw, hs]
      exact if_congr (by simp) rfl rfl

end Sys2Proof.Machine
end

section
/-! O37: the quiet check, the warm restart and the recovery command (R460 to R467, R470). -/
namespace Sys2Proof.Machine

variable {s : State}

/-- The recovery command's write of a slot (R467): out of range, of a slot being staged, or taken. -/
def State.rcvWrite (s : State) (v : W32) : State :=
  let ty := bits v 0 4
  let off := s.fw.rcvOffset
  let len := s.fw.rcvLen
  if !bit v 8 then s
  else if !slotRange ty off len || decide (983040 < len) then s.updFw (fun f => { f with rcvStatus := 0x21 })
  else if s.staging ty then s.updFw (fun f => { f with rcvStatus := 0x12 })
  else (s.writeSlot ty off (Tbl.getMany 0 s.fw.rcvBuf 0 len) (bit v 9)).updFw (fun f => { f with rcvStatus := 0, rcvWrites := sat 65535 (f.rcvWrites + 1) })

section
variable {v : W32}

theorem State.rcvWrite_none (h : bit v 8 = false) : s.rcvWrite v = s := if_pos (by simp [h])

theorem State.rcvFits_iff : ¬ (!slotRange (bits v 0 4) s.fw.rcvOffset s.fw.rcvLen || decide (983040 < s.fw.rcvLen)) = true ↔
    slotRange (bits v 0 4) s.fw.rcvOffset s.fw.rcvLen = true ∧ s.fw.rcvLen ≤ 983040 := by simp

theorem State.rcvWrite_bad (h : bit v 8 = true) (hf : ¬ (slotRange (bits v 0 4) s.fw.rcvOffset s.fw.rcvLen = true ∧ s.fw.rcvLen ≤ 983040)) :
    s.rcvWrite v = s.updFw (fun f => { f with rcvStatus := 0x21 }) :=
  (if_neg (by simp [h])).trans (if_pos (Decidable.not_not.1 fun hn => hf (State.rcvFits_iff.1 hn)))

theorem State.rcvWrite_busy (h : bit v 8 = true) (hf : slotRange (bits v 0 4) s.fw.rcvOffset s.fw.rcvLen = true ∧ s.fw.rcvLen ≤ 983040)
    (hs : s.staging (bits v 0 4) = true) : s.rcvWrite v = s.updFw (fun f => { f with rcvStatus := 0x12 }) :=
  (if_neg (by simp [h])).trans ((if_neg (State.rcvFits_iff.2 hf)).trans (if_pos hs))

theorem State.rcvWrite_takes (h : bit v 8 = true) (hf : slotRange (bits v 0 4) s.fw.rcvOffset s.fw.rcvLen = true ∧ s.fw.rcvLen ≤ 983040)
    (hs : s.staging (bits v 0 4) = false) : s.rcvWrite v = (s.writeSlot (bits v 0 4) s.fw.rcvOffset (Tbl.getMany 0 s.fw.rcvBuf 0 s.fw.rcvLen) (bit v 9)).updFw
      (fun f => { f with rcvStatus := 0, rcvWrites := sat 65535 (f.rcvWrites + 1) }) :=
  (if_neg (by simp [h])).trans ((if_neg (State.rcvFits_iff.2 hf)).trans (if_neg (by simp [hs])))

end

/-- What the command's fields leave before its write (Table 17.8). -/
def State.rcvFields (s : State) (v : W32) (b : List Byte) : State :=
  s.updFw (fun f => { f with rcvImage := bits v 0 4, rcvFinal := bit v 9, rcvBuf := Tbl.setMany 0 f.rcvBuf 0 (b.take 983040) })

/-- A command in recovery mode writes, and then reboots where it says so. -/
theorem State.rcvCmd_of {v : W32} {b : List Byte} {x : State} (h : s.sys.recovery = true) (hx : (s.rcvFields v b).rcvWrite v = x) :
    s.rcvCmd v b = if bit v 10 then x.rebootRecovery else x := by
  subst hx
  exact if_neg (by simp [h])

/-- FW_SCHEDULE completes at the end of its warm restart (R463, R464). -/
def State.warmEnds (w : State) (us : Nat) : State :=
  if w.fw.firstFail.isNone then
    (((w.jobs.filter (fun j => decide (j.kind = .fwSchedule))).foldl (fun x j => x.completeAt j.run .ok us j.run.p.act)
      (w.dropJobs (fun j => decide (j.kind = .fwSchedule)))).logActivated us)
  else w.rejectSchedule

theorem execWarmRestartEnd_ends {us : Nat} (h : s.fw.warm = true ∧ s.sys.restarting = true ∧ s.fw.boot = 2) : execWarmRestartEnd us s =
    .next (((((((s.advanceTo (s.fw.warmAt + 1600 * us)).setProcs (List.range 8) 0).updSys (fun y => { y with ready := true, restarting := false })).enterHeld).warmEnds us).updFw
      (fun f => { f with sched := 0, actTime := 0, warm := false, firstFail := none })).applyHeld.release) := by
  rw [execWarmRestartEnd, if_pos h]
  generalize s.advanceTo (s.fw.warmAt + 1600 * us) = u
  dsimp only
  generalize ((u.setProcs (List.range 8) 0).updSys (fun y => { y with ready := true, restarting := false })).enterHeld = w
  unfold State.warmEnds
  rfl

/-- Settles O37: each event by its guard, and the recovery command by what its fields say. -/
theorem warmRestartAndRecoveryWrites : Obligations.WarmRestartAndRecoveryWrites := by
  intro s us v buf
  refine ⟨fun h => ⟨?_, ?_⟩, fun t ht => ?_, ?_, fun h => ⟨next_eq (if_pos (by simp [h])), next_eq (if_pos (by simp [h]))⟩, fun h => ?_⟩
  · show execFwQuietCheck s = _
    unfold execFwQuietCheck
    rw [h]
  · show execWarmRestart s = _
    unfold execWarmRestart
    rw [h]
  · intro u w x y z
    have hq : exec .fwQuietCheck s = execFwQuietCheck s := rfl
    have hw : exec .warmRestart s = execWarmRestart s := rfl
    rw [hq, hw, execFwQuietCheck, execWarmRestart, ht]
    dsimp only
    refine ⟨fun h1 hm => ⟨fun n hn => ?_, fun hn => ?_⟩, fun h => if_neg h, fun h => ?_, fun h => if_neg h⟩
    · rw [if_pos ⟨h1, hm⟩, show firstFail (s.advanceTo (s.lcAt t.act - 1600000)).quiet 1 = some n from hn]
    · rw [if_pos ⟨h1, hm⟩, show firstFail (s.advanceTo (s.lcAt t.act - 1600000)).quiet 1 = none from hn]
      refine next_eq ?_
      change u.updFw _ = _
      clear_value u
      rfl
    · rw [if_pos h]
  · intro ends u w done js
    have hx : ends → exec (.warmRestartEnd us) s = .next (done (w.warmEnds us)) := fun h => execWarmRestartEnd_ends h
    refine ⟨fun h hf => (hx h).trans (next_eq (congrArg done (if_pos (Option.isNone_iff_eq_none.2 hf)))),
      fun h hf => (hx h).trans (next_eq (congrArg done (if_neg fun h => hf (Option.isNone_iff_eq_none.1 h)))), fun h => if_neg h⟩
  · intro cmd
    have hcmd : ∀ b, cmd b (s.rcvCmd v b) := by
      intro b
      exact ⟨fun h8 => State.rcvCmd_of h (State.rcvWrite_none (s := s.rcvFields v b) h8),
        fun h8 hf => State.rcvCmd_of h (State.rcvWrite_bad (s := s.rcvFields v b) h8 hf),
        fun h8 hf hs => State.rcvCmd_of h (State.rcvWrite_busy (s := s.rcvFields v b) h8 hf hs),
        fun h8 hf hs => State.rcvCmd_of h (State.rcvWrite_takes (s := s.rcvFields v b) h8 hf hs)⟩
    exact ⟨⟨_, rfl, hcmd buf⟩, ⟨_, rfl, hcmd []⟩⟩

end Sys2Proof.Machine
end

section
/-! O38 and O39: the fourteen steps (R124 to R133, R157 to R174, R177). -/
namespace Sys2Proof.Machine

variable {s : State} {op : Nat} {f : Nat → List W32 → State → State}

/-- Each step command issues the thread's next step under its opcode (Table 6.1). -/
theorem exec_issue {c : Fin 1024} {i : Instr} (h : (i, op) ∈ [(Instr.play c, 0x01), (.hop c, 0x02), (.mark c, 0x03), (.wait c, 0x04), (.waitEvt c, 0x05), (.trig c, 0x06), (.branch c, 0x07),
      (.branchEvt c, 0x08), (.loop c, 0x09), (.ctr c, 0x0A), (.call c, 0x0B), (.ret c, 0x0C), (.jmpen c, 0x0D), (.endStep c, 0x0E)]) :
    ∃ f, exec i s = .next (issue op f c s) := by
  simp only [List.mem_cons, Prod.mk.injEq, List.not_mem_nil, or_false] at h
  rcases h with ⟨rfl, rfl⟩ | ⟨rfl, rfl⟩ | ⟨rfl, rfl⟩ | ⟨rfl, rfl⟩ | ⟨rfl, rfl⟩ | ⟨rfl, rfl⟩ | ⟨rfl, rfl⟩ | ⟨rfl, rfl⟩ | ⟨rfl, rfl⟩ |
    ⟨rfl, rfl⟩ | ⟨rfl, rfl⟩ | ⟨rfl, rfl⟩ | ⟨rfl, rfl⟩ | ⟨rfl, rfl⟩ <;> exact ⟨_, rfl⟩

/-- A thread can issue that runs, waits for nothing, fetches nothing, and has an engine and a quiet spin watchdog. -/
theorem State.ready_iff {c : Nat} : s.ready c = true ↔ (s.ctx c).st = .running ∧ (s.ctx c).waiting = .none ∧ (s.ctx c).fetching = false ∧
    s.engineRuns c = true ∧ (s.ctx c).spin < 65536 := by
  simp [State.ready, and_assoc]

/-! The outcomes of an issue, in the order of its checks (R124, R130, R133, R157). -/

section
variable {c : Nat}

theorem issue_of_not_ready (h : ¬ s.ready c = true) : issue op f c s = s := if_pos (by simp [h])

theorem issue_of_missing (h : s.ready c = true) (hc : (s.ctx c).pc ∉ (s.ctx c).cache) : issue op f c s = s.missStep c :=
  (if_neg (by simp [h])).trans (if_pos (by simp [hc]))

/-- A thread whose step is in its cache is past those two. -/
theorem issue_here (h : s.ready c = true) (hc : (s.ctx c).pc ∈ (s.ctx c).cache) : issue op f c s =
    let x := s.ctx c
    let w := x.step x.pc
    if (stepMasks w).isEmpty then s.faultStop c 0x109 0
    else if sop w ≠ op then s
    else if wrongTv x w then s.faultStop c 0x109 0
    else if s.notHeld c w then s.faultStop c 0x102 0
    else if s.queueFull c w then s
    else
      let t := f c w (s.updCtx c (fun x => x.issued op))
      if (t.ctx c).stopAfter then t.stopCtx c else t :=
  (if_neg (by simp [h])).trans (if_neg (by simp [hc]))

/-- A step past every check issues. -/
theorem issue_of_issues (h : s.ready c = true ∧ (s.ctx c).pc ∈ (s.ctx c).cache ∧ stepMasks ((s.ctx c).step (s.ctx c).pc) ≠ [] ∧
      sop ((s.ctx c).step (s.ctx c).pc) = op ∧ wrongTv (s.ctx c) ((s.ctx c).step (s.ctx c).pc) = false ∧
      s.notHeld c ((s.ctx c).step (s.ctx c).pc) = false ∧ s.queueFull c ((s.ctx c).step (s.ctx c).pc) = false) {t : State}
    (ht : f c ((s.ctx c).step (s.ctx c).pc) (s.updCtx c (fun x => x.issued op)) = t) :
    issue op f c s = if (t.ctx c).stopAfter then t.stopCtx c else t := by
  obtain ⟨hr, hc, hv, ho, ht', hn, hq⟩ := h
  subst ht
  rw [issue_here hr hc]
  dsimp only
  rw [if_neg (by simpa using hv), if_neg (by simpa using ho), if_neg (by simp [ht']), if_neg (by simp [hn]), if_neg (by simp [hq])]

end

/-- Whether a step is on its way does not depend on its thread's waiting for it. -/
theorem State.stepComing_fetching {c k : Nat} :
    (s.updCtx c (fun x => { x with fetching := true })).stepComing c k = s.stepComing c k := by
  simp [State.stepComing, State.updCtx_ctx]

theorem State.missStep_of_coming {c : Nat} (h : s.stepComing c (s.ctx c).pc = true) :
    s.missStep c = s.updCtx c (fun x => { x with fetching := true }) := if_pos (State.stepComing_fetching.trans h)

theorem State.missStep_of_not_coming {c : Nat} (h : s.stepComing c (s.ctx c).pc = false) :
    s.missStep c =
      let u := s.updCtx c (fun x => { x with fetching := true })
      State.requestStep (match (s.ctx c).engine with
        | some e => u.updEng (s.execUnit e) (fun y => { y with misses := y.misses + 1 })
        | none => u) c (s.ctx c).pc :=
  (if_neg (by simp [State.stepComing_fetching, h])).trans (by cases (s.ctx c).engine <;> rfl)

/-- Settles O38: the checks of `issue`, in their order. -/
theorem stepsIssueOrStopTheirThread : Obligations.StepsIssueOrStopTheirThread := by
  intro s c i op h x w ready here valid
  obtain ⟨f, hx⟩ := exec_issue (s := s) h
  have hready : s.ready c = true ↔ ready := State.ready_iff
  have hvalid : valid → ¬ (stepMasks w).isEmpty = true := fun hv => by simpa using hv
  rw [hx]
  refine ⟨fun hr => next_eq (issue_of_not_ready fun h => hr (hready.1 h)), fun hr hh => ?_,
    fun hr hh hv => next_eq ((issue_here (hready.2 hr) hh).trans (if_pos (by simpa [valid] using hv))), fun hr hh hv ho => next_eq ?_,
    fun hr hh hv ho ht => next_eq ?_, fun hr hh hv ho ht hn => next_eq ?_, fun hr hh hv ho ht hn hq => next_eq ?_⟩
  · intro u v
    rw [issue_of_missing (hready.2 hr) hh]
    exact ⟨fun hs => next_eq (State.missStep_of_coming hs), fun hs => next_eq ((State.missStep_of_not_coming hs).trans rfl)⟩
  · exact (issue_here (hready.2 hr) hh).trans ((if_neg (hvalid hv)).trans (if_pos ho))
  · exact (issue_here (hready.2 hr) hh).trans ((if_neg (hvalid hv)).trans ((if_neg (not_not.2 ho)).trans (if_pos ht)))
  · exact (issue_here (hready.2 hr) hh).trans ((if_neg (hvalid hv)).trans ((if_neg (not_not.2 ho)).trans
      ((if_neg (Bool.eq_false_iff.1 ht)).trans (if_pos hn))))
  · exact (issue_here (hready.2 hr) hh).trans ((if_neg (hvalid hv)).trans ((if_neg (not_not.2 ho)).trans
      ((if_neg (Bool.eq_false_iff.1 ht)).trans ((if_neg (Bool.eq_false_iff.1 hn)).trans (if_pos hq)))))

/-! The thread's own fields after an issue: only its cache and its watchdogs have moved (R130, R140). -/

section
variable {c : Nat}

theorem State.issued_ctx : (s.updCtx c (fun x => x.issued op)).ctx c = (s.ctx c).issued op := (State.updCtx_ctx ..).trans (if_pos rfl)

/-- A counter step of the thread (R169). -/
theorem State.stepCtr_issued {k : Nat} {v : W32} : (s.updCtx c (fun x => x.issued op)).stepCtr c k v =
    if (s.ctx c).ctrLc = s.lc ∧ k ∈ (s.ctx c).ctrHeld then s.updCtx c (fun x => x.issued op) else (s.updCtx c (fun x => x.issued op)).setCtr c k v := by
  unfold State.stepCtr
  rw [State.issued_ctx]
  refine if_congr ?_ rfl rfl
  rw [Bool.and_eq_true, decide_eq_true_iff, List.contains_iff_mem]
  exact Iff.rfl

end

/-- Settles O39: `issue_of_issues` for each opcode, the step reading its thread's own fields past the issue. -/
theorem stepsTakeEffect : Obligations.StepsTakeEffect := by
  intro s c x w issues u becomes on target k put
  have hu : ∀ op, (u op).ctx c = x.issued op := fun op => State.issued_ctx
  have hput : ∀ op v, (u op).stepCtr c (sf w 0 12 3) v = put op v := fun op v => State.stepCtr_issued
  refine ⟨fun h => next_eq (issue_of_issues h ?_), fun h => next_eq (issue_of_issues h ?_),
    fun h => ⟨fun hm => next_eq (issue_of_issues h ?_), fun hm => next_eq (issue_of_issues h ?_), fun hm => next_eq (issue_of_issues h ?_)⟩,
    fun h => next_eq (issue_of_issues h ?_), fun h => next_eq (issue_of_issues h ?_), fun h => next_eq (issue_of_issues h ?_),
    fun h => next_eq (issue_of_issues h ?_), fun h => next_eq (issue_of_issues h ?_), fun h => next_eq (issue_of_issues h ?_),
    fun h => next_eq (issue_of_issues h ?_), fun h => next_eq (issue_of_issues h ?_),
    fun h => ⟨fun hs => next_eq (issue_of_issues h ?_), fun n ns hs => next_eq (issue_of_issues h ?_)⟩,
    fun h => next_eq (issue_of_issues h ?_), fun h => next_eq (issue_of_issues h ?_)⟩
  · show doPlay c w (u 1) = _
    rw [doPlay, hu]
    rfl
  · show doHop c w (u 2) = _
    rw [doHop, hu]
    rfl
  · show doMark c w (u 3) = _
    rw [doMark, hu]
    rw [hm]
    rfl
  · show doMark c w (u 3) = _
    rw [doMark, hu]
    rw [hm]
    rfl
  · show doMark c w (u 3) = _
    rw [doMark, hu]
    split
    case h_1 h0 => omega
    case h_2 h0 => omega
    case h_3 => rfl
  · rfl
  · show doWaitEvt c w (u 5) = _
    rw [doWaitEvt, hu]
    rfl
  · show doTrig c w (u 6) = _
    rw [doTrig]
    rw [State.updCtx_ctx, if_pos rfl, hu]
    rfl
  · show doBranch c w (u 7) = _
    rw [doBranch, hu]
    rfl
  · show doBranchEvt c w (u 8) = _
    rw [doBranchEvt, hu]
    rfl
  · show doLoop c w (u 9) = _
    rw [doLoop, hu]
    rw [hput]
    rfl
  · show doCtr c w (u 10) = _
    rw [doCtr, hu]
    rw [hput]
    rfl
  · show doCall c w (u 11) = _
    rw [doCall, hu]
    rfl
  · show doReturn c w (u 12) = _
    rw [doReturn, hu, show (x.issued 12).stack = [] from hs]
  · show doReturn c w (u 12) = _
    rw [doReturn, hu, show (x.issued 12).stack = n :: ns from hs]
  · show doJmpen c w (u 13) = _
    rw [doJmpen, hu]
    rfl
  · rfl

end Sys2Proof.Machine
end

section
/-! O40 and O41: threads between their steps, their starts, events delivered, jumps, and the engines' watchdogs (R126, R140 to R145,
R166 to R184, R220 to R224, R362 to R367). -/
namespace Sys2Proof.Machine

variable {s : State} {c : Fin 1024}

/-! ### END and event steps that end (R166, R171) -/

theorem endReached_ends {p : Nat} (hw : (s.ctx c).waiting = .ended p) (h : (s.ctx c).st = .running ∧ (s.ctx c).preRun = false ∧ s.voicesDone c = true) :
    exec (.endReached c) s = .next (let u := (s.advanceTo p).stopCtx c; if u.stopDone c then u.updCtx c (fun x => { x with st := .armed }) else u) := by
  show execEndReached c s = _
  unfold execEndReached
  simp only [hw]
  rw [if_pos h]

theorem endReached_not (h : (∀ p, (s.ctx c).waiting ≠ .ended p) ∨
      ¬ ((s.ctx c).st = .running ∧ (s.ctx c).preRun = false ∧ s.voicesDone c = true)) : exec (.endReached c) s = .next s := by
  show execEndReached c s = _
  unfold execEndReached
  dsimp only
  split
  case h_1 p hw => exact if_neg (h.resolve_left fun h => h p hw)
  case h_2 => rfl

theorem eventStepTimeout_evt {p T n : Nat} {stop : Bool} (hr : s.engineRuns c = true) (hw : (s.ctx c).waiting = .evt p T stop n) :
    exec (.eventStepTimeout c) s = if T = 0 then .next s else .next (if stop then (s.advanceTo (p + T)).faultStop c 0x10A 0
      else (s.advanceTo (p + T - 4)).resumeAt c (p + T) ((s.ctx c).pc + 1)) := by
  show execEventStepTimeout c s = _
  unfold execEventStepTimeout
  simp only [hw]
  rw [if_neg (by simp [hr])]

theorem eventStepTimeout_branch {p W k n : Nat} (hr : s.engineRuns c = true) (hw : (s.ctx c).waiting = .branch p W k n) :
    exec (.eventStepTimeout c) s = .next ((s.advanceTo (p + W - 4)).resumeAt c (p + W) ((s.ctx c).pc + 1)) := by
  show execEventStepTimeout c s = _
  unfold execEventStepTimeout
  simp only [hw]
  rw [if_neg (by simp [hr])]

theorem eventStepTimeout_not (h : s.engineRuns c = false ∨ ((∀ p T b n, (s.ctx c).waiting ≠ .evt p T b n) ∧
      ∀ p W k n, (s.ctx c).waiting ≠ .branch p W k n)) : exec (.eventStepTimeout c) s = .next s := by
  show execEventStepTimeout c s = _
  unfold execEventStepTimeout
  cases hr : s.engineRuns c
  · exact if_pos rfl
  · obtain ⟨he, hb⟩ := h.resolve_left (by simp [hr])
    dsimp only
    rw [if_neg (by simp)]
    split
    case h_1 hw => exact (he _ _ _ _ hw).elim
    case h_2 hw => exact (hb _ _ _ _ hw).elim
    case h_3 => rfl

/-! ### Delivery (R362 to R367) -/

theorem eventDelivery_none {ch : Fin 256} (h : s.regs.find? (fun r => decide (r.ch = ch.val)) = none) : exec (.eventDelivery ch) s = .next s := by
  show execEventDelivery ch s = _
  unfold execEventDelivery
  rw [h]

theorem eventDelivery_some {ch : Fin 256} {r : Reg} (h : s.regs.find? (fun r => decide (r.ch = ch.val)) = some r) :
    exec (.eventDelivery ch) s = .next (
      let a := r.u + 2
      let u := ({ s with regs := s.regs.erase r } : State).advanceTo a
      (((u.ev ch).cells.foldl (fun t p => t.deliverCell p a) ((r.snap.getD (u.ev ch).cons).foldl (fun t k => t.deliver k a) u)).feedChannel ch
        (r.stamp.getD (65536 * a)))) := by
  show execEventDelivery ch s = _
  unfold execEventDelivery
  rw [h]

/-! ### The fox jump (R220 to R224) -/

section
variable {slot : Fin 4} {frac : Nat}

theorem foxJump_none (h : ((s.ctx c).jump slot).hit = none) : exec (.foxJump c slot frac) s = .next s := by
  show execFoxJump c slot frac s = _
  unfold execFoxJump
  dsimp only
  rw [h]

theorem foxJump_other {b f : Nat} (h : ((s.ctx c).jump slot).hit = some (b, f)) (hf : f ≠ frac) : exec (.foxJump c slot frac) s = .next s := by
  show execFoxJump c slot frac s = _
  unfold execFoxJump
  dsimp only
  rw [h]
  exact if_pos hf

/-- The edge that the slot holds: forgotten, waited with, refused for what is not held, or taken. -/
theorem foxJump_hit {b : Nat} (h : ((s.ctx c).jump slot).hit = some (b, frac)) : exec (.foxJump c slot frac) s =
    let x := s.ctx c
    let j := x.jump slot
    let w := x.step j.entry
    let u := (s.advanceTo b).updJump c slot (fun y => { y with hit := none, lastAt := some b })
    if x.st ≠ .running ∨ j.st ≠ 2 then .next (s.updJump c slot (fun y => { y with hit := none }))
    else if !s.engineRuns c || (s.onCub x && !x.cache.contains j.entry) then .next s
    else if !u.holds c 1 (sf w 0 8 8) || !u.segLive (sw w 1) || ((sb w 5 0 || sb w 6 0) && !u.holds c 0 (sf w 0 8 8 / 8)) then
      .next ((u.goTo c j.entry).faultStop c 0x102 0)
    else .next (u.foxJump c slot b frac) := by
  show execFoxJump c slot frac s = _
  unfold execFoxJump
  dsimp only
  rw [h]
  exact if_neg (not_not.2 rfl)

end

/-! ### Starts (R182) -/

theorem preRunStart_armed {l : Nat} (h : s.nextStart c = some l) (ha : (s.ctx c).st = .armed) :
    exec (.preRunStart c) s = .next ((s.advanceTo (l - 8192)).beginPreRun c l) := by
  show execPreRunStart c s = _
  unfold execPreRunStart
  rw [h]
  exact if_pos ha

theorem preRunStart_not (h : s.nextStart c = none ∨ (s.ctx c).st ≠ .armed) : exec (.preRunStart c) s = .next s := by
  show execPreRunStart c s = _
  unfold execPreRunStart
  cases hn : s.nextStart c with
  | none => rfl
  | some l => exact if_neg (h.resolve_left (by simp [hn]))

/-- An entry is refused where the voice, the segment or the channel of its edges is not held (R221). -/
theorem refusesEntry_iff : ∀ voice seg edge0 edge1 chan : Bool, (!voice || !seg || ((edge0 || edge1) && !chan)) = true ↔
    ¬ (voice = true ∧ seg = true ∧ (edge0 = true ∨ edge1 = true → chan = true)) := by decide

/-- Settles O40: each command in the cases of its event. -/
theorem threadsStartEndJumpAndReceiveEvents : Obligations.ThreadsStartEndJumpAndReceiveEvents := by
  intro s c ch slot frac x
  refine ⟨fun p hw h1 h2 h3 => endReached_ends hw ⟨h1, h2, h3⟩, endReached_not,
    fun hr => ⟨fun p T stop n hw hT => (eventStepTimeout_evt hr hw).trans (if_neg hT), fun p stop n hw => (eventStepTimeout_evt hr hw).trans (if_pos rfl),
      fun p W k n hw => eventStepTimeout_branch hr hw⟩,
    eventStepTimeout_not, eventDelivery_none, fun r hr => (eventDelivery_some hr).trans rfl, ?_,
    fun l hl ha => preRunStart_armed hl ha, preRunStart_not, fun h1 h2 h3 => if_pos ⟨h1, h2, h3⟩, fun h => if_neg h⟩
  intro j w
  refine ⟨foxJump_none, fun b f hj hf => foxJump_other hj hf, fun b hj => ?_⟩
  intro u held ready
  have hexec := foxJump_hit hj
  have hready : (!s.engineRuns c || (s.onCub x && !x.cache.contains j.entry)) = true ↔ ¬ ready := by
    simp only [ready]
    cases s.engineRuns c <;> simp
  have hheld : (!u.holds c 1 (sf w 0 8 8) || !u.segLive (sw w 1) || ((sb w 5 0 || sb w 6 0) && !u.holds c 0 (sf w 0 8 8 / 8))) = true ↔ ¬ held := 
    refusesEntry_iff ..
  have hgo : x.st = .running → j.st = 2 → ¬ (x.st ≠ .running ∨ j.st ≠ 2) := fun h1 h2 h => h.elim (absurd h1) (absurd h2)
  rw [hexec]
  exact ⟨fun h => if_pos h, fun h1 h2 h3 => (if_neg (hgo h1 h2)).trans (if_pos (hready.2 h3)),
    fun h1 h2 h3 h4 => (if_neg (hgo h1 h2)).trans ((if_neg fun h => hready.1 h h3).trans (if_pos (hheld.2 h4))),
    fun h1 h2 h3 h4 => (if_neg (hgo h1 h2)).trans ((if_neg fun h => hready.1 h h3).trans (if_neg fun h => hheld.1 h h4))⟩

/-! ### Watchdogs and migration (R140 to R145) -/

/-- A stall of a thread that should issue is counted, then climbs the ladder (R141). -/
theorem stepStall_climbs {g : Nat} (he : (s.ctx c).engine = some g) (h1 : (s.ctx c).st = .running) (h2 : (s.ctx c).waiting = .none)
    (h3 : s.engineRuns c = true) : exec (.stepStall c) s =
      let x := s.ctx c
      let u := s.updEng (s.execUnit g) (fun y => { y with stalls := sat 65535 (y.stalls + 1) })
      .next (if x.onCubStall = some x.pc then u.deviceReset c 0x103 (u.lastRec c 0x103)
        else if x.stalls < 2 then (u.fault 0x103 (x.stalls + 1) .c (some c.val) g (detS x.pc 0 ((x.pos : Int) - x.startS))).updCtx c
          (fun x => { x with stalls := x.stalls + 1, fetching := false })
        else (u.updCtx c (fun x => { x with stalls := 0, onCubStall := some x.pc })).migrate g) := by
  show execStepStall c s = _
  unfold execStepStall
  simp only [he]
  rw [if_neg (by simp [h1, h2, h3])]

theorem stepStall_not (h : (s.ctx c).engine = none ∨ (s.ctx c).st ≠ .running ∨ (s.ctx c).waiting ≠ .none ∨ s.engineRuns c = false) :
    exec (.stepStall c) s = .next s := by
  show execStepStall c s = _
  unfold execStepStall
  dsimp only
  split
  case h_1 => rfl
  case h_2 g hg => exact if_pos (by simpa using h.resolve_left (by simp [hg]))

theorem State.migrate_to_cub {g k : Nat} (h : s.spareCub = some k) : s.migrate g =
    let u := (s.updEng g (fun x => { x with migrating := some (k, s.lc) })).updEng k (fun x => { x with migrating := some (g, s.lc) })
    (u.ctxsOn g).foldl (fun t c => t.updCtx c (fun x => { x with fetching := false })) u := by
  unfold State.migrate
  rw [h]

theorem State.migrate_retires {g : Nat} (h : s.spareCub = none) : s.migrate g = s.retireEngine g := by
  unfold State.migrate
  rw [h]

theorem migrationComplete_not {e : Fin 256} (h : (s.eng e).migrating = none) : exec (.migrationComplete e) s = .next s := by
  show execMigrationComplete e s = _
  unfold execMigrationComplete
  rw [h]

theorem migrationComplete_ends {e : Fin 256} {k b : Nat} (h : (s.eng e).migrating = some (k, b)) : exec (.migrationComplete e) s = .next (
    let t := s.advanceTo (b + 40)
    let u := if (t.eng e).st = 1 then t.updEng (256 + (t.eng e).partner) (fun x => { x with st := 2 }) else t
    let v := (u.updEng e (fun x => { x with st := 1, partner := k - 256, migrating := none })).updEng k (fun x => { x with st := 1, partner := e, migrating := none })
    let w : State := { v with log := { v.log with mramEngines := insertNat e v.log.mramEngines } }
    (((w.ctxsOn e).foldl (fun t c => (t.refetch c).decideWait c) w).tellEngine e k 0x105 3 .c)) := by
  show execMigrationComplete e s = _
  unfold execMigrationComplete
  rw [h]

/-- Settles O41. -/
theorem enginesStallSpinAndMigrate : Obligations.EnginesStallSpinAndMigrate := by
  intro s c e x
  refine ⟨fun h1 h2 => if_pos ⟨h1, h2⟩, fun h => if_neg h, fun g he h1 h2 h3 => ?_, stepStall_not,
    fun h1 h2 => if_neg (by simp [h1, h2]), fun h => if_pos ?_, fun g k => State.migrate_to_cub, fun g h => (State.migrate_retires h).trans rfl,
    fun k b h => (migrationComplete_ends h).trans rfl, migrationComplete_not⟩
  · have hclimb := stepStall_climbs he h1 h2 h3
    exact ⟨fun hp => hclimb.trans (next_eq (if_pos hp)), fun hp hs => hclimb.trans (next_eq ((if_neg hp).trans (if_pos hs))),
      fun hp hs => hclimb.trans (next_eq ((if_neg hp).trans (if_neg (Nat.not_lt.2 hs))))⟩
  · by_cases h2 : (s.eng e).st = 2
    · exact .inl h2
    · exact .inr (Option.isSome_iff_ne_none.2 fun hm => h ⟨h2, hm⟩)

end Sys2Proof.Machine
end

section
/-! O42: the next event of a marker (R161 to R165). -/
namespace Sys2Proof.Machine

variable {s : State} {m : Fin 64}

/-- The next toggle of a marker's divider, while its channel converts (R165). -/
def State.toggleDue (s : State) (m : Fin 64) : Option Nat :=
  if (s.marker m).divider && (s.fch (m.val / 2)).converts then some (s.nextToggle (s.marker m)) else none

/-- Sample n comes no later than the next toggle. -/
def beforeToggle (due : Option Nat) (n : Nat) : Bool := match due with | some t => decide (n ≤ 32 * t) | none => true

theorem beforeToggle_iff {due : Option Nat} {n : Nat} : beforeToggle due n = true ↔ ∀ t, due = some t → n ≤ 32 * t := by
  cases due <;> simp [beforeToggle]

/-- A marker's next event: of its first mode change and its first edge the one that comes no later than the next toggle, or the toggle. -/
theorem markerTransition_eq : exec (.markerTransition m) s =
    let k := s.marker m
    let toggle := match s.toggleDue m with | some t => s.toggleMarker m t | none => s
    .next (match k.modeAt, k.edges with
      | (l, p) :: ms, e :: es =>
        if 32 * l ≤ e.at_ then (if beforeToggle (s.toggleDue m) (32 * l) then s.nextMode m l p ms else toggle)
        else if beforeToggle (s.toggleDue m) e.at_ then s.nextEdge m e es else toggle
      | (l, p) :: ms, [] => if beforeToggle (s.toggleDue m) (32 * l) then s.nextMode m l p ms else toggle
      | [], e :: es => if beforeToggle (s.toggleDue m) e.at_ then s.nextEdge m e es else toggle
      | [], [] => toggle) := rfl

theorem markerTransition_mode {l p : Nat} {ms : List (Nat × Nat)} (hm : (s.marker m).modeAt = (l, p) :: ms)
    (he : ∀ e es, (s.marker m).edges = e :: es → 32 * l ≤ e.at_) (ht : ∀ t, s.toggleDue m = some t → l ≤ t) :
    exec (.markerTransition m) s = .next (s.nextMode m l p ms) := by
  have hb : beforeToggle (s.toggleDue m) (32 * l) = true := beforeToggle_iff.2 fun t h => Nat.mul_le_mul_left 32 (ht t h)
  rw [markerTransition_eq]
  dsimp only
  rw [hm]
  cases hes : (s.marker m).edges with
  | nil => exact next_eq (if_pos hb)
  | cons e es => exact next_eq ((if_pos (he e es hes)).trans (if_pos hb))

theorem markerTransition_edge {e : Edge} {es : List Edge} (he : (s.marker m).edges = e :: es)
    (hm : ∀ l p ms, (s.marker m).modeAt = (l, p) :: ms → e.at_ < 32 * l) (ht : ∀ t, s.toggleDue m = some t → e.at_ ≤ 32 * t) :
    exec (.markerTransition m) s = .next (s.nextEdge m e es) := by
  have hb : beforeToggle (s.toggleDue m) e.at_ = true := beforeToggle_iff.2 ht
  rw [markerTransition_eq]
  dsimp only
  rw [he]
  cases hms : (s.marker m).modeAt with
  | nil => exact next_eq (if_pos hb)
  | cons x ms => exact next_eq ((if_neg (Nat.not_le.2 (hm x.1 x.2 ms hms))).trans (if_pos hb))

theorem markerTransition_toggle {t : Nat} (ht : s.toggleDue m = some t) (hm : ∀ l p ms, (s.marker m).modeAt = (l, p) :: ms → t < l)
    (he : ∀ e es, (s.marker m).edges = e :: es → 32 * t < e.at_) : exec (.markerTransition m) s = .next (s.toggleMarker m t) := by
  have hlate : ∀ {n}, 32 * t < n → ¬ beforeToggle (s.toggleDue m) n = true := fun hn h => Nat.not_le.2 hn (beforeToggle_iff.1 h t ht)
  have htog : (match s.toggleDue m with | some t => s.toggleMarker m t | none => s) = s.toggleMarker m t := by rw [ht]
  rw [markerTransition_eq]
  dsimp only
  cases hms : (s.marker m).modeAt with
  | nil =>
    cases hes : (s.marker m).edges with
    | nil => exact next_eq htog
    | cons e es => exact next_eq ((if_neg (hlate (he e es hes))).trans htog)
  | cons x ms =>
    have hl : ¬ beforeToggle (s.toggleDue m) (32 * x.1) = true := hlate (Nat.mul_lt_mul_of_pos_left (hm x.1 x.2 ms hms) (by decide))
    cases hes : (s.marker m).edges with
    | nil => exact next_eq ((if_neg hl).trans htog)
    | cons e es =>
      refine next_eq ?_
      dsimp only
      rw [if_neg hl, if_neg (hlate (he e es hes)), ite_self]
      exact htog

theorem markerTransition_none (ht : s.toggleDue m = none) (hm : (s.marker m).modeAt = []) (he : (s.marker m).edges = []) :
    exec (.markerTransition m) s = .next s := by
  rw [markerTransition_eq]
  dsimp only
  rw [hm, he, ht]

/-- An edge nearer than 16 samples to the last edge applied, other than a repeat of it (R163). -/
theorem near_iff {last : Option Nat} {e : Edge} {level : Bool} : (match last with
      | some l => decide (e.at_ < l + 16) && !(decide (e.at_ = l) && decide (e.level = level) && !e.moved)
      | none => false) = true ↔
    ∃ l, last = some l ∧ e.at_ < l + 16 ∧ ¬ (e.at_ = l ∧ e.level = level ∧ e.moved = false) := by
  cases last <;> simp [or_assoc, imp_iff_not_or]

/-- Settles O42. -/
theorem markersMoveInOrder : Obligations.MarkersMoveInOrder := by
  intro s m k live tog becomes
  have hdue : s.toggleDue m = tog := if_congr (by rw [Bool.and_eq_true]) rfl rfl
  refine ⟨fun l p ms hm he ht => (markerTransition_mode hm he fun t h => ht t (hdue ▸ h)).trans rfl, fun e es he hm ht => ?_,
    fun t ht hm he => (markerTransition_toggle (hdue.trans ht) hm he).trans ?_, fun ht hm he => markerTransition_none (hdue.trans ht) hm he⟩
  · have hnext := markerTransition_edge he hm fun t h => ht t (hdue ▸ h)
    intro u y near runs v
    have hnear := near_iff (last := y.last) (e := e) (level := y.level)
    exact ⟨fun hr => hnext.trans (next_eq (if_pos hr)), fun hr hd => hnext.trans (next_eq ((if_neg (not_not.2 hr)).trans (if_pos hd))),
      fun hr hd hn => hnext.trans (next_eq ((if_neg (not_not.2 hr)).trans ((if_neg (Bool.eq_false_iff.1 hd)).trans (if_pos (hnear.2 hn))))),
      fun hr hd hn => hnext.trans (next_eq ((if_neg (not_not.2 hr)).trans ((if_neg (Bool.eq_false_iff.1 hd)).trans (if_neg fun h => hn (hnear.1 h)))))⟩
  · have hlevel : ((s.advanceTo t).marker m).level = k.level := congrArg Marker.level (State.advanceTo_read (fun s => s.marker m) (by intros; rfl))
    refine next_eq ?_
    rw [State.toggleMarker, hlevel]

end Sys2Proof.Machine
end

section
/-! O43: a voice's actions, its fills and its follow term (R127, R143, R154, R195 to R200, R207 to R210, R217 to R219, R285, R349). -/
namespace Sys2Proof.Machine

variable {s : State} {v : Fin 256}

/-! ### The starts and ends of actions (R127, R199, R200) -/

theorem voiceActionStart_queued {a : Action} {q : List Action} (hi : (s.voice v).st = .idle) (hq : (s.voice v).queue = a :: q) :
    exec (.voiceActionStart v) s = .next (if a.usable ≤ a.pos then (s.advanceTo (s.startLc v a)).beginAction v a
      else if (s.voice v).lastEnd = some a.pos then (s.advanceTo a.pos).lateFill v a.pos else s.advanceTo a.pos) := by
  show execVoiceActionStart v s = _
  unfold execVoiceActionStart
  simp only [hq]
  rw [if_neg (not_not.2 hi)]

theorem voiceActionStart_not (h : (s.voice v).st ≠ .idle ∨ (s.voice v).queue = []) : exec (.voiceActionStart v) s = .next s := by
  show execVoiceActionStart v s = _
  unfold execVoiceActionStart
  dsimp only
  split
  · rfl
  · rename_i hi
    rw [h.resolve_left hi]

/-- The contiguous action that follows the current one, which ends at timeline position e. -/
def Voice.contiguous (x : Voice) (e : Nat) : Option Action :=
  match x.st, x.queue with
  | .playing, b :: _ | .fill, b :: _ => if b.pos = e then some b else none
  | _, _ => none

theorem Voice.contiguous_some {x : Voice} {e : Nat} {b : Action} {q : List Action} (hs : x.st = .playing ∨ x.st = .fill) (hq : x.queue = b :: q)
    (hb : b.pos = e) : x.contiguous e = some b := by
  unfold Voice.contiguous
  rcases hs with hs | hs <;> rw [hs, hq] <;> exact if_pos hb

theorem Voice.contiguous_none {x : Voice} {e : Nat} (h : ¬ (x.st = .playing ∨ x.st = .fill) ∨ ∀ b q, x.queue = b :: q → b.pos ≠ e) :
    x.contiguous e = none := by
  unfold Voice.contiguous
  split
  case h_1 b q hs hq => exact if_neg ((h.resolve_left (not_not.2 (.inl hs))) b q hq)
  case h_2 b q hs hq => exact if_neg ((h.resolve_left (not_not.2 (.inr hs))) b q hq)
  case h_3 => rfl

theorem voiceActionEnd_eq {a : Action} (ha : (s.voice v).cur = some a) : exec (.voiceActionEnd v) s =
    let e := a.pos + a.dur
    let endLc := (-(-(s.endDue v a) / 65536)).toNat
    let close := fun (s : State) => ((s.endFill v ((s.voiceMode v).rate * s.lc) true).noteOut v ((s.voiceMode v).rate * s.lc))
    let done := fun (s : State) => (s.dropPin a.seg).swept
    .next (match (s.voice v).contiguous e with
      | some b =>
        if s.inTime v a b then done ((close (s.advanceTo (max (min (s.endDue v a) (s.firstDue v b) / 65536).toNat (s.startLc v b)))).beginAction v b)
        else done ((close (s.advanceTo endLc)).lateFill v e)
      | none => done ((close (s.advanceTo endLc)).idleVoice v e)) := by
  show execVoiceActionEnd v s = _
  unfold execVoiceActionEnd
  simp only [ha]
  rfl

theorem voiceActionEnd_none (h : (s.voice v).cur = none) : exec (.voiceActionEnd v) s = .next s := by
  show execVoiceActionEnd v s = _
  unfold execVoiceActionEnd
  simp only [h]

theorem actionLate_not {late : Nat} (h : (s.voice v).queue = [] ∨ ¬ ((s.voice v).st = .idle ∨ ((s.voice v).st = .fill ∧ (s.voice v).cur = none))) :
    exec (.actionLate v late) s = .next s := by
  show execActionLate v late s = _
  unfold execActionLate
  dsimp only
  split
  · rfl
  · rename_i a q hq
    exact if_neg fun hl => (h.resolve_left (by simp [hq])) hl.1

/-- A late action starts when it is usable, or is passed over where its whole duration has gone by (R127, R143). -/
theorem actionLate_late {late : Nat} {a : Action} {q : List Action} (hq : (s.voice v).queue = a :: q)
    (hs : (s.voice v).st = .idle ∨ ((s.voice v).st = .fill ∧ (s.voice v).cur = none)) (hl : a.pos < a.usable ∨ 0 < late) :
    exec (.actionLate v late) s = .next (
      let x := s.voice v
      let t := max (a.pos + late) a.usable
      let u := s.advanceTo t
      let w := u.updVoice v (fun y => { y with
        underruns := sat 65535 (y.underruns + 1)
        filled := sat (2 ^ 32 - 1) (y.filled + if x.lastEnd = some a.pos then u.samplesIn v a.pos t else 0) })
      let z := w.faultAt 0x101 0 .c x.owner (o2n (w.ctx (x.owner.getD 0)).engine) (w.tbAt a.pos)
        (detS a.step ((t : Int) - a.pos) ((a.pos : Int) - (w.ctx (x.owner.getD 0)).startS))
      if t < a.pos + a.dur then z.beginAction v a
      else (z.updVoice v (fun x => { x with queue := x.queue.drop 1 })).idleVoice v (a.pos + a.dur)) := by
  show execActionLate v late s = _
  unfold execActionLate
  simp only [hq]
  exact if_pos ⟨hs, hl⟩

/-! ### Fills (R207 to R209, R349) -/

/-- An episode of fill whose end is not known. -/
theorem openFill_iff {x : Voice} : (match x.fillEp with | some e => e.until_.isNone | none => false) = true ↔
    ∃ e, x.fillEp = some e ∧ e.until_ = none := by
  cases x.fillEp <;> simp

theorem voiceUnderrun_not {ovl : Bool} {i k : Nat} (h : (s.voice v).cur = none ∨ ∃ e, (s.voice v).fillEp = some e ∧ e.until_ = none) :
    exec (.voiceUnderrun v ovl i k) s = .next s := by
  show execVoiceUnderrun v ovl i k s = _
  unfold execVoiceUnderrun
  dsimp only
  split
  case h_1 => rfl
  case h_2 a ha => exact if_pos (openFill_iff.2 (h.resolve_left (by simp [ha])))

section
variable {a : Action} (ha : (s.voice v).cur = some a) (hf : ∀ e, (s.voice v).fillEp = some e → e.until_ ≠ none)
include ha hf

theorem voiceUnderrun_found {i k : Nat} : exec (.voiceUnderrun v false i k) s = match s.firstMissing v a (s.nextDue v a) with
    | some i => .next (s.beginFill v a i (s.whyMissing v a i))
    | none => .next s := by
  show execVoiceUnderrun v false i k s = _
  unfold execVoiceUnderrun
  simp only [ha]
  exact if_neg fun h => let ⟨e, he, hu⟩ := openFill_iff.1 h; hf e he hu

theorem voiceUnderrun_overload {i k : Nat} : exec (.voiceUnderrun v true i k) s =
    if a.bank ≠ none ∧ s.bnkOver (o2n a.bank) = true ∧ 0 < k ∧ s.nextDue v a ≤ i ∧ i + k ≤ s.actSamples v a then .next (s.overFill v a i k) else .next s := by
  show execVoiceUnderrun v true i k s = _
  unfold execVoiceUnderrun
  simp only [ha]
  refine (if_neg fun h => let ⟨e, he, hu⟩ := openFill_iff.1 h; hf e he hu).trans ((if_pos trivial).trans (if_congr ?_ rfl rfl))
  simp [Option.isSome_iff_ne_none, and_assoc]

end

/-- The end of an episode of fill whose length is counted and told (R208). -/
theorem State.closeFill_told {e : FillEp} {a : Action} {m : Nat} (he : (s.voice v).fillEp = some e) (ha : (s.voice v).cur = some a) (hp : e.pc = none) :
    s.closeFill v m = (s.updVoice v (fun x => { x with
      filled := sat (2 ^ 32 - 1) (x.filled + (m - e.from_)), fillEp := some { e with until_ := some m },
      st := if x.st = .fill then .playing else x.st })).tellFill v a e (m - e.from_) := by
  unfold State.closeFill State.tellEnd
  simp only [he, ha, hp]

section
variable {w n : Nat} {e : FillEp} {a : Action}

theorem State.tellFill_data (h : e.cause = .data) : s.tellFill w a e n =
    let t := s.tbAt (a.pos + e.first / (s.voiceMode w).rate)
    s.faultAt 0x201 0 .c (s.voice w).owner w t (detV a.seg a.segGen (e.first % max (s.seg a.seg).samples 1) t n 0) := by
  unfold State.tellFill
  rw [h]

theorem State.tellFill_poison (h : e.cause = .poison) : s.tellFill w a e n =
    let t := s.tbAt (a.pos + e.first / (s.voiceMode w).rate)
    s.faultAt 0x202 5 .c (s.voice w).owner w t (detV a.seg a.segGen (e.first % max (s.seg a.seg).samples 1) t n 0) := by
  unfold State.tellFill
  rw [h]

theorem State.tellFill_bankNotOn (h : e.cause = .bankNotOn) : s.tellFill w a e n =
    let t := s.tbAt (a.pos + e.first / (s.voiceMode w).rate)
    s.faultAt 0x205 0 .c (s.voice w).owner w t (detV a.seg a.segGen (e.first % max (s.seg a.seg).samples 1) t n (o2n a.bank)) := by
  unfold State.tellFill
  rw [h]

end

/-! ### The gain ramp's end and the follow term (R210, R217 to R219) -/

theorem followUpdate_none {slot : Fin 16} (h : (s.slot slot).toVoice = []) : exec (.followUpdate slot) s = .next s := by
  show execFollowUpdate slot s = _
  unfold execFollowUpdate
  rw [h]

theorem followUpdate_next {slot : Fin 16} {phi : Int} {n : Nat} {rest : List (Int × Nat)} (h : (s.slot slot).toVoice = (phi, n) :: rest) :
    exec (.followUpdate slot) s = .next (
      let u := (s.advanceTo (n + 6)).updSlot slot (fun k => { k with toVoice := rest })
      (u.followers slot).foldl (fun t v => t.follow phi v) u) := by
  show execFollowUpdate slot s = _
  unfold execFollowUpdate
  rw [h]

/-- The first result that takes the follow term to its limit is told (R218). -/
theorem State.follow_reaches {phi : Int} (h : (s.voice v).t + roundShift (phi - (s.voice v).vrec.followRef - (s.voice v).t) (s.voice v).vrec.followK ≠
      clampTo (s.voice v).vrec.followLimit ((s.voice v).t + roundShift (phi - (s.voice v).vrec.followRef - (s.voice v).t) (s.voice v).vrec.followK))
    (ha : (s.voice v).atLimit = false) : s.follow phi v =
    let x := s.voice v
    let t := x.t + roundShift (phi - x.vrec.followRef - x.t) x.vrec.followK
    let t' := clampTo x.vrec.followLimit t
    let u := (s.carryF v).updVoice v (fun x => { x with
      t := t', atLimit := decide (t ≠ t') || (x.atLimit && decide (t'.natAbs = x.vrec.followLimit)) })
    u.fault 0x204 0 .c x.owner v (match x.cur with | some a => detV a.seg a.segGen 0 (u.tbAt a.pos) 0 0 | none => []) := by
  refine (if_pos ⟨h, ha⟩).trans ?_
  dsimp only
  cases (s.voice v).cur <;> rfl

/-- Settles O43: each command in the cases of its voice. -/
theorem voicesPlayFillAndFollow : Obligations.VoicesPlayFillAndFollow := by
  intro s v late i0 k0 ovl slot x rateLc lateFill
  refine ⟨fun a q hi hq => ?_, voiceActionStart_not, fun a ha => ?_, voiceActionEnd_none, ?_, actionLate_not, voiceUnderrun_not,
    fun a ha hf => ?_, ?_, ?_, fun h => ?_, fun h => if_neg h, followUpdate_none, fun phi n rest h => followUpdate_next h, ?_⟩
  · have hstart := voiceActionStart_queued hi hq
    exact ⟨fun h => hstart.trans (next_eq (if_pos h)), fun h hl => hstart.trans (next_eq ((if_neg (Nat.not_le.2 h)).trans (if_pos hl))),
      fun h hl => hstart.trans (next_eq ((if_neg (Nat.not_le.2 h)).trans (if_neg hl)))⟩
  · intro e endLc close done plays
    have hend := voiceActionEnd_eq ha
    refine ⟨fun b q hs hq hb ht => ?_, fun b q hs hq hb ht => ?_, fun h => ?_⟩
    · rw [hend]
      dsimp only
      rw [Voice.contiguous_some (e := a.pos + a.dur) hs hq hb]
      exact next_eq (if_pos ht)
    · rw [hend]
      dsimp only
      rw [Voice.contiguous_some (e := a.pos + a.dur) hs hq hb]
      exact next_eq (if_neg (Bool.eq_false_iff.1 ht))
    · rw [hend]
      dsimp only
      rw [Voice.contiguous_none (e := a.pos + a.dur) h]
  · exact fun a q hq hs hl => actionLate_late hq hs hl
  · intro next
    refine ⟨fun i hm => ?_, fun hm => ?_, fun i k => ?_⟩
    · rw [voiceUnderrun_found ha hf, hm]
    · rw [voiceUnderrun_found ha hf, hm]
    · exact ⟨fun h => (voiceUnderrun_overload ha hf).trans (if_pos h), fun h => (voiceUnderrun_overload ha hf).trans (if_neg h)⟩
  · intro a i n u e m
    exact ⟨rfl, rfl, rfl⟩
  · intro e a m he ha hp u t d
    have hc : s.closeFill v m = u.tellFill v a e (m - e.from_) := State.closeFill_told he ha hp
    exact ⟨fun h => hc.trans (State.tellFill_data h), fun h => hc.trans (State.tellFill_poison h), fun h => hc.trans (State.tellFill_bankNotOn h)⟩
  · exact if_pos h
  · intro phi r goal held u
    refine ⟨fun h => if_neg fun hn => h.elim hn.1 fun ha => ?_, fun h ha => ?_⟩
    · exact absurd ha (Bool.eq_false_iff.1 hn.2)
    · exact (State.follow_reaches h ha).trans rfl

end Sys2Proof.Machine
end

section
/-! O44: fast channels, their links, their load sense and their elements (R235 to R237, R241 to R244, R397 to R400, R417, R418). -/
namespace Sys2Proof.Machine

variable {s : State} {c : Fin 32}

theorem stopRampEnd_none (h : (s.fch c).rampEnd = none) : exec (.stopRampEnd c) s = .next s := by
  show execStopRampEnd c s = _
  unfold execStopRampEnd
  rw [h]

theorem stopRampEnd_some {e : Nat} (h : (s.fch c).rampEnd = some e) : exec (.stopRampEnd c) s =
    .next ((if (s.advanceTo e).firstLevel c = 0 then s.advanceTo e else (s.advanceTo e).advanceTo (e + 1)).muteFch c) := by
  show execStopRampEnd c s = _
  unfold execStopRampEnd
  rw [h]

/-- The window of the channel the sampler is on, whose load sense and correction both look at it (R244, R397, R398). -/
theorem monitorWindowEnd_sampled {ratio : BitVec 16} {content train sats : Bool} (h : s.mon.samplerRun = true ∧ s.mon.samplerCh = c.val) :
    exec (.monitorWindowEnd c ratio content train sats) s = .next (
      let v := loadVerdict ratio.toNat
      let u := if content && s.wholeWindow c then
        (s.updFch c (fun f => { f with ratio := ratio, ratioValid := true, ilimit := f.ilimit && decide (v = 4) })).verdict c v else s
      let why := u.waitCode c train sats
      let ok := why.isNone && decide ((u.aoc c).pending ≠ 2)
      let w := u.updAoc c (fun a => { a with wait := why.getD a.wait, windows := if ok then a.windows + 1 else a.windows })
      let old := Tbl.get (0, 0) w.mon.smp c
      { w with mon := { w.mon with
        samplerCh := (c.val + 1) % 32, smp := Tbl.set (0, 0) w.mon.smp c (sat 65535 (old.1 + 1), sat 65535 (old.2 + b2n ok)) } }) := if_pos h

/-- The conditions of an element swap (R241, R417). -/
theorem swapAllowed_iff {spare out : Fin 54} : (s.bgOn c && !(s.fch c).measuring && (s.fch c).spareList.contains spare.val &&
      !(s.fch c).spareList.contains out.val && !(s.fch c).retiredList.contains out.val) = true ↔
    s.bgOn c = true ∧ (s.fch c).measuring = false ∧ spare.val ∈ (s.fch c).spareList ∧ out.val ∉ (s.fch c).spareList ∧ out.val ∉ (s.fch c).retiredList := by
  simp [and_assoc]

/-- Settles O44: each command in the cases of its channel. -/
theorem fastChannelsStartStopAndAreSupervised : Obligations.FastChannelsStartStopAndAreSupervised := by
  intro s c die ratio trim content train sats plausible trimmable spare out n f
  refine ⟨fun h => if_pos h, fun h => if_neg h, fun e he => stopRampEnd_some he, stopRampEnd_none, ?_, rfl, fun h => if_pos h, fun h => if_neg h,
    fun h1 h2 => ?_, fun h => if_neg h, ?_, fun h => ?_, fun h => if_neg (Bool.eq_false_iff.1 h), rfl, rfl⟩
  · intro cs u
    exact ⟨fun h => next_eq (if_pos (by simpa [cs] using h)), fun h => next_eq (if_neg (by simpa [cs] using h))⟩
  · intro v u why ok w old
    have hu : (if content && s.wholeWindow c then
        (s.updFch c (fun f => { f with ratio := ratio, ratioValid := true, ilimit := f.ilimit && decide (loadVerdict ratio.toNat = 4) })).verdict c
          (loadVerdict ratio.toNat) else s) = u := if_congr (by rw [Bool.and_eq_true]) rfl rfl
    have hok : ((u.waitCode c train sats).isNone && decide ((u.aoc c).pending ≠ 2)) = ok := by
      rw [Bool.eq_iff_iff]
      simp [ok, why]
    rw [monitorWindowEnd_sampled ⟨h1, h2⟩]
    dsimp only
    rw [hu, hok]
  · intro may u swap
    have hmay : _ ↔ may := swapAllowed_iff
    refine ⟨fun v hm hv => (if_pos (hmay.2 hm)).trans (next_eq ?_), fun hm hv => (if_pos (hmay.2 hm)).trans (next_eq ?_),
      fun hm => if_neg fun h => hm (hmay.1 h)⟩
    · rw [hv]
    · rw [hv]
  · intro a e bad pass whole u goes
    refine (if_pos h).trans (next_eq (if_congr ?_ rfl rfl))
    simp [goes, bad, e, f]

end Sys2Proof.Machine
end

section
/-! O45 and O46: ticks, strobes, switches and holds of the precision channels, CLRn, their limits, their link and the monitor's frames
(R239, R240, R251 to R270, R274, R394 to R396). -/
namespace Sys2Proof.Machine

variable {s : State} {n : Fin 16}

/-! ### Ticks, strobes, switches and settle-holds (R251, R253, R257 to R266) -/

theorem strobeTransfer_none {g : Fin 4} (hd : (s.group g).due = none) (hf : (s.group g).deferred = none) : exec (.strobeTransfer g) s = .next s := by
  show execStrobeTransfer g s = _
  unfold execStrobeTransfer
  simp only [hd, hf]

/-- The strobe placed, or else the deferred one, at its boundary. -/
theorem strobeTransfer_at {g : Fin 4} {t : Nat} (h : (s.group g).due = some t ∨ ((s.group g).due = none ∧ (s.group g).deferred = some t)) :
    exec (.strobeTransfer g) s = .next (
      let d := (s.group g).due
      let u := (s.advanceTo t).updGroup g (fun j => if d.isSome then { j with due := none } else { j with deferred := none })
      if u.power.clrnLow then u.ignoreStrobe g else if u.precLinkDown then u.strobe g t else u.transfer g t) := by
  show execStrobeTransfer g s = _
  unfold execStrobeTransfer
  rcases h with hd | ⟨hd, hf⟩
  · simp only [hd]
  · simp only [hd, hf]
    rfl

theorem disableRampEnd_ramping {a b : BitVec 20} {c t : Nat} (hs : (s.pch n).st = .ramping) (hr : (s.pch n).ramp = some (a, b, c, t)) :
    exec (.disableRampEnd n) s = .next (((s.advanceTo t).updPch n (fun p => { p with st := .disabled, force := b, ramp := none })).donePch n) := by
  show execDisableRampEnd n s = _
  unfold execDisableRampEnd
  rw [hs, hr]

theorem disableRampEnd_not (h : (s.pch n).st ≠ .ramping ∨ (s.pch n).ramp = none) : exec (.disableRampEnd n) s = .next s := by
  show execDisableRampEnd n s = _
  unfold execDisableRampEnd
  split
  case h_1 hs hr => exact (h.elim (absurd hs) (fun h => by simp [h] at hr))
  case h_2 => rfl

theorem pchSwitchEnd_ramp {x y : BitVec 20} {z t : Nat} (hr : (s.pch n).ramp = some (x, y, z, t)) : exec (.pchSwitchEnd n) s =
    if (s.pch n).st = .switching ∧ (s.pch n).swStage = 2 ∧ s.precDown = false then
      .next ((((s.advanceTo t).updPch n (fun p => { p with
        st := if p.swEnable then .enabled else .disabled, force := p.clear, ramp := none, swOld := none, ticksOff := false })).endKind
          (fun k => decide (k = .pchSwitch n)) .ok 0).donePch n)
    else .next s := by
  show execPchSwitchEnd n s = _
  unfold execPchSwitchEnd
  simp only [hr]

theorem pchSwitchEnd_not (h : ¬ ((s.pch n).st = .switching ∧ (s.pch n).swStage = 2 ∧ s.precDown = false) ∨ (s.pch n).ramp = none) :
    exec (.pchSwitchEnd n) s = .next s := by
  cases hr : (s.pch n).ramp with
  | none =>
    show execPchSwitchEnd n s = _
    unfold execPchSwitchEnd
    simp only [hr]
  | some r => exact (pchSwitchEnd_ramp hr).trans (if_neg (h.resolve_right (by simp [hr])))

theorem settleHoldTake_due {lv : BitVec 20} {t rel : Nat} (h : (s.pch n).holdDue = some (lv, t, rel)) : exec (.settleHoldTake n) s =
    .next ((s.advanceTo t).updPch n (fun p => { p with holdDue := none, hold := some (lv, t, rel), holds := sat 65535 (p.holds + 1) })) := by
  show execSettleHoldTake n s = _
  unfold execSettleHoldTake
  rw [h]

theorem settleHoldTake_not (h : (s.pch n).holdDue = none) : exec (.settleHoldTake n) s = .next s := by
  show execSettleHoldTake n s = _
  unfold execSettleHoldTake
  rw [h]

theorem settleHoldRelease_held {lv : BitVec 20} {t rel : Nat} (h : (s.pch n).hold = some (lv, t, rel)) : exec (.settleHoldRelease n) s =
    if rel < t + holdMax then .next ((s.advanceTo rel).updPch n (fun p => { p with hold := none })) else .next s := by
  show execSettleHoldRelease n s = _
  unfold execSettleHoldRelease
  rw [h]

theorem holdForced_held {lv : BitVec 20} {t rel : Nat} (h : (s.pch n).hold = some (lv, t, rel)) : exec (.holdForced n) s =
    if t + holdMax ≤ rel then .next ((s.advanceTo (t + holdMax)).updPch n (fun p => { p with hold := none, events := orBits p.events 7 }))
    else .next s := by
  show execHoldForced n s = _
  unfold execHoldForced
  rw [h]

theorem settleHold_not (h : (s.pch n).hold = none) : exec (.settleHoldRelease n) s = .next s ∧ exec (.holdForced n) s = .next s := by
  refine ⟨?_, ?_⟩
  · show execSettleHoldRelease n s = _
    unfold execSettleHoldRelease
    rw [h]
  · show execHoldForced n s = _
    unfold execHoldForced
    rw [h]

/-- The next tick of an enabled channel that is not strobed, on its divider's grid (R257, R258). -/
theorem queueTick_ticks (h1 : (s.pch n).st = .enabled) (h2 : (s.pch n).strobed = false) : exec (.queueTick n) s = .next (
    let p := s.pch n
    let a := s.advanceTo (s.boundaryFrom (match p.tickAt with | some t => max s.lc (t + 1) | none => s.lc) (8 * p.div))
    let u := a.updPch n (fun p => { p with tickAt := some a.lc })
    if p.ticksOff then u
    else if u.precLinkDown then (if p.queue.isEmpty && !p.tookNoLast then u else u.missTick n)
    else match p.queue with
      | [] => if p.tookNoLast then u.missTick n else u
      | (c, l) :: q => (u.endUnder n).updPch n (fun p => { p.apply c u.lc with queue := q, tookNoLast := !l, done := l })) := if_pos ⟨h1, h2⟩

/-- A tick with no code due: the queue is empty and the last code taken was marked the last. -/
theorem silent_iff {p : Pch} : (p.queue.isEmpty && !p.tookNoLast) = true ↔ p.queue = [] ∧ p.tookNoLast = false := by
  simp

/-- Settles O45: each command in the cases of its channel or group. -/
theorem precisionChannelsTickStrobeAndSwitch : Obligations.PrecisionChannelsTickStrobeAndSwitch := by
  intro s n g p k
  refine ⟨fun h1 h2 => ?_, fun h => if_neg h, rfl, strobeTransfer_none, fun t h => strobeTransfer_at h, fun a b c t hs hr => disableRampEnd_ramping hs hr,
    disableRampEnd_not, ?_, fun lv t rel h => settleHoldTake_due h, settleHoldTake_not, fun lv t rel h => ?_, settleHold_not⟩
  · intro a u ticks
    have htick := queueTick_ticks h1 h2
    refine ⟨fun ht => htick.trans (next_eq (if_pos ht)), fun ht hl => ⟨fun hq => htick.trans (next_eq ?_), fun hq => htick.trans (next_eq ?_)⟩,
      fun ht hl => ⟨fun hq => htick.trans (next_eq ?_), fun c l q hq => htick.trans (next_eq ?_)⟩⟩
    · exact (if_neg (Bool.eq_false_iff.1 ht)).trans ((if_pos hl).trans (if_pos (silent_iff.2 hq)))
    · exact (if_neg (Bool.eq_false_iff.1 ht)).trans ((if_pos hl).trans (if_neg fun h => hq (silent_iff.1 h)))
    · refine (if_neg (Bool.eq_false_iff.1 ht)).trans ((if_neg (Bool.eq_false_iff.1 hl)).trans ?_)
      rw [hq] <;> rfl
    · refine (if_neg (Bool.eq_false_iff.1 ht)).trans ((if_neg (Bool.eq_false_iff.1 hl)).trans ?_)
      rw [hq] <;> rfl
  · intro switches a b
    exact ⟨fun h => if_pos h, fun h => if_neg h, fun h => if_pos h, fun h => if_neg h,
      fun x y z t h hr => (pchSwitchEnd_ramp hr).trans (if_pos h), pchSwitchEnd_not⟩
  · exact ⟨fun h => ⟨(settleHoldRelease_held ‹_›).trans (if_pos h), (holdForced_held ‹_›).trans (if_neg (Nat.not_le.2 h))⟩,
      fun h => ⟨(settleHoldRelease_held ‹_›).trans (if_neg (Nat.not_lt.2 h)), (holdForced_held ‹_›).trans (if_pos h)⟩⟩

/-! ### CLRn, the compliance limits, the precision link and the monitor's frames (R239, R240, R267 to R274, R394 to R396) -/

/-- A frame's readings are taken channel by channel, as they are numbered. -/
theorem readAll_eq_foldl : ∀ (rs : List PchReading) (n : Nat) (s : State), readAll n rs s = (rs.zipIdx n).foldl (fun t r => t.readPch r.2 r.1) s
  | [], _, _ => rfl
  | r :: rs, n, s => readAll_eq_foldl rs (n + 1) (s.readPch n r)

/-- A comparator that trips sets its event bit and is told to the channel's owner. -/
theorem State.tripPch_trips {m : Nat} (h : (s.pch m).comparator = false ∧ (s.pch m).st ≠ .cleared ∧ (s.pch m).st ≠ .failed) : s.tripPch m =
    let k := if 3 ≤ (s.pch m).range then 0 else 1
    let u := s.updPch m (fun q => { q with comparator := true, events := orBits q.events k })
    if (s.pch m).owner.isSome then u.fault (0x403 + k) 0 .c (s.pch m).owner m [(s.pch m).reading] else u := by
  have hk : (if currentRange (s.pch m).range then 0 else 1) = if 3 ≤ (s.pch m).range then 0 else 1 := if_congr decide_eq_true_iff rfl rfl
  refine (if_pos h).trans ?_
  dsimp only
  rw [hk]

/-- A strobe that waited for the link transfers, or is deferred, or is ignored. -/
theorem State.resumeStrobe_eq {g : Nat} : s.resumeStrobe g = match (s.group g).linkWait with
    | none => s
    | some x =>
      let u := s.updGroup g (fun k => { k with linkWait := none })
      let e := u.boundaryFrom u.lc 8
      let d := match (u.group g).last with | some l => max e (l + 1600) | none => e
      let w := (u.updGroup g (fun k => { k with late := sat 4095 (k.late + 1) })).strobeLate g (d - x)
      if u.power.clrnLow then u.ignoreStrobe g
      else if d = e then w.transfer g e else w.updGroup g (fun k => { k with deferred := some d }) := by
  unfold State.resumeStrobe
  cases (s.group g).linkWait <;> rfl

/-- A cleared channel whose ramp is over, or ends here, reads MUTED again (R240). -/
theorem State.leaveClear_eq {c : Nat} : s.leaveClear c =
    let u := if (s.fch c).st = .cleared ∧ (s.fch c).rampEnd ≠ none then s.muteFch c else s
    if (u.fch c).st = .cleared then u.updFch c (fun f => { f with st := .muted }) else u := by
  unfold State.leaveClear
  simp only [Option.isSome_iff_ne_none]

/-- Settles O46: each command in the cases of CLRn, the comparator and the link. -/
theorem clearsComplianceAndThePrecisionLink : Obligations.ClearsComplianceAndThePrecisionLink := by
  intro s n rs vs p
  refine ⟨fun h => if_neg (Bool.eq_false_iff.1 h), fun h => ⟨if_pos h, (if_pos h).trans (next_eq ?_)⟩, fun h => if_neg (Bool.eq_false_iff.1 h), rfl,
    fun h1 h2 h3 => ?_, fun h => next_eq (if_neg h), fun h => ⟨if_pos h, (if_pos h).trans ?_⟩, fun h => ⟨if_neg (Bool.eq_false_iff.1 h), ?_⟩, ?_⟩
  · have hleave : (fun (c : Nat) (t : State) => t.leaveClear c) = fun c t =>
        let u := if (t.fch c).st = .cleared ∧ (t.fch c).rampEnd ≠ none then t.muteFch c else t
        if (u.fch c).st = .cleared then u.updFch c (fun f => { f with st := .muted }) else u := by
      funext c t
      exact State.leaveClear_eq
    rw [hleave]
  · intro k u
    have htrip := State.tripPch_trips ⟨h1, h2, h3⟩
    exact ⟨fun ho => next_eq (htrip.trans (if_neg (by simp [show (s.pch n).owner = none from ho]))),
      fun x ho => next_eq (htrip.trans ((if_pos (by simp [show (s.pch n).owner = some x from ho])).trans (by rw [show (s.pch n).owner = some x from ho])))⟩
  · refine next_eq (congrArg _ ?_)
    funext g t
    exact State.resumeStrobe_eq.trans (by cases (t.group g).linkWait <;> rfl)
  · intro a b
    exact ⟨fun hb => (if_neg (Bool.eq_false_iff.1 h)).trans (next_eq (if_pos (List.isEmpty_iff.2 hb))),
      fun hb => (if_neg (Bool.eq_false_iff.1 h)).trans (next_eq (if_neg fun he => hb (List.isEmpty_iff.1 he)))⟩
  · intro u first v
    have hread : readAll 0 rs s = u := readAll_eq_foldl rs 0 s
    refine (next_eq ?_ : execMonitorFrame rs vs s = _)
    rw [hread]
    rfl

end Sys2Proof.Machine
end

section
/-! The bytes that a memory event may change: the words that the ECC, the scrub and the owl rewrite, and nothing else (R322 to R331, R337). -/
namespace Sys2Proof.Machine

variable {s t u : State} {P Q : Nat → Prop}

/-- Address a lies in the 32-byte word of DRAM address d. -/
abbrev inWord (d a : Nat) : Prop := 32 * (d / 32) ≤ a ∧ a < 32 * (d / 32) + 32

/-- From s to t no byte of a bank has changed, and of the DRAM only bytes where P holds. -/
def State.DramOnly (P : Nat → Prop) (s t : State) : Prop :=
  t.bnk.ram = s.bnk.ram ∧ ∀ a, ¬ P a → Memory.read t.sql.dram a = Memory.read s.sql.dram a

theorem State.DramOnly.of_kept (h : t.kept = s.kept) : State.DramOnly P s t :=
  ⟨State.ram_of_kept h, fun _ _ => by rw [State.dram_of_kept h]⟩

theorem State.DramOnly.trans (h : State.DramOnly P s t) (g : State.DramOnly P t u) : State.DramOnly P s u :=
  ⟨g.1.trans h.1, fun a ha => (g.2 a ha).trans (h.2 a ha)⟩

/-- A step that keeps both memories adds nothing to what has changed. -/
theorem State.DramOnly.kept (h : State.DramOnly P s t) (g : u.kept = t.kept) : State.DramOnly P s u := h.trans (.of_kept g)

theorem State.DramOnly.mono (h : State.DramOnly P s t) (g : ∀ a, P a → Q a) : State.DramOnly Q s t :=
  ⟨h.1, fun a ha => h.2 a fun hp => ha (g a hp)⟩

theorem State.DramOnly.foldl {α : Type} {f : State → α → State} {l : List α} (h : ∀ s x, x ∈ l → State.DramOnly P s (f s x)) :
    State.DramOnly P s (l.foldl f s) := by
  induction l generalizing s with
  | nil => exact .of_kept rfl
  | cons x l ih => exact (h s x (by simp)).trans (ih fun s y hy => h s y (by simp [hy]))

theorem Memory.read_writeMany {m : Memory} {k a : Nat} {d : List Byte} : Memory.read (Memory.writeMany m k d) a =
    if k ≤ a ∧ a < k + d.length then d.getD (a - k) 0 else Memory.read m a := Tbl.get_setMany a

theorem Memory.length_readMany {m : Memory} {n : Nat} : ∀ {k : Nat}, (Memory.readMany m k n).length = n := by
  induction n with
  | zero => intros; rfl
  | succ n ih => exact congrArg (· + 1) ih

theorem Memory.getD_readMany {m : Memory} {n : Nat} : ∀ {k i : Nat}, i < n → (Memory.readMany m k n).getD i 0 = Memory.read m (k + i) := by
  induction n with
  | zero => intro k i h; omega
  | succ n ih =>
    intro k i h
    cases i with
    | zero => rfl
    | succ i => exact (ih (k := k + 1) (by omega)).trans (by rw [show k + 1 + i = k + (i + 1) by omega])

/-- A write of 32 bytes at the word of d. -/
theorem State.writeWord_only {d : Nat} {l : List Byte} (hl : l.length = 32) :
    State.DramOnly (inWord d) s (s.updSql (fun q => { q with dram := Memory.writeMany q.dram (32 * (d / 32)) l })) :=
  ⟨rfl, fun _ ha => Memory.read_writeMany.trans (if_neg fun h => ha ⟨h.1, h.2.trans_eq (by rw [hl])⟩)⟩

theorem State.poisonWord_only {d : Nat} : State.DramOnly (inWord d) s (s.poisonWord d) := by
  refine ((State.DramOnly.of_kept (t := s.updMem (fun m => { m with
    poison := insertNat (d / 32) m.poison, poisonedCount := sat 65535 (m.poisonedCount + 1) })) rfl).trans
    (State.writeWord_only (d := d) (l := List.replicate 32 0) List.length_replicate)).kept ?_
  unfold State.poisonWord
  dsimp only
  split
  · split
    · exact State.updCtx_kept
    · rfl
  · rfl

/-- A word copied back from its other copy. -/
theorem State.copyBack_dram {d a : Nat} : Memory.read (s.copyBack d).sql.dram a =
    if inWord d a then Memory.read s.sql.dram (otherCopy (d / 32 * 32) + (a - 32 * (d / 32))) else Memory.read s.sql.dram a := by
  refine (Memory.read_writeMany (k := d / 32 * 32) (d := Memory.readMany s.sql.dram (otherCopy (d / 32 * 32)) 32)).trans ?_
  rw [Memory.length_readMany, Nat.mul_comm (d / 32) 32]
  by_cases h : inWord d a
  · rw [if_pos h, if_pos h, Memory.getD_readMany (by have := h.2; omega)]
  · rw [if_neg h, if_neg h]

theorem State.copyBack_only {d : Nat} : State.DramOnly (inWord d) s (s.copyBack d) :=
  ⟨rfl, fun _ ha => State.copyBack_dram.trans (if_neg ha)⟩

theorem State.scrubBad_only {d : Nat} : State.DramOnly (fun a => inWord d a ∨ inWord (otherCopy d) a) s (s.scrubBad d) := by
  have hone : State.DramOnly (fun a => inWord d a ∨ inWord (otherCopy d) a) s (s.poisonWord d) := State.poisonWord_only.mono fun _ => .inl
  unfold State.scrubBad
  split
  · exact .of_kept rfl
  · split
    · split
      · exact (hone.trans (State.poisonWord_only.mono fun _ => .inr)).kept (State.poisonFound_kept ..)
      · exact .of_kept rfl
    · exact hone.kept (State.poisonFound_kept ..)

theorem State.badWord_only {d : Nat} {r : Asker} {y : W32} {z : BitVec 2} {c : W32} :
    State.DramOnly (fun a => inWord d a ∨ inWord (otherCopy d) a) s (s.badWord d r y z c) := by
  unfold State.badWord
  dsimp only
  split
  · exact .of_kept (by simp)
  · exact (State.DramOnly.of_kept (by simp)).trans State.scrubBad_only

/-- The bytes that a failing word of the unit at DRAM address d may cost, with those of its other copy. -/
def eccMayWrite (r : EccResult) (d a : Nat) : Prop :=
  ∃ w y z c, r = .uncorrectable w y z c ∧ (inWord (d + 32 * w.val) a ∨ inWord (otherCopy (d + 32 * w.val)) a)

theorem State.eccRead_only {d : Nat} {x : Asker} {r : EccResult} : State.DramOnly (eccMayWrite r d) s (s.eccRead d x r) := by
  unfold State.eccRead
  dsimp only
  split
  · exact .of_kept rfl
  · exact .of_kept rfl
  · split
    · exact .of_kept (by simp)
    · exact .of_kept rfl
  · rename_i w y z c
    split
    · exact .of_kept rfl
    · exact State.badWord_only.mono fun a h => ⟨w, y, z, c, rfl, h⟩

theorem State.repairWord_only {d : Nat} : State.DramOnly (inWord d) s (s.repairWord d) := by
  refine State.copyBack_only.kept ?_
  unfold State.repairWord
  simp

/-- The owl's repairs rewrite the words in its list that it can serve. -/
theorem State.owlAhead_only : State.DramOnly (fun a => ∃ d ∈ s.served s.mem.repair, inWord d a) s s.owlAhead :=
  (State.DramOnly.foldl fun _ d hd => State.repairWord_only.mono fun _ h => ⟨d, hd, h⟩).kept (State.writeBacks_kept _)

theorem State.unfreezePc_only {k how : Nat} :
    State.DramOnly (fun a => ∃ c, (s.pc k).capture = some c ∧ inWord c.dpa a) s (s.unfreezePc k how) := by
  unfold State.unfreezePc
  split
  case h_1 t c ht hc =>
    dsimp only
    split
    · exact (State.copyBack_only.mono fun _ h => ⟨c, hc, h⟩).kept (by simp)
    · exact (State.poisonWord_only.mono fun _ h => ⟨c, hc, h⟩).kept (by simp)
  case h_2 => exact .of_kept rfl

end Sys2Proof.Machine
end

section
/-! O47: the squirrel's fetches, their landings, timeouts and promotions, and the write queues (R284 to R297, R307, R308, R313, R321 to R324). -/
namespace Sys2Proof.Machine

variable {s : State}

/-! ### The bytes of a landing (R284 to R287) -/

/-- Address a of the banks lies in the 256 bytes at offset o of bank k. -/
abbrev inUnit (k o a : Nat) : Prop := bankKey k o ≤ a ∧ a < bankKey k o + 256

theorem State.length_readDram {g : Seg} {n : Nat} : ∀ {o : Nat}, (s.readDram g o n).length = n := by
  induction n with
  | zero => intros; rfl
  | succ n ih => exact congrArg (· + 1) ih

/-- Bytes written at a place of a bank, up to a unit of them. -/
theorem State.writeBank_unit {k o a : Nat} {d : List Byte} (hd : d.length ≤ 256) (h : ¬ inUnit k o a) :
    Memory.read (s.writeBank k o d).bnk.ram a = Memory.read s.bnk.ram a :=
  State.writeBank_read.trans (if_neg fun hw => h ⟨hw.1, by omega⟩)

section
variable {b : Bulk} {u a : Nat}

theorem State.moveUnit_ram (hp : ∀ k o p, b.goal = .pin → (s.seg b.seg).pin = some (k, o, p) → ¬ inUnit k (o + 256 * u) a)
    (hj : ∀ c j k o, b.goal = .jump c j → ((s.ctx c).jump j).copy = some (k, o) → ¬ inUnit k (o + 256 * u) a) :
    Memory.read (s.moveUnit b u).bnk.ram a = Memory.read s.bnk.ram a := by
  unfold State.moveUnit
  dsimp only
  split
  case h_1 => rfl
  case h_2 hg =>
    split
    case h_1 k o p hk => exact State.writeBank_unit (by rw [State.length_readDram]; exact Nat.min_le_left ..) (hp k o p hg hk)
    case h_2 => rfl
  case h_3 =>
    unfold State.moveMirror
    split
    · rw [State.writeDram_others (fun s => s.bnk.ram) fun _ _ => rfl]
    · rfl
  case h_4 c j hg =>
    split
    case h_1 k o hk =>
      refine State.writeBank_unit ?_ (hj c j k o hg hk)
      rw [List.length_take, State.length_readDram]
      omega
    case h_2 => rfl

theorem State.moveUnit_dram (hm : b.goal = .mirror → ∀ e m, (s.seg b.seg).newExt = some (e, m) →
      ∀ i < 256, a ∉ ({ s.seg b.seg with ext := e, nExt := m, mirrored := !(s.seg b.seg).mirrored } : Seg).dpasOf (256 * u + i)) :
    Memory.read (s.moveUnit b u).sql.dram a = Memory.read s.sql.dram a := by
  unfold State.moveUnit
  dsimp only
  split
  case h_1 => rfl
  case h_2 => split <;> rfl
  case h_3 hg =>
    unfold State.moveMirror
    split
    case h_1 e m he =>
      refine State.writeDram_read fun i hi => hm hg e m he i ?_
      rw [State.length_readDram] at hi
      omega
    case h_2 => rfl
  case h_4 => split <;> rfl

theorem State.moveUnit_host (h : b.goal = .host) : s.moveUnit b u = s := by
  unfold State.moveUnit
  rw [h]

end

/-- The copy under way that the data of a tag is moved on for. -/
def State.landedCopy (s : State) (t : Tag) : Option Bulk :=
  t.bulk.bind (fun id => if s.bulkLive id = false then none else s.sql.bulk.find? (fun b => decide (b.id = id)))

/-- The data is in its tag's landing slot. -/
def State.slotted (s : State) (n : Nat) (t : Tag) : State :=
  (s.writeBank (slotBank n) (slotOff n) (Memory.readMany s.sql.dram t.dpa 256)).updSql (fun q => { q with
    tags := Tbl.set {} q.tags n { t with landed := true, landedAt := s.lc, bad := (List.range 8).filter (fun w => s.badByte (t.dpa + 32 * w)) }
    landings := q.landings.filter (fun l => decide (s.lc < l + 1600000)) ++ (if t.bulk.isSome then [] else [s.lc])
    urgMax := if t.native then sat 65535 (max q.urgMax (s.lc - t.issued)) else q.urgMax
    portLat := Tbl.set 0 q.portLat t.port (sat (2 ^ 20 - 1) (max (Tbl.get 0 q.portLat t.port) (s.lc - t.issued))) })

theorem State.slotted_frame {n : Nat} {t : Tag} : (s.slotted n t).sql.dram = s.sql.dram ∧
    (s.slotted n t).bnk.ram = Memory.writeMany s.bnk.ram (bankKey (slotBank n) (slotOff n)) (Memory.readMany s.sql.dram t.dpa 256) ∧
    (s.slotted n t).segs = s.segs ∧ (s.slotted n t).ctxs = s.ctxs ∧ (s.slotted n t).jobs = s.jobs ∧ (s.slotted n t).sql.bulk = s.sql.bulk :=
  by
  unfold State.slotted
  generalize 2 ^ 20 - 1 = top
  generalize Memory.readMany s.sql.dram t.dpa 256 = d
  exact ⟨rfl, rfl, rfl, rfl, rfl, rfl⟩

theorem State.slotted_seg {n k : Nat} {t : Tag} : (s.slotted n t).seg k = s.seg k := by
  unfold State.seg
  rw [s.slotted_frame.2.2.1]

theorem State.slotted_ctx {n k : Nat} {t : Tag} : (s.slotted n t).ctx k = s.ctx k := by
  unfold State.ctx
  rw [s.slotted_frame.2.2.2.1]

/-- Data that lands fills its tag's slot, and of a copy under way its place in the copy. -/
theorem State.land_moves {n : Nat} {t : Tag} : (s.land n t).kept = (s.slotted n t).kept ∨
    ∃ b, s.landedCopy t = some b ∧ (s.land n t).kept = ((s.slotted n t).moveUnit b t.unit).kept := by
  have hland : s.land n t = if t.isStep then ((s.slotted n t).landSteps t).freeTagNo n
      else match t.bulk, t.voice with
        | some id, _ => ((s.slotted n t).landBulk id t).freeTagNo n
        | none, some v => ((s.slotted n t).resumeFill v).endCatchup v
        | none, none => (s.slotted n t).each ((s.slotted n t).voicesOf t.ctx) (fun v s => s.resumeFill v) := by
    unfold State.land State.slotted
    rfl
  have hseg : ∀ id b, (s.slotted n t).sql.bulk.find? (fun b => decide (b.id = id)) = some b → (s.slotted n t).bulkLive id = true → t.bulk = some id →
      s.landedCopy t = some b := by
    intro id b hb hl ht
    obtain ⟨-, -, -, -, hjobs, hbulk⟩ := s.slotted_frame (n := n) (t := t)
    rw [State.bulkLive, hjobs] at hl
    rw [hbulk] at hb
    unfold State.landedCopy
    rw [ht]
    exact (if_neg (by simp [State.bulkLive] at hl ⊢; exact hl)).trans hb
  rw [hland]
  split
  · exact .inl (by simp)
  · split
    case h_1 ht =>
      rw [State.freeTagNo_kept]
      unfold State.landBulk
      split
      case h_1 b hb =>
        split
        · rename_i hl
          exact .inr ⟨b, hseg _ b hb hl ht, rfl⟩
        · exact .inl rfl
      case h_2 => exact .inl rfl
    · exact .inl (by simp)
    · exact .inl (State.each_kept fun _ _ => State.resumeFill_kept ..)

section
variable {n a : Nat} {t : Tag}

theorem State.land_ram (hslot : ¬ inUnit (slotBank n) (slotOff n) a) (hm : ∀ b, s.landedCopy t = some b →
      (∀ k o p, b.goal = .pin → (s.seg b.seg).pin = some (k, o, p) → ¬ inUnit k (o + 256 * t.unit) a) ∧
      ∀ c j k o, b.goal = .jump c j → ((s.ctx c).jump j).copy = some (k, o) → ¬ inUnit k (o + 256 * t.unit) a) :
    Memory.read (s.land n t).bnk.ram a = Memory.read s.bnk.ram a := by
  have hfill : Memory.read (s.slotted n t).bnk.ram a = Memory.read s.bnk.ram a := by
    rw [s.slotted_frame.2.1, Memory.read_writeMany, Memory.length_readMany]
    exact if_neg hslot
  rcases State.land_moves (s := s) (n := n) (t := t) with hk | ⟨b, hb, hk⟩
  · rw [State.ram_of_kept hk, hfill]
  · rw [State.ram_of_kept hk, ← hfill]
    refine State.moveUnit_ram (fun k o p hg hp => (hm b hb).1 k o p hg ?_) fun c j k o hg hp => (hm b hb).2 c j k o hg ?_
    · rwa [State.slotted_seg] at hp
    · rwa [State.slotted_ctx] at hp

theorem State.land_ram_host (hm : ∀ b, s.landedCopy t = some b → b.goal = .host) : (s.land n t).bnk.ram =
    Memory.writeMany s.bnk.ram (bankKey (slotBank n) (slotOff n)) (Memory.readMany s.sql.dram t.dpa 256) := by
  rcases State.land_moves (s := s) (n := n) (t := t) with hk | ⟨b, hb, hk⟩
  · rw [State.ram_of_kept hk, s.slotted_frame.2.1]
  · rw [State.ram_of_kept hk, State.moveUnit_host (hm b hb), s.slotted_frame.2.1]

theorem State.land_dram (hm : ∀ b, s.landedCopy t = some b → b.goal = .mirror → ∀ e m, (s.seg b.seg).newExt = some (e, m) →
      ∀ i < 256, a ∉ ({ s.seg b.seg with ext := e, nExt := m, mirrored := !(s.seg b.seg).mirrored } : Seg).dpasOf (256 * t.unit + i)) :
    Memory.read (s.land n t).sql.dram a = Memory.read s.sql.dram a := by
  rw [← (s.slotted_frame (n := n) (t := t)).1]
  rcases State.land_moves (s := s) (n := n) (t := t) with hk | ⟨b, hb, hk⟩
  · rw [State.dram_of_kept hk]
  · rw [State.dram_of_kept hk]
    refine State.moveUnit_dram fun hg e m he => ?_
    rw [State.slotted_seg] at he ⊢
    exact hm b hb hg e m he

end

/-! ### Issue (R289 to R297) -/

theorem State.streamIssue_waits {r : Req} (hr : s.nextStream = some r) (h : s.urgentFirst = true ∨ s.generalTag = none) :
    s.streamIssue = s.updSql (fun q => { q with streamWaits := q.streamWaits + 1 }) := by
  have hnone : (if s.urgentFirst then none else s.generalTag) = none := by
    rcases h with h | h
    · exact if_pos h
    · rw [h, ite_self]
  unfold State.streamIssue
  rw [hr]
  dsimp only
  rw [hnone]

theorem State.streamIssue_issues {r : Req} {g : Nat} (hr : s.nextStream = some r) (hu : s.urgentFirst = false) (hg : s.generalTag = some g) :
    s.streamIssue = (((s.noteLead r.voice).tookUnit r).issueTurn r).issueAs r g false := by
  unfold State.streamIssue
  rw [hr]
  dsimp only
  rw [if_neg (Bool.eq_false_iff.1 hu), hg]

theorem State.streamIssue_none (hr : s.nextStream = none) : s.streamIssue = s := by
  unfold State.streamIssue
  rw [hr]

/-- The first URGENT request that is admitted issues, or waits for a tag. -/
def State.urgentIssued (s : State) : Ans :=
  match s.urgentReqs.find? (fun r => s.admits r) with
  | none => .next s
  | some r => match s.urgentTag with
    | none => .next (s.noteWait r)
    | some g => .next (((s.noteLead r.voice).tookUrgent r).issueAs r g true)

/-- Every request that cannot be admitted is noted as waiting, then the first admitted one issues. -/
theorem urgentFetchIssue_eq : exec .urgentFetchIssue s =
    ((s.swept.urgentReqs.takeWhile (fun r => !s.swept.admits r)).foldl (fun v r => v.noteWait r) s.swept).urgentIssued := rfl

theorem State.urgentIssued_none (h : s.urgentReqs.find? (fun r => s.admits r) = none) : s.urgentIssued = .next s := by
  unfold State.urgentIssued
  rw [h]

theorem State.urgentIssued_noTag {r : Req} (h : s.urgentReqs.find? (fun r => s.admits r) = some r) (hg : s.urgentTag = none) :
    s.urgentIssued = .next (s.noteWait r) := by
  unfold State.urgentIssued
  rw [h, hg]

theorem State.urgentIssued_tag {r : Req} {g : Nat} (h : s.urgentReqs.find? (fun r => s.admits r) = some r) (hg : s.urgentTag = some g) :
    s.urgentIssued = .next (((s.noteLead r.voice).tookUrgent r).issueAs r g true) := by
  unfold State.urgentIssued
  rw [h, hg]

/-! ### Landings and timeouts (R285, R287, R296) -/

section
variable {tag : BitVec 16}

/-- A tag's data is discarded where the tag is free, has landed, or has been given out again. -/
theorem stale_iff {x : Tag} {q : BitVec 4} : (!x.held || x.landed || decide (q ≠ x.seq)) = true ↔ x.held = false ∨ x.landed = true ∨ q ≠ x.seq := by
  simp [or_assoc]

/-- A tag waits for no data where it is free or has landed. -/
theorem settled_iff {x : Tag} : (!x.held || x.landed) = true ↔ x.held = false ∨ x.landed = true := by
  simp

theorem fetchLanded_not {q : BitVec 4} {ecc : EccResult} (h : (Tbl.get {} s.sql.tags tag.toNat).held = false ∨ (Tbl.get {} s.sql.tags tag.toNat).landed = true ∨
      q ≠ (Tbl.get {} s.sql.tags tag.toNat).seq) : exec (.fetchLanded tag q ecc) s = .next s := if_pos (stale_iff.2 h)

theorem fetchLanded_held {q : BitVec 4} {ecc : EccResult} (h1 : (Tbl.get {} s.sql.tags tag.toNat).held = true)
    (h2 : (Tbl.get {} s.sql.tags tag.toNat).landed = false) (h3 : q = (Tbl.get {} s.sql.tags tag.toNat).seq) :
    exec (.fetchLanded tag q ecc) s =
      let t := Tbl.get {} s.sql.tags tag.toNat
      let u := (s.access t.dpa t.asker).eccRead t.dpa t.asker ecc
      let w := u.noteLead t.voice
      .next (if t.abandoned then u.freeTagNo tag.toNat
        else if eccBad ecc && !w.mirroredAt t.dpa then
          (match t.bulk with | some id => (w.freeTagNo tag.toNat).askAgain id t.unit | none => w.freeTagNo tag.toNat)
        else w.land tag.toNat t) := by
  refine (if_neg fun hs => ?_).trans ?_
  · exact (stale_iff.1 hs).elim (fun h => Bool.false_ne_true (h.symm.trans h1)) fun h => h.elim (fun h => Bool.false_ne_true (h2.symm.trans h)) (absurd h3)
  dsimp only
  split
  · rfl
  · split <;> rfl

theorem fetchTimeout_not (h : (Tbl.get {} s.sql.tags tag.toNat).held = false ∨ (Tbl.get {} s.sql.tags tag.toNat).landed = true) :
    exec (.fetchTimeout tag) s = .next s := if_pos (settled_iff.2 h)

/-- A unit of a copy whose retry is given up is asked for again (R330). -/
def State.askedAgain (s : State) (t : Tag) : State := match t.bulk with | some id => if t.retry then s.askAgain id t.unit else s | none => s

theorem State.askedAgain_retry {t : Tag} (h : t.retry = true) : s.askedAgain t = match t.bulk with | some id => s.askAgain id t.unit | none => s := by
  unfold State.askedAgain
  cases t.bulk with
  | none => rfl
  | some id => exact if_pos h

theorem State.askedAgain_first {t : Tag} (h : t.retry = false) : s.askedAgain t = s := by
  unfold State.askedAgain
  cases t.bulk with
  | none => rfl
  | some id => exact if_neg (Bool.eq_false_iff.1 h)

/-- A tag that has waited 50 µs: an abandoned one is free, a first try is put back, a retry is given up (R287). -/
theorem fetchTimeout_over (h1 : (Tbl.get {} s.sql.tags tag.toNat).held = true) (h2 : (Tbl.get {} s.sql.tags tag.toNat).landed = false) :
    exec (.fetchTimeout tag) s =
      let t := Tbl.get {} s.sql.tags tag.toNat
      let u := (s.advanceTo (t.issued + 80000)).freeTagNo tag.toNat
      let v := u.updSql (fun q => { q with timeouts := sat 65535 (q.timeouts + 1) })
      let k := pcOf (t.dpa / 256)
      let det := detM t.dpa (if t.isStep then 0 else t.seg + 65536 * t.segGen) t.first 0 t.voice 0 0
      let w := v.askedAgain t
      if t.abandoned then .next u
      else if t.retry then .next ((w.fault 0x602 2 .c (some t.ctx) k det).recoverPc k)
      else .next ((w.updSql (fun q => { q with urgent := q.urgent ++ [{
          port := 0, ctx := t.ctx, gen := t.gen, voice := t.voice, seg := t.seg, segGen := t.segGen, dpa := t.dpa, deadline := t.deadline,
          first := t.first, unit := t.unit, pos := t.pos, bulk := t.bulk, retry := true }] })).fault 0x601 1 .c (some t.ctx) k det) :=
  if_neg fun hs => (settled_iff.1 hs).elim (fun h => Bool.false_ne_true (h.symm.trans h1)) fun h => Bool.false_ne_true (h2.symm.trans h)

end

/-! ### Promotions and queued writes (R294, R307, R308, R324) -/

theorem promoteWrite_none {k a : Nat} (h : (s.pc k).wq.find? (fun x => decide (x.unit = a) && !x.promoted) = none) : promoteWrite k a s = s := by
  unfold promoteWrite
  rw [h]

theorem promoteWrite_some {k a : Nat} {x : QWrite} (h : (s.pc k).wq.find? (fun x => decide (x.unit = a) && !x.promoted) = some x) : promoteWrite k a s =
    let u := s.advanceTo (x.since + if x.port = 6 then 320000 else 32000)
    (u.updPc k (fun p => { p with wq := p.wq.map (fun y => if y.unit = a then { y with promoted := true } else y) })).updSql (fun q => { q with
      bgToBulk := if x.port = 6 then q.bgToBulk + 1 else q.bgToBulk, bulkToStream := if x.port = 6 then q.bulkToStream else q.bulkToStream + 1 }) := by
  unfold promoteWrite
  rw [h]

/-- The address mapping of R306 is inverted by `pcOf` and `unitOf`. -/
theorem pcOf_dpaOf {k a : Nat} (hk : k < 64) : pcOf (dpaOf k a / 256) = k := by
  obtain ⟨r, hr⟩ : ∃ r, r = (k % 32 + 32 - a % 32) % 32 := ⟨_, rfl⟩
  have hlt : r < 32 := hr ▸ Nat.mod_lt _ (by decide)
  have hback : (r + a % 32) % 32 = k % 32 := by omega
  have hdiv : dpaOf k a / 256 = 64 * a + 2 * r + k / 32 := by
    rw [dpaOf, ← hr]
    exact Nat.mul_div_cancel_left _ (by decide)
  clear hr
  have hpair : (64 * a + 2 * r + k / 32) / 2 = 32 * a + r := by omega
  have hhalf : (64 * a + 2 * r + k / 32) / 2 % 32 = r := by rw [hpair]; omega
  have hunit : (64 * a + 2 * r + k / 32) / 64 = a := by omega
  have hodd : (64 * a + 2 * r + k / 32) % 2 = k / 32 := by omega
  rw [pcOf, hdiv, hhalf, hunit, hodd, hback]
  omega

theorem unitOf_dpaOf {k a : Nat} (hk : k < 64) (ha : a < 2 ^ 21) : unitOf (dpaOf k a / 256) = a := by
  unfold unitOf dpaOf
  omega

/-- A read is promoted that is held, still to land, wanted, not promoted yet and not slowed. -/
theorem unpromotable_iff : ∀ held landed abandoned promoted slowed : Bool, (!held || landed || abandoned || promoted || slowed) = true ↔
    ¬ (held = true ∧ landed = false ∧ abandoned = false ∧ promoted = false ∧ slowed = false) := by decide

/-- Settles O47: the issues and promotions in their cases; of a landing, what the ECC and the copy under way may write. -/
theorem fetchesAreIssuedLandedTimedOutAndPromoted : Obligations.FetchesAreIssuedLandedTimedOutAndPromoted := by
  intro s tag q ecc pc unit port n t z
  refine ⟨fun h => next_eq (State.streamIssue_none h), fun r hr => ⟨fun h => next_eq (State.streamIssue_waits hr h),
      fun g hu hg => next_eq (State.streamIssue_issues hr hu hg)⟩, ?_, fetchLanded_not, fun h1 h2 h3 => ?_, fetchTimeout_not, fun h1 h2 => ?_, ?_,
    fun h => next_eq (promoteWrite_none h), fun x h => next_eq (promoteWrite_some h), fun h => if_pos h, fun h => ?_⟩
  · intro u
    have hissue : exec .urgentFetchIssue s = u.urgentIssued := urgentFetchIssue_eq
    exact ⟨fun h => hissue.trans (State.urgentIssued_none h), fun r hr => ⟨fun hg => hissue.trans (State.urgentIssued_noTag hr hg),
      fun g hg => hissue.trans (State.urgentIssued_tag hr hg)⟩⟩
  · intro u w fails moved place
    have hland := fetchLanded_held (ecc := ecc) h1 h2 h3
    have hecc : State.DramOnly (eccMayWrite ecc t.dpa) s u := (State.DramOnly.of_kept (State.access_kept ..)).trans State.eccRead_only
    have hfails : (eccBad ecc && !w.mirroredAt t.dpa) = true ↔ fails := by simp [fails]
    obtain ⟨x, hxe⟩ : ∃ x, x = (if t.abandoned then u.freeTagNo n
        else if fails then (match t.bulk with | some id => (w.freeTagNo n).askAgain id t.unit | none => w.freeTagNo n)
        else w.land n t) := ⟨_, rfl⟩
    have hx : x.kept = u.kept ∨ (t.abandoned = false ∧ ¬ fails ∧ x = w.land n t) := by
      rw [hxe]
      cases ha : t.abandoned
      · by_cases hf : fails
        · refine .inl ?_
          rw [if_neg (by simp), if_pos hf]
          cases t.bulk <;> simp [w]
        · exact .inr ⟨rfl, hf, (if_neg (by simp)).trans (if_neg hf)⟩
      · exact .inl (by simp)
    have hmoved : t.abandoned = false → ¬ fails → moved = w.landedCopy t := by
      intro ha hf
      refine congrArg t.bulk.bind (funext fun id => if_congr ?_ rfl rfl)
      simp [ha, hf]
    have hw : w.kept = u.kept := State.noteLead_kept ..
    refine ⟨x, hland.trans (next_eq ((if_congr Iff.rfl rfl (if_congr hfails rfl rfl)).trans hxe.symm)), hxe, fun a hslot hmv => ?_,
      fun ha hf hhost => ?_, fun a herr hmv => ?_⟩
    · rw [← hecc.1]
      rcases hx with hk | ⟨ha, hf, rfl⟩
      · rw [State.ram_of_kept hk]
      · rw [← State.ram_of_kept hw]
        exact State.land_ram hslot fun b hb => hmv b ((hmoved ha hf).trans hb)
    · rw [hxe, if_neg (Bool.eq_false_iff.1 ha), if_neg hf, State.land_ram_host fun b hb => hhost b ((hmoved ha hf).trans hb), State.ram_of_kept hw,
        State.dram_of_kept hw, hecc.1]
    · refine Eq.trans ?_ (hecc.2 a fun ⟨e, y, z, c, he, hin⟩ => ?_)
      · rcases hx with hk | ⟨ha, hf, rfl⟩
        · rw [State.dram_of_kept hk]
        · rw [← State.dram_of_kept hw]
          exact State.land_dram fun b hb => hmv b ((hmoved ha hf).trans hb)
      · exact hin.elim (herr e y z c he).1 (herr e y z c he).2
  · intro u again v k det
    have hover := fetchTimeout_over h1 h2
    refine ⟨fun ha => hover.trans (if_pos ha), fun ha hr => hover.trans ((if_neg (Bool.eq_false_iff.1 ha)).trans ((if_pos hr).trans ?_)),
      fun ha hr => hover.trans ((if_neg (Bool.eq_false_iff.1 ha)).trans ((if_neg (Bool.eq_false_iff.1 hr)).trans ?_))⟩
    · have hask : v.askedAgain t = again v := State.askedAgain_retry hr
      exact next_eq (congrArg (fun x : State => (x.fault 0x602 2 .c (some t.ctx) k det).recoverPc k) hask)
    · refine next_eq ?_
      rw [State.askedAgain_first hr]
  · intro ready
    have hready : (!t.held || t.landed || t.abandoned || t.promoted ||
        s.slowed { dpa := t.dpa, port := t.port, ctx := t.ctx, gen := t.gen, voice := t.voice, seg := t.seg, segGen := t.segGen }) = true ↔ ¬ ready := by
      exact unpromotable_iff ..
    exact ⟨fun h => next_eq (if_pos (hready.2 h)), fun h => next_eq (if_neg fun hn => hready.1 hn h)⟩
  · intro d ks
    have henq : exec (.writeEnqueue pc unit port) s = .next (s.enqueueUnit port (dpaOf pc unit.toNat)) := if_neg (Nat.not_lt.2 h)
    refine henq.trans (next_eq ?_)
    unfold State.enqueueUnit
    rw [pcOf_dpaOf pc.isLt, unitOf_dpaOf pc.isLt unit.isLt]
    simp only [Bool.and_eq_true]
    rfl

end Sys2Proof.Machine
end

section
/-! O48 and O49: refresh, row counters, the scrub, repairs and delay tracking (R309 to R320, R322 to R328). -/
namespace Sys2Proof.Machine

variable {s : State} {pc : Fin 64}

/-! ### Refresh and row counters (R309 to R313, R317 to R320) -/

theorem neighbourRefresh_none {b : Fin 32} {row : BitVec 14}
    (h : ((s.pc pc).dbank b).rows.find? (fun e => decide (e.row = row.toNat) && decide (4096 ≤ e.count)) = none) : exec (.neighbourRefresh pc b row) s = .next s := by
  show execNeighbourRefresh pc b row s = _
  unfold execNeighbourRefresh
  rw [h]

/-- A row that has reached its count: its neighbours are refreshed, and its requester is throttled unless it is already. -/
theorem neighbourRefresh_due {b : Fin 32} {row : BitVec 14} {e : RowCtr}
    (h : ((s.pc pc).dbank b).rows.find? (fun e => decide (e.row = row.toNat) && decide (4096 ≤ e.count)) = some e) : exec (.neighbourRefresh pc b row) s =
      let u := (s.updDBank pc b (fun k => { k.refresh with
        rows := k.rows.map (fun x => if x.row = e.row then { x with count := 0 } else x), postponed := min 8 (k.postponed + 1) })).updPc pc
          (fun p => { p with neighbour := sat 65535 (p.neighbour + 1) })
      let v := u.updPc pc (fun p => { p with
        throttles := p.throttles ++ [{ req := e.req, bank := b, row := row.toNat, last := u.lc }], throttleCount := sat 255 (p.throttleCount + 1) })
      let seg := match e.req.seg with | some k => segValue v k | none => 0
      if (u.pc pc).throttles.any (fun t => decide (t.req = e.req) && decide (t.bank = b.val) && decide (t.row = row.toNat)) then .next u
      else .next (if e.req.port ≤ 4 then v.fault 0x603 0 .c (some e.req.ctx) pc
        [0, pack [(3, b.val), (8, row.toNat)], word seg, 0, 0, pack [(0, o2n e.req.voice), (8, b2n e.req.voice.isSome)]] else v) := by
  show execNeighbourRefresh pc b row s = _
  unfold execNeighbourRefresh
  rw [h] <;> rfl

/-- Settles O48: each command is its definition, in the cases of the bank and the row. -/
theorem refreshRowCountersAndStackTemperatures : Obligations.RefreshRowCountersAndStackTemperatures := by
  intro s pc b row t0 t1 k
  refine ⟨rfl, fun h => if_pos h, fun h => if_neg (Bool.eq_false_iff.1 h), fun h => if_neg ?_, fun x h => if_pos ?_, rfl, rfl, neighbourRefresh_none, fun e he => ?_⟩
  · simp [show ((s.pc pc).dbank b).open_ = none from h]
  · simp [show ((s.pc pc).dbank b).open_ = some x from h]
  · have hdue := neighbourRefresh_due he
    exact ⟨fun hh => hdue.trans (if_pos hh), fun hh hp => hdue.trans ((if_neg (Bool.eq_false_iff.1 hh)).trans (next_eq (if_neg (Nat.not_le.2 hp)))),
      fun hh hp => hdue.trans ((if_neg (Bool.eq_false_iff.1 hh)).trans (next_eq (if_pos hp)))⟩

/-! ### The scrub, the owl's repairs and delay tracking (R315, R322 to R328) -/

/-- Extents freed go before the scrub: their bytes, and no others, are zeroed. -/
theorem State.returnExtents_only {e n : Nat} :
    State.DramOnly (fun a => 16384 * e ≤ a ∧ a < 16384 * e + 16384 * n) s (s.returnExtents e n) := by
  obtain ⟨hram, -, hdram⟩ := State.returnExtents_frame (s := s) (e := e) (n := n)
  refine ⟨hram, fun a ha => ?_⟩
  rw [hdram, Memory.read_zero]
  exact if_neg ha

theorem State.zeroFirst_only : State.DramOnly (fun a => s.scrubBehind = false ∧ ∃ x ∈ s.sql.quarantine, 16384 * x.1 ≤ a ∧ a < 16384 * x.1 + 16384 * x.2)
    s s.zeroFirst := by
  unfold State.zeroFirst
  split
  · exact .of_kept rfl
  · rename_i hb
    exact .foldl fun t x hx => State.returnExtents_only.mono fun a ha => ⟨by simpa using hb, x, List.mem_of_mem_filter hx, ha⟩

/-- The unit a scrub reads, after the scrub's position has moved on. -/
def State.scrubNext (s : State) : State :=
  s.updMem (fun m => { m with
    scrubUnit := (s.mem.scrubUnit + 1) % 2 ^ 27, passes := if s.mem.scrubUnit + 1 = 2 ^ 27 then sat 65535 (m.passes + 1) else m.passes })

/-- What the scrub does about what its read found. -/
def State.scrubFound (s : State) (d : Nat) (r : EccResult) : State :=
  match r with
  | .uncorrectable w _ _ _ => s.scrubBad (d + 32 * w)
  | _ => s.eccRead d {} r

/-- What a scrub's read does past the move of its position, from z to t. -/
theorem scrubServe_eq {z t : State} {r : EccResult} (hpc : ∀ k, t.pc k = z.pc k) :
    (let g := z.mem.scrubUnit
      let d := 256 * g
      if (t.pc (pcOf g)).phase ≠ .service ∨ (t.pc (pcOf g)).frozen.isSome then .next t
      else
        let s := t.access d { unit := some (d / 256) }
        match r with
        | .uncorrectable w _ _ _ => .next (s.scrubBad (d + 32 * w))
        | _ => .next (s.eccRead d {} r) : Ans) =
      let g := z.mem.scrubUnit
      if (z.pc (pcOf g)).phase ≠ .service ∨ (z.pc (pcOf g)).frozen ≠ none then .next t
      else .next ((t.access (256 * g) { unit := some g }).scrubFound (256 * g) r) := by
  have hunit : 256 * z.mem.scrubUnit / 256 = z.mem.scrubUnit := Nat.mul_div_cancel_left _ (by decide)
  dsimp only
  rw [hunit, hpc]
  refine if_congr (or_congr Iff.rfl Option.isSome_iff_ne_none) rfl ?_
  cases r <;> rfl

theorem State.scrubNext_pc {k : Nat} : s.scrubNext.pc k = s.pc k := rfl

theorem scrubRead_eq {r : EccResult} : exec (.scrubRead r) s =
    let z := s.owlAhead.zeroFirst
    let g := z.mem.scrubUnit
    if (z.pc (pcOf g)).phase ≠ .service ∨ (z.pc (pcOf g)).frozen ≠ none then .next z.scrubNext
    else .next ((z.scrubNext.access (256 * g) { unit := some g }).scrubFound (256 * g) r) :=
  (scrubServe_eq fun _ => State.scrubNext_pc : execScrubRead r s = _)

theorem State.scrubFound_only {d : Nat} {r : EccResult} : State.DramOnly (eccMayWrite r d) s (s.scrubFound d r) := by
  cases r with
  | uncorrectable w y z c => exact State.scrubBad_only.mono fun a h => ⟨w, y, z, c, rfl, h⟩
  | clean => exact State.eccRead_only (x := {})
  | onDie => exact State.eccRead_only (x := {})
  | corrected => exact State.eccRead_only (x := {})

/-- A repair of a word in the list, at its word's address, rewrites its 32 bytes from the other copy. -/
theorem State.repairWord_dram {d i : Nat} (hd : 32 * (d / 32) = d) (hi : i < 32) :
    Memory.read (s.repairWord d).sql.dram (d + i) = Memory.read s.sql.dram (otherCopy d + i) := by
  have hk : (s.repairWord d).kept = (s.copyBack d).kept := by
    unfold State.repairWord
    simp
  rw [State.dram_of_kept hk, State.copyBack_dram, if_pos ⟨by omega, by omega⟩, Nat.mul_comm (d / 32), hd, Nat.add_sub_cancel_left]

section
variable {z u : State} {g : Nat} {p : Pc} {ecc : EccResult} (hz : s.owlAhead.zeroFirst = z) (hg : z.mem.scrubUnit = g) (hu : z.scrubNext = u)
  (hp : z.pc (pcOf g) = p)
include hz hg hu hp

/-- A pseudo-channel out of service or frozen is passed over. -/
theorem scrubRead_passes (h : p.phase ≠ .service ∨ p.frozen ≠ none) : exec (.scrubRead ecc) s = .next u := by
  rw [scrubRead_eq]
  subst hz hg hu hp
  exact if_pos h

/-- The unit is read, and only a failing word of it may be written. -/
theorem scrubRead_reads (h1 : p.phase = .service) (h2 : p.frozen = none) : ∃ x, exec (.scrubRead ecc) s = .next x ∧
    x = (u.access (256 * g) { unit := some g }).scrubFound (256 * g) ecc ∧ State.DramOnly (eccMayWrite ecc (256 * g)) z x := by
  refine ⟨_, ?_, rfl, ?_⟩
  · rw [scrubRead_eq]
    subst hz hg hu hp
    exact if_neg (not_or.2 ⟨not_not.2 h1, not_not.2 h2⟩)
  · refine (State.DramOnly.of_kept ((State.access_kept u _ _).trans ?_)).trans State.scrubFound_only
    rw [← hu]
    exact State.updMem_kept

end

theorem State.scrubFound_bad {d : Nat} {w : Fin 8} {y c : W32} {z : BitVec 2} : s.scrubFound d (.uncorrectable w y z c) = s.scrubBad (d + 32 * w) := rfl

theorem State.scrubFound_good {d : Nat} {r : EccResult} (h : ∀ w y z c, r ≠ .uncorrectable w y z c) : s.scrubFound d r = s.eccRead d {} r := by
  cases r with
  | uncorrectable w y z c => exact absurd rfl (h w y z c)
  | clean => rfl
  | onDie => rfl
  | corrected => rfl

/-- Settles O49: what the owl does first, then what the read found, touch their own words only. -/
theorem scrubsRepairsAndDelayTracking : Obligations.ScrubsRepairsAndDelayTracking := by
  intro s ecc dpa pc lane up delay margin
  refine ⟨?_, ?_, ?_⟩
  · intro o z g u p v
    have hz : State.DramOnly _ o z := State.zeroFirst_only
    refine ⟨fun h => if_pos h, fun h => if_neg (Bool.eq_false_iff.1 h), fun a => ?_, fun a hr hq => ?_, scrubRead_passes (z := z) (u := u) (g := g) (p := p) rfl rfl rfl rfl, fun h1 h2 => ?_⟩
    · rw [hz.1, State.owlAhead_ram]
    · refine (hz.2 a fun ⟨hb, x, hx, ha⟩ => ?_).trans (State.owlAhead_only.2 a fun ⟨d, hd, ha⟩ => ?_)
      · exact (hq.resolve_left (Bool.eq_false_iff.1 hb)) x hx ha
      · exact hr d hd (by rwa [Nat.mul_comm (d / 32) 32])
    · obtain ⟨x, hx, hxe, hram, hdram⟩ := scrubRead_reads (ecc := ecc) (s := s) (z := z) (u := u) (g := g) (p := p) rfl rfl rfl rfl h1 h2
      refine ⟨x, hx, fun w y z c he => hxe.trans ?_, fun hne => hxe.trans (State.scrubFound_good hne), fun a => by rw [hram], fun a he => hdram a ?_⟩
      · rw [he, State.scrubFound_bad]
      · rintro ⟨w, y, z, c, hc, hin⟩
        exact hin.elim (he w y z c hc).1 (he w y z c hc).2
  · intro d
    have hd : 32 * (d / 32) = d := by omega
    have hin : ∀ a, inWord d a ↔ d ≤ a ∧ a < d + 32 := fun a => by rw [inWord, hd]
    refine ⟨fun h => if_neg (by simpa using h), fun h => ⟨s.repairWord d, if_pos (by simpa using h), rfl, fun a => ?_, fun i hi => State.repairWord_dram hd hi,
      fun a ha => State.repairWord_only.2 a fun h => ha ((hin a).1 h)⟩⟩
    rw [State.repairWord_only.1]
  · intro p tracks new
    have htracks : (!s.memfUp || decide (p.phase ≠ .service)) = true ↔ ¬ tracks := by
      simp [tracks, State.memfUp, imp_iff_not_or]
    exact ⟨fun h => ⟨if_pos (htracks.2 h), if_pos (htracks.2 h)⟩, fun h => ⟨if_neg fun hn => htracks.1 hn h, if_neg fun hn => htracks.1 hn h⟩⟩

end Sys2Proof.Machine
end

section
/-! O50: freezes, row retirement, controller recovery, retrains and maintenance windows (R314 to R316, R325, R329 to R337). -/
namespace Sys2Proof.Machine

variable {s : State} {pc : Fin 64} {P : Nat → Prop}

/-! ### The bytes of an unfreeze (R331 to R335) -/

/-- The word captured on a pseudo-channel. -/
def State.inCapture (s : State) (k a : Nat) : Prop := ∃ c, (s.pc k).capture = some c ∧ inWord c.dpa a

theorem State.startRetire_capture {k b row : Nat} : ((s.startRetire k b row).pc k).capture = (s.pc k).capture := by
  unfold State.startRetire
  split
  · rw [State.updPc_pc, if_pos rfl]
  · exact State.fault_faultOnly.read (fun s => (s.pc k).capture)

theorem State.retireCaptured_only {k how : Nat} : State.DramOnly (s.inCapture k) s (s.retireCaptured k how) := by
  unfold State.retireCaptured
  split
  case h_1 c hc =>
    dsimp only
    split
    · split
      · exact .of_kept (by simp)
      · refine (State.DramOnly.of_kept (State.startRetire_kept ..)).trans (State.unfreezePc_only.mono fun a ha => ?_)
        rwa [State.startRetire_capture] at ha
    · split
      · exact .of_kept (by simp)
      · exact State.unfreezePc_only
  case h_2 => exact State.unfreezePc_only

theorem freezeTimeout_not (h : (s.pc pc).frozen = none ∨ (s.pc pc).unfreeze ≠ none) : exec (.freezeTimeout pc) s = .next s := by
  show execFreezeTimeout pc s = _
  unfold execFreezeTimeout
  split
  · rename_i t ht
    exact next_eq (if_pos (Option.isSome_iff_ne_none.2 (h.resolve_left (by simp [ht]))))
  · rfl

theorem freezeTimeout_over {t : Nat} (ht : (s.pc pc).frozen = some t) (hu : (s.pc pc).unfreeze = none) :
    exec (.freezeTimeout pc) s = .next ((s.advanceTo (t + 16000000)).retireCaptured pc 2) := by
  show execFreezeTimeout pc s = _
  unfold execFreezeTimeout
  rw [ht]
  exact next_eq (if_neg (by simp [hu]))

/-! ### Retrains and recovery (R314, R336) -/

theorem pcRetrainEnd_train {ok : Bool} (h : (s.pc pc).phase = .train) : exec (.pcRetrainEnd pc ok) s =
    .next (if ok then (((s.countRetrain pc).retrained pc).updPc pc (fun p => { p with phase := .service })).backInService pc
      else (s.countRetrain pc).failPc pc) := by
  show execPcRetrainEnd pc ok s = _
  unfold execPcRetrainEnd
  rw [h]

theorem pcRetrainEnd_start {ok : Bool} (h : (s.pc pc).phase = .start) : exec (.pcRetrainEnd pc ok) s =
    if s.fw.boot < 1 || s.sys.recovery then .next s
    else
      let v := if ok then (s.retrained pc).updPc pc (fun p => { p with phase := .test }) else s.failPc pc
      .next (v.updMem (fun m => { m with trained := decide (countPcs v (fun p => decide (p.phase = .start)) = 0) })) := by
  show execPcRetrainEnd pc ok s = _
  unfold execPcRetrainEnd
  rw [h]

theorem pcRetrainEnd_not {ok : Bool} (h1 : (s.pc pc).phase ≠ .train) (h2 : (s.pc pc).phase ≠ .start) : exec (.pcRetrainEnd pc ok) s = .next s := by
  show execPcRetrainEnd pc ok s = _
  unfold execPcRetrainEnd
  split
  · contradiction
  · contradiction
  · rfl

/-- The end of one of the two steps of a recovery. -/
theorem pcRecoveryEnd_in {step2 ok : Bool} (h : (s.pc pc).phase = .recovery ∧ s.sys.recovery = false) : exec (.pcRecoveryEnd pc step2 ok) s =
    let u := if step2 then s.countRetrain pc else s
    if ok then
      let v := if step2 then u.retrained pc else u
      .next (((v.updPc pc (fun p => { p with phase := .service })).fault 0x60B 2 .p none pc []).backInService pc)
    else if step2 then .next (u.failPc pc) else .next u := if_pos h

/-! ### The end of a row's copy (R334, R335) -/

theorem rowRetireCopyEnd_none (h : (s.pc pc).copying = none) : exec (.rowRetireCopyEnd pc) s = .next s := by
  show execRowRetireCopyEnd pc s = _
  unfold execRowRetireCopyEnd
  rw [h]

/-- An unfreeze that waited for the copy is carried out. -/
def State.unfreezeDue (s : State) (k : Nat) : State := match (s.pc k).unfreeze with | some how => s.unfreezePc k how | none => s

theorem State.unfreezeDue_only {k : Nat} : State.DramOnly (s.inCapture k) s (s.unfreezeDue k) := by
  unfold State.unfreezeDue
  split
  · exact State.unfreezePc_only
  · exact .of_kept rfl

/-- The waiting MEM_DIAGs of a pseudo-channel complete. -/
def State.endDiags (s : State) (k : Nat) : State :=
  (s.jobs.filter (fun j => decide (j.kind = .memRetire k))).foldl (fun y j => y.endDiag j.run 1) (s.dropJobs (fun j => decide (j.kind = .memRetire k)))

theorem State.endDiags_kept {k : Nat} : (s.endDiags k).kept = s.kept :=
  (State.foldl_kept fun _ _ => State.endDiag_kept ..).trans State.dropJobs_kept

/-- The row is redirected, counted and recorded as retired. -/
def State.rowRetired (s : State) (k b row : Nat) : State :=
  let u := (s.updDBank k b (fun k => k.retire row)).updPc k (fun p => { p with
    copying := none, retired := p.retired + 1, spares := p.spares - 1
    capture := p.capture.map (fun c => if c.bank = b ∧ c.row = row then { c with retired := true } else c) })
  ({ u with log := { u.log with mramRows := u.log.mramRows ++ [(k, b, row)] } } : State).fault 0x609 3 .p none k [0, pack [(3, b), (8, row)]]

theorem rowRetireCopyEnd_some {b row : Nat} (h : (s.pc pc).copying = some (b, row)) :
    exec (.rowRetireCopyEnd pc) s = .next (((s.rowRetired pc b row).unfreezeDue pc).endDiags pc) := by
  show execRowRetireCopyEnd pc s = _
  unfold execRowRetireCopyEnd
  rw [h] <;> rfl

/-- The end of a row's copy notes the captured word's row as retired, and keeps the word. -/
theorem State.rowRetired_capture {k b row a : Nat} (h : (s.rowRetired k b row).inCapture k a) : s.inCapture k a := by
  obtain ⟨c, hc, ha⟩ := h
  rw [show ((s.rowRetired k b row).pc k).capture = _ from State.fault_faultOnly.read (fun s => (s.pc k).capture)] at hc
  rw [show ∀ (u : State) l, ({ u with log := l } : State).pc k = u.pc k from fun _ _ => rfl, State.updPc_pc, if_pos rfl, Option.map_eq_some_iff] at hc
  obtain ⟨d, hd, rfl⟩ := hc
  refine ⟨d, ?_, ?_⟩
  · rw [← hd, State.updDBank, State.updPc_pc, if_pos rfl]
  · split at ha <;> exact ha

theorem State.rowRetired_kept {k b row : Nat} : (s.rowRetired k b row).kept = s.kept := by
  unfold State.rowRetired
  simp

/-- Settles O50: the commands in the cases of the pseudo-channel's state; an unfreeze rewrites the captured word alone. -/
theorem freezesRetirementRecoveryAndMaintenance : Obligations.FreezesRetirementRecoveryAndMaintenance := by
  intro s pc step2 ok p
  refine ⟨fun h => if_neg h, fun h => ?_, freezeTimeout_not, fun t ht hu => ?_, rowRetireCopyEnd_none, fun b row hc => ?_, rfl, ?_, ?_⟩
  · refine (if_pos h).trans (next_eq (congrArg (fun u : State => u.updMem (fun m => { m with maint := 2, selected := [] })) (if_congr ?_ rfl rfl)))
    simp
  · obtain ⟨hram, hdram⟩ := State.retireCaptured_only (s := s.advanceTo (t + 16000000)) (k := pc) (how := 2)
    have hkept := State.advanceTo_kept s (t + 16000000)
    have hpc : (s.advanceTo (t + 16000000)).pc pc = p := State.advanceTo_read (fun s => s.pc pc) (by intros; rfl)
    refine ⟨_, freezeTimeout_over ht hu, rfl, fun a => by rw [hram, State.ram_of_kept hkept], fun a ha => ?_⟩
    rw [hdram a fun ⟨c, hc, hin⟩ => ha c (hpc ▸ hc) hin, State.dram_of_kept hkept]
  · intro t u v w js
    have ht : s.updDBank pc b (fun k => k.retire row) = t := rfl
    have hv : s.rowRetired pc b row = v := by
      unfold State.rowRetired
      rw [ht]
    have hw : v.unfreezeDue pc = w := rfl
    have hx : w.endDiags pc = _ := rfl
    have honly : State.DramOnly (s.inCapture pc) s (w.endDiags pc) := by
      rw [← hw, ← hv]
      exact ((State.DramOnly.of_kept State.rowRetired_kept).trans (State.unfreezeDue_only.mono fun _ => State.rowRetired_capture)).kept State.endDiags_kept
    refine ⟨w.endDiags pc, ?_, hx, fun a => by rw [honly.1], fun a ha => honly.2 a fun ⟨c, hc, hin⟩ => ha c hc hin⟩
    rw [rowRetireCopyEnd_some hc, hv, hw]
  · intro inRec u back
    refine ⟨fun h => if_neg h, fun h => ⟨?_, ?_, ?_, ?_⟩⟩
    · exact pcRecoveryEnd_in h
    · exact pcRecoveryEnd_in h
    · exact pcRecoveryEnd_in h
    · exact pcRecoveryEnd_in h
  · intro u
    refine ⟨fun h => ⟨(pcRetrainEnd_train h).trans (next_eq (if_pos rfl)), (pcRetrainEnd_train h).trans (next_eq (if_neg Bool.false_ne_true))⟩, fun h hb hr => (pcRetrainEnd_start h).trans (if_neg ?_), fun h1 h2 => ?_⟩
    · simp [hr]
      omega
    · by_cases hs : p.phase = .start
      · refine (pcRetrainEnd_start hs).trans (if_pos ?_)
        by_contra hn
        simp at hn
        exact h2 ⟨hs, by omega, hn.2⟩
      · exact pcRetrainEnd_not h1 hs

end Sys2Proof.Machine
end

section
/-! O51: the ends of bank transitions and handovers (R346 to R352, Table 12.3). -/
namespace Sys2Proof.Machine

variable {s : State} {b : Fin 128}

/-! ### The content of a bank after a transition (Table 12.3) -/

theorem State.length_freeBytes {n : Nat} : (s.freeBytes n).length = n := by
  simp [State.freeBytes]

theorem State.getD_freeBytes {n i : Nat} (h : i < n) : (s.freeBytes n).getD i 0 = Config.freeByte (s.fresh + i) := by
  simp [State.freeBytes, h]

section
variable {b : Nat} {old new : BankSt} {z : Bool}

/-- The transitions that leave the bank at zeros. -/
def toZeros (old new : BankSt) (z : Bool) : Prop := new = .off ∨ (old = .off ∧ (new = .hibernate ∨ z = true))

/-- The wake whose content the spec does not say. -/
def toFree (old new : BankSt) (z : Bool) : Prop := old = .off ∧ new = .on ∧ z = false

theorem State.bankContent_zeros (h : toZeros old new z) : s.bankContent b old new z = s.zeroBank b 0 (2 ^ 20) := by
  rcases h with rfl | ⟨rfl, rfl | rfl⟩
  · cases old <;> rfl
  · rfl
  · cases new <;> rfl

theorem State.bankContent_free (h : toFree old new z) :
    s.bankContent b old new z = (s.writeBank b 0 (s.freeBytes (2 ^ 20))).bumpBy (2 ^ 20) := by
  obtain ⟨rfl, rfl, rfl⟩ := h
  rfl

theorem State.bankContent_same (h1 : ¬ toZeros old new z) (h2 : ¬ toFree old new z) : s.bankContent b old new z = s := by
  unfold State.bankContent
  split
  case h_1 => exact absurd (.inl rfl) h1
  case h_2 => exact absurd ⟨rfl, rfl, by simpa [toZeros] using h1⟩ h2
  case h_3 => exact absurd (.inr ⟨rfl, .inl rfl⟩) h1
  case h_4 => rfl

/-- A transition changes no byte outside its bank. -/
theorem State.bankContent_outside {a : Nat} (h : ¬ (bankKey b 0 ≤ a ∧ a < bankKey b 0 + 2 ^ 20)) :
    Memory.read (s.bankContent b old new z).bnk.ram a = Memory.read s.bnk.ram a := by
  by_cases hz : toZeros old new z
  · rw [State.bankContent_zeros hz]
    exact Memory.read_zero.trans (if_neg h)
  · by_cases hf : toFree old new z
    · rw [State.bankContent_free hf, show ∀ (t : State) n, (t.bumpBy n).bnk = t.bnk from fun _ _ => rfl, State.writeBank_read, State.length_freeBytes]
      exact if_neg h
    · rw [State.bankContent_same hz hf]

theorem State.bankContent_dram : (s.bankContent b old new z).sql.dram = s.sql.dram := by
  have hzero : ∀ n, (s.zeroBank b 0 n).sql = s.sql := fun _ => rfl
  have hwrite : ∀ n d, ((s.writeBank b 0 d).bumpBy n).sql = s.sql := fun _ _ => rfl
  by_cases hz : toZeros old new z
  · rw [State.bankContent_zeros hz, hzero]
  · by_cases hf : toFree old new z
    · rw [State.bankContent_free hf, hwrite]
    · rw [State.bankContent_same hz hf]

end

/-! ### Transitions and handovers (R346 to R352) -/

theorem bankTransitionEnd_waits (h : (s.bank b).trans = none ∨ ((s.bank b).st = .on ∧ s.bankIdle b = false)) :
    exec (.bankTransitionEnd b) s = .next s := by
  show execBankTransitionEnd b s = _
  unfold execBankTransitionEnd
  dsimp only
  split
  case h_1 => rfl
  case h_2 t z ht => exact if_pos (by simpa using h.resolve_left (by simp [ht]))

theorem bankTransitionEnd_ends {t : BankSt} {z : Bool} (ht : (s.bank b).trans = some (t, z)) (h : ¬ ((s.bank b).st = .on ∧ s.bankIdle b = false)) :
    exec (.bankTransitionEnd b) s = .next (
      let u := ((s.bankContent b (s.bank b).st t z).updBank b (fun k => { k with
        st := t, trans := none, wakes := if t = .on then sat 65535 (k.wakes + 1) else k.wakes })).endKind (fun j => decide (j = .bnkPower b false)) .ok 0
      if (s.bank b).releasing then u.freeByState b else u.nextTransition b) := by
  show execBankTransitionEnd b s = _
  unfold execBankTransitionEnd
  dsimp only
  rw [ht]
  exact if_neg (by simpa using h)

theorem handoverTake_waits (h : (s.bank b).handover = none ∨ s.bankIdle b = false ∨ s.orphansFor b = true) : exec (.handoverTake b) s = .next s := by
  show execHandoverTake b s = _
  unfold execHandoverTake
  split
  case h_1 => rfl
  case h_2 n t ht => exact if_pos (by simpa using h.resolve_left (by simp [ht]))

theorem handoverTake_takes {n t : Nat} (ht : (s.bank b).handover = some (n, t)) (hi : s.bankIdle b = true) (ho : s.orphansFor b = false) :
    exec (.handoverTake b) s =
      let u := (s.endKind (fun j => decide (j = .handover b)) .ok 0).updBank b (fun k => { k with handover := none })
      let v := u.setOwner b n
      if n = 0x7FF then .next (u.releaseBank b)
      else .next (if isDevice n && decide ((v.bank b).st ≠ .on) && (v.bank b).trans.isNone then v.updBank b (fun k => { k with trans := some (.on, false) }) else v) := by
  show execHandoverTake b s = _
  unfold execHandoverTake
  rw [ht]
  exact if_neg (by simp [hi, ho])

theorem handoverTimeout_not (h : (s.bank b).handover = none ∨ s.findJob (fun j => decide (j = .handover b)) = none) :
    exec (.handoverTimeout b) s = .next s := by
  show execHandoverTimeout b s = _
  unfold execHandoverTimeout
  split
  case h_1 ht hj => exact h.elim (fun h => by simp [h] at ht) fun h => by simp [h] at hj
  case h_2 => rfl

theorem handoverTimeout_over {n t : Nat} {j : Job} (ht : (s.bank b).handover = some (n, t))
    (hj : s.findJob (fun j => decide (j = .handover b)) = some j) : exec (.handoverTimeout b) s =
      .next ((((s.advanceTo (t + 160000000)).updBank b (fun k => { k with handover := none })).dropJobs (fun x => decide (x = j))).timeoutRun j.run 0) := by
  show execHandoverTimeout b s = _
  unfold execHandoverTimeout
  rw [ht, hj]

/-- Settles O51: a bank's content is said by `bankContent` alone. -/
theorem banksChangePowerStateAndOwner : Obligations.BanksChangePowerStateAndOwner := by
  intro s b k
  refine ⟨bankTransitionEnd_waits, fun t z ht h => ?_, handoverTake_waits, fun n t ht hi ho => ?_, handoverTimeout_not, fun n t j ht hj => handoverTimeout_over ht hj⟩
  · intro u zeros open_ inBank
    obtain ⟨x, hx⟩ : ∃ x, x = if k.releasing then u.freeByState b else u.nextTransition b := ⟨_, rfl⟩
    have hkept : x.kept = (s.bankContent b k.st t z).kept := by
      rw [hx]
      split <;> simp [u]
    refine ⟨x, (bankTransitionEnd_ends ht h).trans (next_eq hx.symm), hx, fun a => ?_, fun a ha => ?_, fun hz a ha => ?_, fun ho i hi => ?_, fun hz ho => ?_⟩
    · rw [State.dram_of_kept hkept, State.bankContent_dram]
    · rw [State.ram_of_kept hkept, State.bankContent_outside ha]
    · rw [State.ram_of_kept hkept, State.bankContent_zeros hz]
      exact Memory.read_zero.trans (if_pos ha)
    · rw [State.ram_of_kept hkept, State.bankContent_free ho, show ∀ (t : State) n, (t.bumpBy n).bnk = t.bnk from fun _ _ => rfl, State.writeBank_read,
        State.length_freeBytes, if_pos ⟨Nat.le_add_right .., Nat.add_lt_add_left hi _⟩, Nat.add_sub_cancel_left, State.getD_freeBytes hi]
    · rw [State.ram_of_kept hkept, State.bankContent_same hz ho]
  · intro u v
    have htake := handoverTake_takes ht hi ho
    refine ⟨fun h => htake.trans (if_pos h), fun h => htake.trans ((if_neg h).trans (next_eq (if_congr ?_ rfl rfl)))⟩
    simp [u, v, and_assoc]

end Sys2Proof.Machine
end

section
/-! O52: input edges, measurement blocks, pulses and logic cells (R362, R367, R370, R374 to R391). -/
namespace Sys2Proof.Machine

variable {s : State} {i : Fin 16}

/-! ### Input edges (R374 to R378) -/

/-- An edge within 2 LC of the edge before. -/
theorem tooSoon_iff {last : Option Nat} {stamp : Nat} : (last.map (fun l => decide (stamp < l + 131072))).getD false = true ↔
    ∃ e, last = some e ∧ stamp < e + 131072 := by
  cases last <;> simp

/-- An edge that comes neither in the dead time nor within the hold-off is counted, stamped and registered. -/
theorem inputEdge_eq {rising : Bool} {frac : BitVec 16} (hp : s.power.pwrgd = true) : exec (.inputEdge i rising frac) s =
    let x := s.input i
    let stamp := stampOf s.lc frac.toNat
    if x.settling || (x.lastStamp.map (fun l => decide (stamp < l + 131072))).getD false then
      .next (s.updInput i (fun x => { x with dead := sat 65535 (x.dead + 1) }))
    else if !x.legacy && decide (stamp < x.holdUntil) then
      .next (s.updInput i (fun x => { x with heldOff := sat 65535 (x.heldOff + 1) }))
    else
      let u := s.updInput i (fun x => { x with
        edges := sat (2 ^ 32 - 1) (x.edges + 1), level := rising, lastStamp := some stamp
        holdUntil := if x.legacy then x.holdUntil else stamp + ceilDiv (x.holdoff * 1048576) 10 })
      let odd := Config.freeNat u.fresh % 2
      let at_ := if frac.toNat ≤ 1048 then u.lc + odd else if 64488 ≤ frac.toNat then u.lc - odd else u.lc
      .next ((u.inputEvent i (x.primary rising) u.lc at_ frac.toNat).bump) := if_neg (by simp [hp])

/-! ### Measurement blocks (R383 to R391) -/

section
variable {m : Meas} {rest : List TmuEv}

theorem tmuResult_final {tf : Nat} (hk : (s.slot i).st ≠ 0) (h : (s.slot i).measure s.tbOff = (m, some tf, rest)) : exec (.tmuResult i) s =
    .next (((s.registerBlock i m tf false).nextBlock i m tf false rest).endKind (fun j => decide (j = .tmuRun i)) .ok 0) := by
  show execTmuResult i s = _
  unfold execTmuResult
  dsimp only
  rw [if_neg hk, h]

theorem tmuResult_none (hk : (s.slot i).st ≠ 0) (h : (s.slot i).measure s.tbOff = (m, none, rest)) : exec (.tmuResult i) s = .next s := by
  show execTmuResult i s = _
  unfold execTmuResult
  dsimp only
  rw [if_neg hk, h]

theorem tmuBlockTimeout_final {tf : Nat} (hk : (s.slot i).st ≠ 0) (h : (s.slot i).measure s.tbOff = (m, some tf, rest)) :
    exec (.tmuBlockTimeout i) s = .next s := by
  show execTmuBlockTimeout i s = _
  unfold execTmuBlockTimeout
  dsimp only
  rw [if_neg hk, h]

theorem tmuBlockTimeout_none (hk : (s.slot i).st ≠ 0) (h : (s.slot i).measure s.tbOff = (m, none, rest)) : exec (.tmuBlockTimeout i) s =
    .next (((s.registerBlock i m (s.slot i).timeoutAt true).nextBlock i m (s.slot i).timeoutAt true rest).timeoutTmu i) := by
  show execTmuBlockTimeout i s = _
  unfold execTmuBlockTimeout
  dsimp only
  rw [if_neg hk, h]

end

/-! ### Pulses and logic cells (R367, R370) -/

theorem eoPulseStart_none (h : (s.eo i).dues = []) : exec (.eoPulseStart i) s = .next s := by
  show execEoPulseStart i s = _
  unfold execEoPulseStart
  rw [h]

theorem eoPulseStart_due {a : Nat} {r : List Nat} (h : (s.eo i).dues = a :: r) : exec (.eoPulseStart i) s = .next ((s.advanceTo (a + 6)).updEo i (fun e => { e with
    dues := r, high := true, endAt := some (a + 10), pulses := sat (2 ^ 24 - 1) (e.pulses + 1) })) := by
  show execEoPulseStart i s = _
  unfold execEoPulseStart
  rw [h]

theorem eoPulseEnd_none (h : (s.eo i).endAt = none) : exec (.eoPulseEnd i) s = .next s := by
  show execEoPulseEnd i s = _
  unfold execEoPulseEnd
  rw [h]

theorem eoPulseEnd_some {t : Nat} (h : (s.eo i).endAt = some t) : exec (.eoPulseEnd i) s =
    .next ((s.advanceTo t).updEo i (fun e => { e with high := false, endAt := none })) := by
  show execEoPulseEnd i s = _
  unfold execEoPulseEnd
  rw [h]

section
variable {l : Fin 32}

theorem lutCellFire_none (h : (((s.cell l).upTo s.lc).look (((s.cell l).upTo s.lc).w + 4)).dues = []) : exec (.lutCellFire l) s = .next s := by
  show execLutCellFire l s = _
  unfold execLutCellFire
  dsimp only
  rw [h]

theorem lutCellFire_due {u : Nat} {r : List Nat} (h : (((s.cell l).upTo s.lc).look (((s.cell l).upTo s.lc).w + 4)).dues = u :: r) :
    exec (.lutCellFire l) s = .next (
      let d := ((s.cell l).upTo s.lc).look (((s.cell l).upTo s.lc).w + 4)
      ((s.advanceTo u).updCell l (fun _ => { d with dues := r, fires := sat (2 ^ 24 - 1) (d.fires + 1) })).fireSrc (srcIs 6 l) u) := by
  show execLutCellFire l s = _
  unfold execLutCellFire
  dsimp only
  rw [h]

end

/-- Settles O52: each command in the cases of its input, slot, output or cell. -/
theorem inputsBlocksPulsesAndCellsTakeEffect : Obligations.InputsBlocksPulsesAndCellsTakeEffect := by
  intro s i l rising level frac x stamp dead held
  have hdead : (x.settling || (x.lastStamp.map (fun l => decide (stamp < l + 131072))).getD false) = true ↔ dead := by
    rw [Bool.or_eq_true, tooSoon_iff]
  have hheld : (!x.legacy && decide (stamp < x.holdUntil)) = true ↔ held := by simp [held]
  refine ⟨fun hp => if_pos (by simp [hp]), fun hp hd => (inputEdge_eq hp).trans (if_pos (hdead.2 hd)),
    fun hp hd hh => (inputEdge_eq hp).trans ((if_neg fun h => hd (hdead.1 h)).trans (if_pos (hheld.2 hh))), fun hp hd hh => ?_, rfl,
    fun h => if_neg (Bool.eq_false_iff.1 h), fun h => if_pos h, rfl, ?_, ⟨eoPulseStart_none, fun a r => eoPulseStart_due, eoPulseEnd_none, fun t => eoPulseEnd_some⟩, ?_⟩
  · intro u odd at_ v
    have hprimary : x.primary rising = if x.legacy = true ∧ x.slope = true then !rising else rising := if_congr (by rw [Bool.and_eq_true]) rfl rfl
    refine (inputEdge_eq hp).trans ((if_neg fun h => hd (hdead.1 h)).trans ((if_neg fun h => hh (hheld.1 h)).trans (next_eq ?_)))
    rw [show (s.input i).primary rising = _ from hprimary]
    rfl
  · intro k out
    refine ⟨fun h => ⟨if_pos h, if_pos h⟩, fun m tf rest hk ho => ⟨tmuResult_final hk ho, tmuBlockTimeout_final hk ho⟩,
      fun m rest hk ho => ⟨tmuResult_none hk ho, tmuBlockTimeout_none hk ho⟩⟩
  · exact ⟨lutCellFire_none, fun u r => lutCellFire_due⟩

end Sys2Proof.Machine
end

section
/-! O53: the correction's updates and commits, and the ends and commits of calibration batches (R397 to R412, R419 to R426). -/
namespace Sys2Proof.Machine

variable {s : State} {c : Fin 32} {b : Batch} {e : BatchEnd}

/-! ### The correction (R399 to R403) -/

theorem adaptationUpdate_learns {small grown : Bool} {residual change : BitVec 16} (h : 4 ≤ (s.aoc c).windows ∧ (s.aoc c).pending ≠ 2 ∧ s.calfUp = true) :
    exec (.adaptationUpdate c small grown residual change) s = .next ((s.updAoc c (fun a => { a with
      windows := a.windows - 4, updates := sat 65535 (a.updates + 1), residual := residual, change := change, lastSmall := small
      pendSet := { trained := true, coeff := some ((List.range 104).map (fun i => Config.freeWord (s.fresh + i))) }
      pending := if small && (s.aoc c).lastSmall && !grown then 1 else 0
      readyAt := if small && (s.aoc c).lastSmall && !grown then s.tb else a.readyAt })).bumpBy 104) := if_pos h

theorem autoCommit_auto (h : (s.aoc c).freeze = false ∧ (s.aoc c).pending = 1 ∧ s.calfUp = true) : exec (.autoCommit c) s = .next (
    let u := s.advanceTo (s.lcAt (up64 (BitVec.ofNat 64 (max ((s.aoc c).readyAt.toNat + 64) s.tb.toNat))))
    u.updAoc c (fun a => { a.commit u.tb with auto := sat 255 (a.auto + 1), autoAt := some (u.lc, a.auto) })) := if_pos h

/-! ### The end of a batch (R404 to R412) -/

/-- The verdict on a batch: the check that failed, the value that failed, or the values kept until the commit. -/
def State.judged (u : State) (b : Batch) (e : BatchEnd) (vs : List (Nat × W32)) : State :=
  match e.failure.filter (fun f => runsCheck b.kind f.1.toNat), if b.kind = 3 then none else valsFail b vs with
  | some (code, inst, range), _ => u.rejectBatch (code.toNat + 256 * inst.toNat + 65536 * range.toNat)
  | none, some code => u.rejectBatch code
  | none, none => u.updCal (fun k => { k with batch := some { b with vals := some vs, ackAt := u.tb } })

/-- The values of its kind that a batch found, of what is neither FAILED nor retired. -/
def State.foundVals (u : State) (b : Batch) (e : BatchEnd) : List (Nat × W32) :=
  ((if b.kind = 3 then b.blob else e.vals).filter (fun x => kindSets b.kind x.1 && !u.excluded x.1)).map (u.kindVal b.kind)

theorem calBatchEnd_none (h : s.cal.batch = none) : exec (.calBatchEnd e) s = .next s := by
  show execCalBatchEnd e s = _
  unfold execCalBatchEnd
  rw [h]

theorem calBatchEnd_some (h : s.cal.batch = some b) : exec (.calBatchEnd e) s =
    if b.vals.isSome || (b.boot && decide (s.fw.boot < 2)) || (decide (b.kind = 3) && b.blob.isEmpty) then .next s
    else .next ((s.selfTests b e).judged b e ((s.selfTests b e).foundVals b e)) := by
  show execCalBatchEnd e s = _
  unfold execCalBatchEnd
  rw [h] <;> rfl

/-- A batch is open that has no values yet, and whose time has come. -/
theorem closed_iff {n : Nat} : (b.vals.isSome || (b.boot && decide (n < 2)) || (decide (b.kind = 3) && b.blob.isEmpty)) = true ↔
    ¬ (b.vals = none ∧ (b.boot = true → 2 ≤ n) ∧ (b.kind = 3 → b.blob ≠ [])) := by
  rw [not_and_or, not_and_or, Classical.not_imp, Classical.not_imp, Bool.or_eq_true, Bool.or_eq_true, or_assoc]
  simp [Option.isSome_iff_ne_none]

section
variable {u : State} {vs : List (Nat × W32)}

theorem State.judged_fails {code inst range : BitVec 8} (h : e.failure = some (code, inst, range)) (hr : runsCheck b.kind code.toNat = true) :
    u.judged b e vs = u.rejectBatch (code.toNat + 256 * inst.toNat + 65536 * range.toNat) := by
  unfold State.judged
  rw [h, Option.filter_some, if_pos hr]

theorem State.no_failure (h : ∀ code inst range : BitVec 8, ¬ (e.failure = some (code, inst, range) ∧ runsCheck b.kind code.toNat = true)) :
    e.failure.filter (fun f => runsCheck b.kind f.1.toNat) = none := by
  cases hf : e.failure with
  | none => rfl
  | some x => exact (Option.filter_some ..).trans (if_neg fun hr => h x.1 x.2.1 x.2.2 ⟨hf, hr⟩)

theorem State.judged_value {code : Nat} (h : ∀ code inst range : BitVec 8, ¬ (e.failure = some (code, inst, range) ∧ runsCheck b.kind code.toNat = true))
    (hk : b.kind ≠ 3) (hv : valsFail b vs = some code) : u.judged b e vs = u.rejectBatch code := by
  unfold State.judged
  rw [State.no_failure h, if_neg hk, hv]

theorem State.judged_kept (h : ∀ code inst range : BitVec 8, ¬ (e.failure = some (code, inst, range) ∧ runsCheck b.kind code.toNat = true))
    (hv : b.kind = 3 ∨ valsFail b vs = none) : u.judged b e vs = u.updCal (fun k => { k with batch := some { b with vals := some vs, ackAt := u.tb } }) := by
  have hnone : (if b.kind = 3 then none else valsFail b vs) = none := by
    rcases hv with hk | hv
    · exact if_pos hk
    · rw [hv, ite_self]
  unfold State.judged
  rw [State.no_failure h, hnone]

end

/-! ### The commit of a batch (R419 to R426) -/

theorem calCommit_not (h : ∀ b, s.cal.batch = some b → b.vals = none) : exec .calCommit s = .next s := by
  show execCalCommit s = _
  unfold execCalCommit
  split
  case h_1 vs _ _ _ hb => exact absurd (h _ hb) (by simp)
  case h_2 => rfl

/-- A controller that restarts holds the commit (R420). -/
theorem converterDown_iff : [3, 4, 5, 6].any (fun p => decide ((s.proc p).st = 1)) = true ↔ ∃ p ∈ [3, 4, 5, 6], (s.proc p).st = 1 := by
  simp

theorem calCommit_waits (hd : ∃ p ∈ [3, 4, 5, 6], (s.proc p).st = 1) : exec .calCommit s = .next s := by
  show execCalCommit s = _
  unfold execCalCommit
  split
  case h_1 => exact if_pos (converterDown_iff.2 hd)
  case h_2 => rfl

theorem calCommit_commits {vs : List (Nat × W32)} (hb : s.cal.batch = some b) (hv : b.vals = some vs) (hd : ∀ p ∈ [3, 4, 5, 6], (s.proc p).st ≠ 1) :
    exec .calCommit s =
      let t0 := vs.foldl (fun t x => t.setVal x.1 x.2) (s.advanceTo (s.lcAt (up64 (b.ackAt + 64))))
      let t1 := if b.kind = 1 then t0.updCal (fun k => { k with declared := b.extref }) else t0
      let t2 := if b.boot then t1.updCal (fun k => { k with bootOk := true }) else t1
      let t3 := t2.closeBatch.noteCal b.kind
      if b.kind = 3 then
        let fit := b.tables.filter (fun x => t3.tableFits x)
        let t4 := (fit.foldl (fun t x => t.loadTable x) t3).updRec 3 (fun r => { r with wall := b.wall, result := BitVec.ofNat 24 fit.length })
        .next (t4.endKind (fun k => decide (k = .calRestoreCommit)) .ok fit.length)
      else .next (t3.endKind (fun k => decide (k = .cal)) .ok 0) := by
  obtain ⟨kind, boot, extref, vals, blob, ack, tables, wall, refBad⟩ := b
  obtain rfl : vals = some vs := hv
  show execCalCommit s = _
  unfold execCalCommit
  rw [hb]
  exact if_neg fun h => let ⟨p, hp, h1⟩ := converterDown_iff.1 h; hd p hp h1

/-- Settles O53: an update, a batch's verdict and its commit, each in its cases. -/
theorem adaptationAndCalibrationBatchesCommit : Obligations.AdaptationAndCalibrationBatchesCommit := by
  intro s c small grown residual change e a learns
  refine ⟨fun h => if_neg h, fun h => ?_, ?_, fun h => ⟨calBatchEnd_none h, calCommit_not fun b hb => by simp [h] at hb⟩, fun b hb => ?_⟩
  · intro ready u
    have hready : (small && a.lastSmall && !grown) = true ↔ ready := by simp [ready, and_assoc]
    refine (adaptationUpdate_learns h).trans (next_eq ?_)
    rw [show (s.aoc c).lastSmall = a.lastSmall from rfl]
    simp only [hready]
    rfl
  · intro auto u
    exact ⟨fun h => if_neg h, fun h => (autoCommit_auto h).trans rfl⟩
  · intro open_ u
    have hend := calBatchEnd_some (e := e) hb
    refine ⟨fun h => hend.trans (if_pos (closed_iff.2 h)), ?_⟩
    intro vs fails
    have hopen : open_ → exec (.calBatchEnd e) s = .next (u.judged b e vs) := fun ho => hend.trans (if_neg fun h => closed_iff.1 h ho)
    refine ⟨fun code inst range ho hf => (hopen ho).trans (next_eq (State.judged_fails hf.1 hf.2)),
      fun code ho hf hk hv => (hopen ho).trans (next_eq (State.judged_value hf hk hv)),
      fun ho hf hv => (hopen ho).trans (next_eq (State.judged_kept hf hv)), fun h => calCommit_not fun b' hb' => ?_, fun _ hd => calCommit_waits hd,
      fun vs hv hd => ?_⟩
    · rwa [Option.some.inj (hb'.symm.trans hb)]
    · intro t0 t1 t2 t3 fit t4
      exact ⟨fun hk => (calCommit_commits hb hv hd).trans (if_neg hk), fun hk => (calCommit_commits hb hv hd).trans (if_pos hk)⟩

end Sys2Proof.Machine
end

section
/-! O54 and O55: watchdogs and restarts of the processors, temperature levels, trips and the cold plate (R424, R426 to R431, R441 to R446). -/
namespace Sys2Proof.Machine

variable {s : State}

/-! ### Watchdogs (R426 to R429) -/

theorem State.thirdRestart_iff {p : Nat} : s.thirdRestart p = true ↔ 2 ≤ (s.recentRestarts p).length := decide_eq_true_iff

theorem State.tellHolders_eq {cs : List Nat} {code unit : Nat} : s.tellHolders cs code unit =
    if cs = [] then s.fault code 2 .p none unit [] else cs.foldl (fun t c => t.fault code 2 .cAndP (some c) unit []) s :=
  if_congr List.isEmpty_iff rfl rfl

/-- A processor that is not running has no watchdog. -/
theorem mgmtWatchdog_not (h : s.procRuns 0 = false) : exec .mgmtWatchdog s = .next s := next_eq (if_pos (by simp [h]))

theorem mgmtWatchdog_runs (h : s.procRuns 0 = true) : exec .mgmtWatchdog s =
    .next (if s.thirdRestart 0 then ((s.fault 0xA02 5 .p none 0 []).abandonPackets).enterRecovery 4
      else ((s.restartProc 0).fault 0xA01 2 .p none 0 []).abandonPackets) := next_eq (if_neg (by simp [h]))

theorem procHeartbeatLoss_not {memPhy : Bool} (h : s.procRuns (if memPhy then 2 else 1) = false ∨ s.mgmtUp = false) :
    exec (.procHeartbeatLoss memPhy) s = .next s := next_eq (if_pos (by simpa using h))

theorem procHeartbeatLoss_calib (h : s.procRuns 1 = true) (hm : s.mgmtUp = true) : exec (.procHeartbeatLoss false) s =
    .next (if s.thirdRestart 1 then (((s.holdProc 1).fault 0xA04 5 .p none 1 []).abandonBatch 3).updCal (fun c => { c with bgRun := false })
      else ((s.restartProc 1).fault 0xA03 2 .p none 1 []).abandonBatch 3) := by
  refine next_eq ((if_neg (by simp [h, hm])).trans ?_)
  simp only [Bool.false_eq_true, if_false]
  cases s.thirdRestart 1 <;> rfl

theorem procHeartbeatLoss_memPhy (h : s.procRuns 2 = true) (hm : s.mgmtUp = true) : exec (.procHeartbeatLoss true) s =
    .next (if s.thirdRestart 2 then (s.holdProc 2).fault 0xA04 5 .p none 2 [] else (s.restartProc 2).fault 0xA03 2 .p none 2 []) := by
  refine next_eq ((if_neg (by simp [h, hm])).trans ?_)
  cases h2 : s.thirdRestart 2 <;> simp [h2]

theorem ctrlWatchdog_not {n : Fin 5} (h : s.procRuns (3 + n.val) = false) : exec (.ctrlWatchdog n) s = .next s := next_eq (if_pos (by simp [h]))

theorem ctrlWatchdog_runs {n : Fin 5} (h : s.procRuns (3 + n.val) = true) : exec (.ctrlWatchdog n) s = .next (
    let p := 3 + n.val
    if n.val < 4 then
      if s.thirdRestart p then ((s.holdProc p).fault 0xA06 5 .p none p []).each (dieChannels n) (fun c s => s.failFch c)
      else (s.restartProc p).tellHolders (s.dieHolders n) 0xA05 p
    else if s.thirdRestart p then ((s.holdProc p).fault 0xA0A 5 .p none p []).each (List.range 16) (fun k s => s.failPch k)
    else (s.restartProc p).tellHolders (s.pchHolders.map (fun e => e.1)) 0xA09 p) := next_eq (if_neg (by simp [h]))

/-- A restart ends only while power is good and no boot, restart or recovery is under way. -/
theorem restartHeld_iff {pwrgd restarting recovery : Bool} {st : Nat} : (!pwrgd || decide (st ≠ 1) || restarting || recovery) = true ↔
    ¬ (pwrgd = true ∧ st = 1 ∧ restarting = false ∧ recovery = false) := by
  cases pwrgd <;> simp [or_assoc, imp_iff_not_or]

theorem processorRestartEnd_ends {p : Fin 8} (h : s.power.pwrgd = true ∧ (s.proc p).st = 1 ∧ s.sys.restarting = false ∧ s.sys.recovery = false) :
    exec (.processorRestartEnd p) s = .next (if p = 0 then (if 1 ≤ s.fw.boot then (s.updProc 0 (fun x => { x with st := 0 })).resumeMgmt else s)
      else if s.fw.boot = 2 ∧ s.mgmtUp = true then s.updProc p (fun x => { x with st := 0 }) else s) :=
  next_eq (if_neg fun hn => restartHeld_iff.1 hn h)

/-- Settles O54. -/
theorem watchdogsRestartProcessors : Obligations.WatchdogsRestartProcessors := by
  intro s n p restart hold third tells
  have hthird : ∀ k, s.thirdRestart k = true ↔ third k := fun k => State.thirdRestart_iff
  have htells : ∀ (t : State) cs code unit, t.tellHolders cs code unit = tells t cs code unit := fun t cs code unit => State.tellHolders_eq
  refine ⟨mgmtWatchdog_not, fun h => ?_, procHeartbeatLoss_not (memPhy := false), fun h hm => ?_, procHeartbeatLoss_not (memPhy := true), fun h hm => ?_,
    ?_, ctrlWatchdog_not (n := 4), fun h => ?_, ?_⟩
  · exact ⟨fun ht => (mgmtWatchdog_runs h).trans (next_eq (if_pos ((hthird 0).2 ht))),
      fun ht => (mgmtWatchdog_runs h).trans (next_eq (if_neg fun hn => ht ((hthird 0).1 hn)))⟩
  · exact ⟨fun ht => (procHeartbeatLoss_calib h hm).trans (next_eq (if_pos ((hthird 1).2 ht))),
      fun ht => (procHeartbeatLoss_calib h hm).trans (next_eq (if_neg fun hn => ht ((hthird 1).1 hn)))⟩
  · exact ⟨fun ht => (procHeartbeatLoss_memPhy h hm).trans (next_eq (if_pos ((hthird 2).2 ht))),
      fun ht => (procHeartbeatLoss_memPhy h hm).trans (next_eq (if_neg fun hn => ht ((hthird 2).1 hn)))⟩
  · intro k
    have hrun := fun h : s.procRuns k = true => (ctrlWatchdog_runs (n := n.castSucc) h).trans (next_eq (if_pos n.isLt))
    exact ⟨ctrlWatchdog_not (n := n.castSucc), fun h ht => (hrun h).trans (next_eq (if_pos ((hthird k).2 ht))),
      fun h ht => (hrun h).trans (next_eq ((if_neg fun hn => ht ((hthird k).1 hn)).trans (htells ..)))⟩
  · have hrun := (ctrlWatchdog_runs (n := 4) h).trans (next_eq (if_neg (by decide)))
    exact ⟨fun ht => hrun.trans (next_eq (if_pos ((hthird 7).2 ht))),
      fun ht => hrun.trans (next_eq ((if_neg fun hn => ht ((hthird 7).1 hn)).trans (htells ..)))⟩
  · intro ends
    refine ⟨fun h => next_eq (if_pos (restartHeld_iff.2 h)), fun h hp hb => (processorRestartEnd_ends h).trans (next_eq ((if_pos hp).trans (if_pos hb))),
      fun h hp hb => (processorRestartEnd_ends h).trans (next_eq ((if_pos hp).trans (if_neg (by omega)))),
      fun h hp hb hm => (processorRestartEnd_ends h).trans (next_eq ((if_neg hp).trans (if_pos ⟨hb, hm⟩))),
      fun h hp hn => (processorRestartEnd_ends h).trans (next_eq ((if_neg hp).trans (if_neg hn)))⟩

/-! ### Levels, trips and the cold plate (R441 to R446) -/

section
variable {k : Fin 9} {v : BitVec 16} {l : Fin 4}

/-- The state once a report has been taken and the device's level follows the sensors' (R441). -/
def State.withLevel (a : State) (lc k : Nat) (v : BitVec 16) (l : Nat) : State :=
  let u := a.updSensor k (fun x => ({ x with level := l, transitions := sat 65535 (x.transitions + (max (a.sensor k).level l - min (a.sensor k).level l)) } : Sensor).track v lc)
  { u with tmp := { u.tmp with level := u.topLevel } }

/-- The answer to a report that is taken: the device's level falls, or rises level by level and shuts down at SHUT. -/
def levelAnswer (w : State) (k : Nat) (v : BitVec 16) (dev : Nat) : Ans :=
  let new := w.tmp.level
  if new < dev then .next ((w.tmpEvent 2).fault 0xB04 0 .a none k (detT new v (levelThr dev - 768)))
  else
    let x := w.each ((List.range (new - dev)).map (fun i => dev + 1 + i)) (fun j t => t.enterLevel k v j)
    .next (if dev < new ∧ new = 3 then ({ x with smb := { x.smb with otFault := true } } : State).shutdown 5 [] else x)

theorem State.readSensor_lc : (s.readSensor k v).lc = s.lc :=
  (congrArg State.lc (if_pos (Nat.ne_of_lt k.isLt))).trans rfl

theorem tempLevelChange_eq (hp : s.power.pwrgd = true) : exec (.tempLevelChange k v l) s =
    let a := s.readSensor k v
    if (a.sensor k).levelAt s.lc ≠ l.val ∨ l.val = (a.sensor k).level then .next a
    else levelAnswer (a.withLevel s.lc k v l) k v a.tmp.level := by
  have hrun : exec (.tempLevelChange k v l) s =
      let a := s.readSensor k v
      if (a.sensor k).levelAt a.lc ≠ l.val ∨ l.val = (a.sensor k).level then .next a
      else levelAnswer (a.withLevel a.lc k v l) k v a.tmp.level := if_neg (by simp [hp])
  simpa only [State.readSensor_lc] using hrun

theorem tempTrip_starting (h : s.power.phase = .starting ∨ s.power.phase = .pwrgdLow) : exec (.tempTrip k) s =
    .next { s with
      smb := { s.smb with otFault := true }
      log := { s.log with mramRecs := s.log.mramRecs ++ [{ s.mkRec 0xB05 0 .a none k s.tb (detT 4 (s.sensor k).reading 32000) with previous := true }] }
      power := { s.power with phase := .shutdown, pwrgd := false, downAt := s.lc, cause := 6 } } := if_pos h

theorem tempTrip_running (h : s.power.phase = .running) : exec (.tempTrip k) s =
    let r := s.mkRec 0xB05 0 .a none k s.tb (detT 4 (s.sensor k).reading 32000)
    let t := if s.mgmtUp then s.logRec r else s
    .next (({ t with smb := { t.smb with otFault := true } } : State).shutdown 6 (if s.mgmtUp then [] else [{ r with previous := true }])) :=
  (if_neg (by simp [h])).trans (if_neg (by simp [h]))

/-- The face has stayed towards the change for a second (R446). -/
theorem faceLong_iff {since : Option Nat} {lc d : Nat} : (since.map (fun t => decide (t + d ≤ lc))).getD false = true ↔
    ∃ t, since = some t ∧ t + d ≤ lc := by
  cases since <;> simp

theorem faceKept_iff {long high raised : Bool} : (!long || high == raised) = true ↔ ¬ long = true ∨ high = raised := by
  cases long <;> simp

end

/-- Settles O55. -/
theorem temperatureLevelsTripsAndTheColdPlate : Obligations.TemperatureLevelsTripsAndTheColdPlate := by
  intro s k v l
  refine ⟨fun hp => if_pos (by simp [hp]), fun hp => ?_, fun hr hs hl => (if_neg (by simp [hs, hl])).trans (if_pos hr), ?_, fun hp high => if_pos (by simp [hp]), fun hp => ?_⟩
  · intro a old taken u dev new w x
    have htook : taken → exec (.tempLevelChange k v l) s = levelAnswer w k v dev := by
      intro ⟨hat, hne⟩
      exact (tempLevelChange_eq hp).trans (if_neg (not_or.2 ⟨fun h => h hat, hne⟩))
    refine ⟨fun hn => (tempLevelChange_eq hp).trans (if_pos ((not_and_or.1 hn).imp id not_not.1)), fun ht hlt => (htook ht).trans (if_pos hlt),
      fun ht hle hn => (htook ht).trans ((if_neg (Nat.not_lt.2 hle)).trans (next_eq (if_neg hn))),
      fun ht hlt h3 => (htook ht).trans ((if_neg (Nat.lt_asymm hlt)).trans (next_eq (if_pos ⟨hlt, h3⟩)))⟩
  · intro r hot
    exact ⟨fun h hm => (tempTrip_running h).trans (by simp only [hm, if_true]; rfl), fun h hm => (tempTrip_running h).trans (by simp [hm, r, hot]), tempTrip_starting⟩
  · intro u long
    have hbase : ∀ high, exec (.coldplateHigh v high) s = _ := fun high => if_neg (by simp [hp])
    have hlong : (u.tmp.faceSince.map (fun t => decide (t + 1600000000 ≤ u.lc))).getD false = true ↔ long := faceLong_iff
    refine ⟨fun h hr => (hbase true).trans ((if_neg ?_).trans (if_pos rfl)), fun h hr => (hbase false).trans ((if_neg ?_).trans (if_neg Bool.false_ne_true)),
      fun high h => (hbase high).trans (if_pos (faceKept_iff.2 (h.imp (mt hlong.1) id)))⟩
    all_goals
      rw [faceKept_iff, not_or]
      exact ⟨fun hn => hn (hlong.2 h), by simp [u, hr] ⟩

end Sys2Proof.Machine
end
